-- ==== Sys2Proof/Word.lean ====
section
/-!
DEFINITION. The widths the spec names (R3, R4, R38, R121) as bit vectors, and the field of a natural number.
-/
set_option Elab.async false

namespace Sys2Proof

/-- One byte of memory (R4). -/
abbrev Byte := BitVec 8
/-- A word is 64 bits (R3). -/
abbrev Word := BitVec 64
/-- A register or a granule: 128 bits (R3, R38). -/
abbrev Quad := BitVec 128
/-- A write signature (R121). -/
abbrev Sig := BitVec 768
/-- The number of a register g0–g31 (R27). -/
abbrev RegNum := Fin 32
/-- The number of a tile tl0–tl31 (R51). -/
abbrev TileNum := Fin 32

/-- Bits `lo + len - 1` down to `lo` of `w`, as a natural number (R4). -/
def fld (w lo len : Nat) : Nat := w / 2 ^ lo % 2 ^ len

/-- A thread slot: its core in the package (cluster × 64 + core) and its slot (R10, R12, R13). -/
structure Tid where
  core : Nat
  slot : Nat
  deriving DecidableEq, Repr

end Sys2Proof
end

