-- ==== Sys2Proof/Config.lean ====
section
/-!
DEFINITION. What the spec leaves open. Each is a constant without a body: nothing can be proved about its value.
-/
namespace Sys2Proof.Config

/-- Which way of a full set an L1 or instruction-cache fill replaces (R61, R92), applied to the counter of free values. -/
opaque victimWay : Nat → Nat
/-- How many whole rotations pass beyond the slot's next position before an instruction issues (R8, R14). -/
opaque idleRotations : Nat → Nat
/-- A result the spec gives no value for, applied to the counter of free values. -/
opaque freeWord : Nat → Word
/-- Where the host's own translation takes an untranslated request of a PASID (R377): outside the module. -/
opaque hostAddress : Nat → Nat → Nat
/-- Whether the host completes an untranslated request of a PASID with an error (R377). -/
opaque hostRefuses : Nat → Nat → Bool

/-- Whether the module at the far end of a Faleus port holds domains of a job (R354): outside the module. -/
opaque jobPort : Nat → Nat → Bool
/-- The domains of other modules that get their first marker of a job's snapshot from a domain (R361): outside the module. -/
opaque jobChildren : Nat → Nat → List Nat
/-- Whether the domains of other modules hold a job's snapshot with an id as job complete (R369): outside the module. -/
opaque jobHolds : Nat → Nat → Bool

end Sys2Proof.Config
end

