-- ==== Sys2Proof/Machine/Memory.lean ====
section
/-!
DEFINITION. Plain data structures: sparse maps, sets of numbers, and a byte store with the full/empty bits, tags and
poison marks of R22 and R106. Every one is a sorted list.
-/
namespace Sys2Proof.Machine

/-- A sparse map from numbers. A key that is not listed has the map's default value, which its reader names. -/
abbrev Map (α : Type) := List (Nat × α)

/-- The value at `k`, or `d` when none is listed. -/
def Map.get {α : Type} (d : α) : Map α → Nat → α
  | [], _ => d
  | (k, x) :: r, j => if j = k then x else Map.get d r j

/-- The map with `k` holding `v`. -/
def Map.set {α : Type} : Map α → Nat → α → Map α
  | [], j, v => [(j, v)]
  | (k, x) :: r, j, v =>
    if j = k then (j, v) :: r else if j < k then (j, v) :: (k, x) :: r else (k, x) :: Map.set r j v

/-- The value at `k`, if one is listed. -/
def Map.find {α : Type} : Map α → Nat → Option α
  | [], _ => none
  | (k, x) :: r, j => if j = k then some x else Map.find r j

/-- The map without `k`. -/
def Map.del {α : Type} (m : Map α) (k : Nat) : Map α := m.filter (fun e => e.1 != k)

/-- Change every value of the map. -/
def Map.mapVals {α : Type} (f : α → α) (m : Map α) : Map α := m.map (fun e => (e.1, f e.2))

/-- The lowest number below `n` that the map does not list. -/
def Map.firstFree {α : Type} (m : Map α) (n : Nat) : Option Nat :=
  (List.range n).find? (fun k => (Map.find m k).isNone)

/-- A sorted set of numbers. -/
abbrev NatSet := List Nat

/-- Membership. -/
def NatSet.has (l : NatSet) (x : Nat) : Bool := l.any (fun y => y == x)

/-- The set with `x`. -/
def NatSet.ins : NatSet → Nat → NatSet
  | [], x => [x]
  | y :: r, x => if x = y then y :: r else if x < y then x :: y :: r else y :: NatSet.ins r x

/-- The set without `x`. -/
def NatSet.del (l : NatSet) (x : Nat) : NatSet := l.filter (fun y => y != x)

/-- The set with `x` in or out. -/
def NatSet.put (l : NatSet) (x : Nat) (b : Bool) : NatSet := if b then NatSet.ins l x else NatSet.del l x

/-- The byte at `a`; an unlisted address reads as 0 (log entry 6). -/
def cellGet : List Host.Cell → Nat → Byte
  | [], _ => 0
  | (k, b) :: r, a => if a = k then b else cellGet r a

/-- The bytes with `b` at `a`, in the canonical form. -/
def cellSet : List Host.Cell → Nat → Byte → List Host.Cell
  | [], a, b => if b = 0 then [] else [(a, b)]
  | (k, x) :: r, a, b =>
    if a = k then (if b = 0 then r else (a, b) :: r)
    else if a < k then (if b = 0 then (k, x) :: r else (a, b) :: (k, x) :: r)
    else (k, x) :: cellSet r a b

/-- The canonical form: addresses strictly rising from above `lo`, and no byte equal to what an unlisted one reads as. -/
def cellsWfFrom : Option Nat → List Host.Cell → Bool
  | _, [] => true
  | lo, (k, b) :: r => (match lo with | none => true | some l => decide (l < k)) && b != 0 && cellsWfFrom (some k) r

/-- A memory: its bytes, the words (addresses divided by 8) that are full, the granules (divided by 16) that are
tagged, and the words that are poisoned (R22, R106). -/
structure Store where
  bytes : List Host.Cell := []
  full : NatSet := []
  tags : NatSet := []
  poison : NatSet := []
  deriving DecidableEq, Repr

/-- The canonical form of a memory. -/
abbrev Store.wf (m : Store) : Prop := cellsWfFrom none m.bytes = true

/-- The byte at an address. -/
def Store.byte (m : Store) (a : Nat) : Byte := cellGet m.bytes a

/-- The store with a byte written. -/
def Store.setByte (m : Store) (a : Nat) (b : Byte) : Store := { m with bytes := cellSet m.bytes a b }

/-- `n` bytes at `a`, little-endian (R4). -/
def Store.read (m : Store) (a : Nat) : Nat → Nat
  | 0 => 0
  | n + 1 => (m.byte a).toNat + 256 * Store.read m (a + 1) n

/-- Write the low `n` bytes of `v` at `a`, little-endian (R4). -/
def Store.write (m : Store) (a : Nat) : Nat → Nat → Store
  | 0, _ => m
  | n + 1, v => Store.write (m.setByte a (BitVec.ofNat 8 v)) (a + 1) n (v / 256)

/-- Write those of the `n` bytes of `v` at `a` whose bit of `mask` is set. -/
def Store.writeMasked (m : Store) (a : Nat) : Nat → Nat → Nat → Store
  | 0, _, _ => m
  | n + 1, v, mask =>
    Store.writeMasked (if mask % 2 = 1 then m.setByte a (BitVec.ofNat 8 v) else m) (a + 1) n (v / 256) (mask / 2)

/-- The numbers from `lo` to `hi - 1`. -/
def rangeFrom (lo hi : Nat) : List Nat := (List.range (hi - lo)).map (fun i => lo + i)

/-- The words that `n` bytes at `a` touch. -/
def wordsOf (a n : Nat) : List Nat := if n = 0 then [] else rangeFrom (a / 8) ((a + n - 1) / 8 + 1)

/-- The granules that `n` bytes at `a` touch. -/
def granulesOf (a n : Nat) : List Nat := if n = 0 then [] else rangeFrom (a / 16) ((a + n - 1) / 16 + 1)

/-- Clear the tags of the granules that `n` bytes at `a` touch (R22, R94). -/
def Store.clearTags (m : Store) (a n : Nat) : Store := { m with tags := (granulesOf a n).foldl NatSet.del m.tags }

/-- Set or clear the tag of the granule that holds `a`. -/
def Store.setTag (m : Store) (a : Nat) (t : Bool) : Store := { m with tags := NatSet.put m.tags (a / 16) t }

/-- The tag of the granule that holds `a`. -/
def Store.tag (m : Store) (a : Nat) : Bool := NatSet.has m.tags (a / 16)

/-- Whether the word that holds `a` is full (R99). -/
def Store.isFull (m : Store) (a : Nat) : Bool := NatSet.has m.full (a / 8)

/-- Set the word that holds `a` full or empty. -/
def Store.setFull (m : Store) (a : Nat) (f : Bool) : Store := { m with full := NatSet.put m.full (a / 8) f }

/-- The lowest poisoned word that `n` bytes at `a` touch, as an address (R106). -/
def Store.poisoned (m : Store) (a n : Nat) : Option Nat :=
  ((wordsOf a n).find? (NatSet.has m.poison)).map (fun w => 8 * w)

/-- Mark or clear a word's poison. -/
def Store.setPoison (m : Store) (a : Nat) (p : Bool) : Store := { m with poison := NatSet.put m.poison (a / 8) p }

/-- Write whole words or part of one by the poison rule of R106: a write of fewer than eight bytes of a poisoned word is
not performed; a whole-word write clears the poison. Tags are cleared as for any store of data. The flag says that a
part was not performed. -/
def Store.writeData (m : Store) (a n v : Nat) : Store × Bool :=
  (wordsOf a n).foldl (fun (acc : Store × Bool) w =>
    let lo := if 8 * w < a then a else 8 * w
    let hi := if a + n < 8 * w + 8 then a + n else 8 * w + 8
    let whole := decide (lo = 8 * w) && decide (hi = 8 * w + 8)
    let p := NatSet.has acc.1.poison w
    if p && !whole then (acc.1, true)
    else
      let m1 := (acc.1.write lo (hi - lo) (v / 256 ^ (lo - a))).clearTags lo (hi - lo)
      ((if p then m1.setPoison lo false else m1), acc.2)) (m, false)

end Sys2Proof.Machine
end

