-- ==== Sys2Proof/Syntax.lean ====
section
/-!
DEFINITION. The instructions: one constructor for each row of the opcode table, those with a word (R32) and the
events, which have none: what takes part in an event (the names in its docstring) stands in `State.ev`.
-/
namespace Sys2Proof

/-- The scope of an ordering instruction (Table 6-1). -/
inductive Scope where
  | thread
  | core
  | cluster
  | device
  | system
  deriving DecidableEq, Repr

/-- Scope codes (R33). -/
def Scope.code : Scope → Nat
  | .thread => 0
  | .core => 1
  | .cluster => 2
  | .device => 3
  | .system => 4

/-- The order of an atomic (R33). -/
inductive AOrder where
  | rlx
  | acq
  | rel
  | acqrel
  deriving DecidableEq, Repr

/-- Order codes (R33). -/
def AOrder.code : AOrder → Nat
  | .rlx => 0
  | .acq => 1
  | .rel => 2
  | .acqrel => 3

/-- The neighbour a put goes to (R187). -/
inductive Dir where
  | e
  | w
  | s
  | n
  deriving DecidableEq, Repr

/-- Direction codes (R187). -/
def Dir.code : Dir → Nat
  | .e => 0
  | .w => 1
  | .s => 2
  | .n => 3

/-- The V-format type field (R34). -/
inductive VType where
  | f32
  | f16
  | bf16
  | i8
  | i16
  | i32
  | i64
  deriving DecidableEq, Repr

/-- Type codes (R34). -/
def VType.code : VType → Nat
  | .f32 => 0
  | .f16 => 1
  | .bf16 => 2
  | .i8 => 4
  | .i16 => 5
  | .i32 => 6
  | .i64 => 7

/-- The floating types of the V-format type field (R34, R207). -/
inductive FType where
  | f32
  | f16
  | bf16
  deriving DecidableEq, Repr

/-- Type codes (R207). -/
def FType.code : FType → Nat
  | .f32 => 0
  | .f16 => 1
  | .bf16 => 2

/-- The mode of VADD, VSUB and VMUL (R221). -/
inductive SatMode where
  | wrap
  | satS
  | satN
  deriving DecidableEq, Repr

/-- Mode codes (R221). -/
def SatMode.code : SatMode → Nat
  | .wrap => 0
  | .satS => 1
  | .satN => 2

/-- The predicate of VCMP (R34). -/
inductive Pred where
  | eq
  | ne
  | lt
  | le
  | gt
  | ge
  | un
  | ord
  deriving DecidableEq, Repr

/-- Predicate codes (R34). -/
def Pred.code : Pred → Nat
  | .eq => 0
  | .ne => 1
  | .lt => 2
  | .le => 3
  | .gt => 4
  | .ge => 5
  | .un => 6
  | .ord => 7

/-- The element types of VCVT, codes 0–10 of Table 2-4. -/
inductive NumType where
  | f32
  | f16
  | bf16
  | s8
  | s16
  | s32
  | s64
  | n8
  | n16
  | n32
  | n64
  deriving DecidableEq, Repr

/-- Element type codes (Table 2-4). -/
def NumType.code : NumType → Nat
  | .f32 => 0
  | .f16 => 1
  | .bf16 => 2
  | .s8 => 3
  | .s16 => 4
  | .s32 => 5
  | .s64 => 6
  | .n8 => 7
  | .n16 => 8
  | .n32 => 9
  | .n64 => 10

/-- The state registers of Table 2-7. -/
inductive Csr where
  | tstat
  | rmode
  | tcause
  | tval
  | tepc
  | tvec
  | tstamp
  | ttie
  | thint
  | grnk
  | gsiz
  | fmta
  | fmtb
  | fmto
  | sca
  | scb
  | fflags
  | cycle
  | instret
  | geom
  | anch
  | spcf
  | mstat
  | xstat
  | lhbase
  | tilebase
  | clid
  | portcfg
  | spillq
  | ddesc
  | lwin
  | ptroot
  | spilla
  | ctxa
  | snapa
  | thermt
  | lattol
  deriving DecidableEq, Repr

/-- State-register numbers (Table 2-7). -/
def Csr.code : Csr → Nat
  | .tstat => 0
  | .rmode => 1
  | .tcause => 2
  | .tval => 3
  | .tepc => 4
  | .tvec => 5
  | .tstamp => 6
  | .ttie => 7
  | .thint => 8
  | .grnk => 9
  | .gsiz => 10
  | .fmta => 11
  | .fmtb => 12
  | .fmto => 13
  | .sca => 14
  | .scb => 15
  | .fflags => 16
  | .cycle => 17
  | .instret => 18
  | .geom => 256
  | .anch => 257
  | .spcf => 258
  | .mstat => 259
  | .xstat => 260
  | .lhbase => 261
  | .tilebase => 262
  | .clid => 512
  | .portcfg => 513
  | .spillq => 514
  | .ddesc => 768
  | .lwin => 769
  | .ptroot => 770
  | .spilla => 771
  | .ctxa => 772
  | .snapa => 773
  | .thermt => 774
  | .lattol => 775

/-- The instructions and events of the opcode table. -/
inductive Instr where
  /-- ADD (R64): Writes the 64-bit sum of a and b to d. -/
  | add (d : RegNum) (a : RegNum) (b : RegNum)
  /-- SUB (R64): Writes a minus b, modulo 2^64, to d. -/
  | sub (d : RegNum) (a : RegNum) (b : RegNum)
  /-- MUL (R64): Writes the low 64 bits of a times b to d. -/
  | mul (d : RegNum) (a : RegNum) (b : RegNum)
  /-- MULH (R64): Writes the high 64 bits of the signed product of a and b to d. -/
  | mulh (d : RegNum) (a : RegNum) (b : RegNum)
  /-- MULHN (R64): Writes the high 64 bits of the natural product of a and b to d. -/
  | mulhn (d : RegNum) (a : RegNum) (b : RegNum)
  /-- DIV (R65): Signed division truncating toward zero; raises DIVZ when b is zero. -/
  | div (d : RegNum) (a : RegNum) (b : RegNum)
  /-- DIVN (R65): Natural division; raises DIVZ when b is zero. -/
  | divn (d : RegNum) (a : RegNum) (b : RegNum)
  /-- REM (R65): Signed remainder of a truncating division; raises DIVZ when b is zero. -/
  | rem (d : RegNum) (a : RegNum) (b : RegNum)
  /-- REMN (R65): Natural remainder; raises DIVZ when b is zero. -/
  | remn (d : RegNum) (a : RegNum) (b : RegNum)
  /-- AND (R64): Writes the bitwise AND of a and b to d. -/
  | and (d : RegNum) (a : RegNum) (b : RegNum)
  /-- OR (R64): Writes the bitwise OR of a and b to d. -/
  | or (d : RegNum) (a : RegNum) (b : RegNum)
  /-- XOR (R64): Writes the bitwise XOR of a and b to d. -/
  | xor (d : RegNum) (a : RegNum) (b : RegNum)
  /-- ANDN (R64): Writes a AND NOT b to d. -/
  | andn (d : RegNum) (a : RegNum) (b : RegNum)
  /-- SHL (R64): Shifts a left logically by b<5:0>. -/
  | shl (d : RegNum) (a : RegNum) (b : RegNum)
  /-- SHR (R64): Shifts a right logically by b<5:0>. -/
  | shr (d : RegNum) (a : RegNum) (b : RegNum)
  /-- SHA (R64): Shifts a right arithmetically by b<5:0>. -/
  | sha (d : RegNum) (a : RegNum) (b : RegNum)
  /-- ROTR (R64): Rotates a right by b<5:0>. -/
  | rotr (d : RegNum) (a : RegNum) (b : RegNum)
  /-- CLZ (R64): Counts the zeros above the highest set bit of a. -/
  | clz (d : RegNum) (a : RegNum)
  /-- CTZ (R64): Counts the zeros below the lowest set bit of a. -/
  | ctz (d : RegNum) (a : RegNum)
  /-- POPC (R64): Counts the set bits of a. -/
  | popc (d : RegNum) (a : RegNum)
  /-- MIN (R64): Writes the signed minimum of a and b to d. -/
  | min (d : RegNum) (a : RegNum) (b : RegNum)
  /-- MAX (R64): Writes the signed maximum of a and b to d. -/
  | max (d : RegNum) (a : RegNum) (b : RegNum)
  /-- MINN (R64): Writes the natural minimum of a and b to d. -/
  | minn (d : RegNum) (a : RegNum) (b : RegNum)
  /-- MAXN (R64): Writes the natural maximum of a and b to d. -/
  | maxn (d : RegNum) (a : RegNum) (b : RegNum)
  /-- SEQ (R64): Writes 1 to d when a equals b, and 0 otherwise. -/
  | seq (d : RegNum) (a : RegNum) (b : RegNum)
  /-- SNE (R64): Writes 1 to d when a differs from b, and 0 otherwise. -/
  | sne (d : RegNum) (a : RegNum) (b : RegNum)
  /-- SLT (R64): Writes 1 to d when a is less than b, compared signed. -/
  | slt (d : RegNum) (a : RegNum) (b : RegNum)
  /-- SLTN (R64): Writes 1 to d when a is less than b, compared natural. -/
  | sltn (d : RegNum) (a : RegNum) (b : RegNum)
  /-- SLE (R64): Writes 1 to d when a is at most b, compared signed. -/
  | sle (d : RegNum) (a : RegNum) (b : RegNum)
  /-- SLEN (R64): Writes 1 to d when a is at most b, compared natural. -/
  | slen (d : RegNum) (a : RegNum) (b : RegNum)
  /-- SEL (R64): Writes a to d when c is non-zero, and b otherwise. -/
  | sel (d : RegNum) (a : RegNum) (b : RegNum) (c : RegNum)
  /-- EXTB (R66): Extracts a bit field of a, sign-extended. -/
  | extb (d : RegNum) (a : RegNum) (b : RegNum)
  /-- EXTBN (R66): Extracts a bit field of a, zero-extended. -/
  | extbn (d : RegNum) (a : RegNum) (b : RegNum)
  /-- INSB (R66): Inserts a field of a into d. -/
  | insb (d : RegNum) (a : RegNum) (b : RegNum)
  /-- ADDI (R67): Adds a sign-extended immediate to a. -/
  | addi (d : RegNum) (a : RegNum) (imm : BitVec 16)
  /-- ANDI (R67): ANDs a with a zero-extended immediate. -/
  | andi (d : RegNum) (a : RegNum) (imm : BitVec 16)
  /-- ORI (R67): ORs a with a zero-extended immediate. -/
  | ori (d : RegNum) (a : RegNum) (imm : BitVec 16)
  /-- XORI (R67): XORs a with a zero-extended immediate. -/
  | xori (d : RegNum) (a : RegNum) (imm : BitVec 16)
  /-- SLTI (R67): Writes 1 to d when a is less than the signed immediate. -/
  | slti (d : RegNum) (a : RegNum) (imm : BitVec 16)
  /-- SHLI (R68): Shifts a left by an immediate amount. -/
  | shli (d : RegNum) (a : RegNum) (n : Fin 64)
  /-- SHRI (R68): Shifts a right logically by an immediate amount. -/
  | shri (d : RegNum) (a : RegNum) (n : Fin 64)
  /-- SHAI (R68): Shifts a right arithmetically by an immediate amount. -/
  | shai (d : RegNum) (a : RegNum) (n : Fin 64)
  /-- LIH (R69): Loads bits 31:16 of a constant, chained after LIHH or sign-extended. -/
  | lih (d : RegNum) (imm : BitVec 16)
  /-- LIHH (R69): Loads bits 47:32 of a constant, sign-extended. -/
  | lihh (d : RegNum) (imm : BitVec 16)
  /-- CGADR (R76): Writes the address of a as a scalar. -/
  | cgadr (d : RegNum) (a : RegNum)
  /-- CSADR (R77): Sets the address of capability a to b, keeping the tag only within the window. -/
  | csadr (d : RegNum) (a : RegNum) (b : RegNum)
  /-- CINC (R77): Adds b to the address of capability a, keeping the tag only within the window. -/
  | cinc (d : RegNum) (a : RegNum) (b : RegNum)
  /-- CBND (R78): Sets bounds from the current address with length b, rounded outward. -/
  | cbnd (d : RegNum) (a : RegNum) (b : RegNum)
  /-- CBNDX (R78): Sets exact bounds from the current address with length b, or faults. -/
  | cbndx (d : RegNum) (a : RegNum) (b : RegNum)
  /-- CANDP (R76): Masks the permissions of capability a with b. -/
  | candp (d : RegNum) (a : RegNum) (b : RegNum)
  /-- CSEAL (R79): Seals capability a with the object type named by b. -/
  | cseal (d : RegNum) (a : RegNum) (b : RegNum)
  /-- CUNSL (R79): Unseals capability a under the authority of b. -/
  | cunsl (d : RegNum) (a : RegNum) (b : RegNum)
  /-- CGBAS (R76): Writes the decoded base of a as a scalar. -/
  | cgbas (d : RegNum) (a : RegNum)
  /-- CGLEN (R76): Writes the decoded length of a as a scalar. -/
  | cglen (d : RegNum) (a : RegNum)
  /-- CGPRM (R76): Writes the permissions of a as a scalar. -/
  | cgprm (d : RegNum) (a : RegNum)
  /-- CGTYP (R76): Writes the object type of a as a scalar. -/
  | cgtyp (d : RegNum) (a : RegNum)
  /-- CGTAG (R76): Writes the tag of a as a scalar. -/
  | cgtag (d : RegNum) (a : RegNum)
  /-- CCLRT (R76): Copies a with its tag cleared. -/
  | cclrt (d : RegNum) (a : RegNum)
  /-- CMOV (R76): Copies capability a with its tag unchanged. -/
  | cmov (d : RegNum) (a : RegNum)
  /-- CSUB (R76): Writes the difference of the addresses of a and b. -/
  | csub (d : RegNum) (a : RegNum) (b : RegNum)
  /-- CTSUB (R80): Writes 1 when capability b is a subset of capability a. -/
  | ctsub (d : RegNum) (a : RegNum) (b : RegNum)
  /-- CJR (R81): Jumps through capability a, unsealing a sentry. -/
  | cjr (a : RegNum)
  /-- CJLR (R81): Jumps through capability a and writes a sentry link to d. -/
  | cjlr (d : RegNum) (a : RegNum)
  /-- CSENT (R76): Makes a sentry from capability a. -/
  | csent (d : RegNum) (a : RegNum)
  /-- CINCI (R77): Adds a sign-extended immediate to the address of capability a. -/
  | cinci (d : RegNum) (a : RegNum) (imm : BitVec 16)
  /-- BEQ (R72): Branches when a equals b. -/
  | beq (a : RegNum) (b : RegNum) (disp : BitVec 12)
  /-- BNE (R72): Branches when a differs from b. -/
  | bne (a : RegNum) (b : RegNum) (disp : BitVec 12)
  /-- BLT (R72): Branches when a is less than b, compared signed. -/
  | blt (a : RegNum) (b : RegNum) (disp : BitVec 12)
  /-- BGE (R72): Branches when a is at least b, compared signed. -/
  | bge (a : RegNum) (b : RegNum) (disp : BitVec 12)
  /-- BLTN (R72): Branches when a is less than b, compared natural. -/
  | bltn (a : RegNum) (b : RegNum) (disp : BitVec 12)
  /-- BGEN (R72): Branches when a is at least b, compared natural. -/
  | bgen (a : RegNum) (b : RegNum) (disp : BitVec 12)
  /-- BEZ (R72): Branches when a is zero. -/
  | bez (a : RegNum) (disp : BitVec 18)
  /-- BNZ (R72): Branches when a is non-zero. -/
  | bnz (a : RegNum) (disp : BitVec 18)
  /-- BLZ (R72): Branches when a is negative. -/
  | blz (a : RegNum) (disp : BitVec 18)
  /-- BGZ (R72): Branches when a is positive. -/
  | bgz (a : RegNum) (disp : BitVec 18)
  /-- BLEZ (R72): Branches when a is at most zero. -/
  | blez (a : RegNum) (disp : BitVec 18)
  /-- BGEZ (R72): Branches when a is at least zero. -/
  | bgez (a : RegNum) (disp : BitVec 18)
  /-- J (R73): Jumps to PC plus 4 times the displacement. -/
  | j (disp : BitVec 26)
  /-- JL (R73): Jumps and writes the return address to g31. -/
  | jl (disp : BitVec 26)
  /-- JR (R74): Jumps to the address held in a. -/
  | jr (a : RegNum)
  /-- JLR (R74): Jumps to the address in a and writes the return address to d. -/
  | jlr (d : RegNum) (a : RegNum)
  /-- LD_S8 (R97): Loads a sign-extended byte; .rx makes it a relaxed scratch access. -/
  | ldS8 (d : RegNum) (base : RegNum) (off : BitVec 11) (rx : Bool)
  /-- LD_S16 (R97): Loads a sign-extended 16-bit value. -/
  | ldS16 (d : RegNum) (base : RegNum) (off : BitVec 11) (rx : Bool)
  /-- LD_S32 (R97): Loads a sign-extended 32-bit value. -/
  | ldS32 (d : RegNum) (base : RegNum) (off : BitVec 11) (rx : Bool)
  /-- LD_S64 (R97): Loads a 64-bit value. -/
  | ldS64 (d : RegNum) (base : RegNum) (off : BitVec 11) (rx : Bool)
  /-- LD_N8 (R97): Loads a zero-extended byte. -/
  | ldN8 (d : RegNum) (base : RegNum) (off : BitVec 11) (rx : Bool)
  /-- LD_N16 (R97): Loads a zero-extended 16-bit value. -/
  | ldN16 (d : RegNum) (base : RegNum) (off : BitVec 11) (rx : Bool)
  /-- LD_N32 (R97): Loads a zero-extended 32-bit value. -/
  | ldN32 (d : RegNum) (base : RegNum) (off : BitVec 11) (rx : Bool)
  /-- LD_Q128 (R97): Loads all 128 bits of d. -/
  | ldQ128 (d : RegNum) (base : RegNum) (off : BitVec 11) (rx : Bool)
  /-- ST_8 (R97): Stores the low byte of d. -/
  | st8 (d : RegNum) (base : RegNum) (off : BitVec 11) (rx : Bool)
  /-- ST_16 (R97): Stores the low 16 bits of d. -/
  | st16 (d : RegNum) (base : RegNum) (off : BitVec 11) (rx : Bool)
  /-- ST_32 (R97): Stores the low 32 bits of d. -/
  | st32 (d : RegNum) (base : RegNum) (off : BitVec 11) (rx : Bool)
  /-- ST_64 (R97): Stores the low 64 bits of d. -/
  | st64 (d : RegNum) (base : RegNum) (off : BitVec 11) (rx : Bool)
  /-- ST_Q128 (R97): Stores all 128 bits of d. -/
  | stQ128 (d : RegNum) (base : RegNum) (off : BitVec 11) (rx : Bool)
  /-- LDC (R98): Loads a 16-byte granule with its tag, under LC. -/
  | ldc (d : RegNum) (base : RegNum) (off : BitVec 11)
  /-- STC (R98): Stores a register as a capability granule with its tag. -/
  | stc (d : RegNum) (base : RegNum) (off : BitVec 11)
  /-- LDE (R99): Waits while the word is empty, then reads it, leaves it empty and acquires. -/
  | lde (d : RegNum) (base : RegNum) (off : BitVec 11)
  /-- LDF (R99): Waits while the word is empty, then reads it, leaves it full and acquires. -/
  | ldf (d : RegNum) (base : RegNum) (off : BitVec 11)
  /-- STF (R99): Releases, waits while the word is full, then writes it and sets it full. -/
  | stf (d : RegNum) (base : RegNum) (off : BitVec 11)
  /-- STX (R99): Releases, then writes the word and sets it full without waiting. -/
  | stx (d : RegNum) (base : RegNum) (off : BitVec 11)
  /-- FEC (R99): Reads the word and its full/empty state without changing either. -/
  | fec (d : RegNum) (base : RegNum) (off : BitVec 11)
  /-- FEQ (R99): Reads only the full/empty state of the word. -/
  | feq (d : RegNum) (base : RegNum) (off : BitVec 11)
  /-- AADD (R131): Atomically adds b to the word and returns the old value. -/
  | aadd (d : RegNum) (a : RegNum) (b : RegNum) (w : Bool) (sc : Scope) (ord : AOrder)
  /-- AAND (R131): Atomic AND returning the old value. -/
  | aand (d : RegNum) (a : RegNum) (b : RegNum) (w : Bool) (sc : Scope) (ord : AOrder)
  /-- AOR (R131): Atomic OR returning the old value. -/
  | aor (d : RegNum) (a : RegNum) (b : RegNum) (w : Bool) (sc : Scope) (ord : AOrder)
  /-- AXOR (R131): Atomic XOR returning the old value. -/
  | axor (d : RegNum) (a : RegNum) (b : RegNum) (w : Bool) (sc : Scope) (ord : AOrder)
  /-- AMIN (R131): Atomic signed minimum returning the old value. -/
  | amin (d : RegNum) (a : RegNum) (b : RegNum) (w : Bool) (sc : Scope) (ord : AOrder)
  /-- AMAX (R131): Atomic signed maximum returning the old value. -/
  | amax (d : RegNum) (a : RegNum) (b : RegNum) (w : Bool) (sc : Scope) (ord : AOrder)
  /-- AMINN (R131): Atomic natural minimum returning the old value. -/
  | aminn (d : RegNum) (a : RegNum) (b : RegNum) (w : Bool) (sc : Scope) (ord : AOrder)
  /-- AMAXN (R131): Atomic natural maximum returning the old value. -/
  | amaxn (d : RegNum) (a : RegNum) (b : RegNum) (w : Bool) (sc : Scope) (ord : AOrder)
  /-- ASWP (R131): Atomic swap returning the old value. -/
  | aswp (d : RegNum) (a : RegNum) (b : RegNum) (w : Bool) (sc : Scope) (ord : AOrder)
  /-- ACAS (R131): Atomic compare-and-swap against the comparand in d. -/
  | acas (d : RegNum) (a : RegNum) (b : RegNum) (w : Bool) (sc : Scope) (ord : AOrder)
  /-- AFADD (R132): Atomic binary32 add under RMODE. -/
  | afadd (d : RegNum) (a : RegNum) (b : RegNum) (sc : Scope) (ord : AOrder)
  /-- FENCE (R129): Drains .rx accesses, then releases and acquires by its set bits and scope. -/
  | fence (sets : BitVec 4) (sc : Scope)
  /-- STREL (R124): Releases and publishes the value and write signature to a synchronisation block. -/
  | strel (d : RegNum) (a : RegNum) (sc : Scope)
  /-- LDACQ (R125): Reads a block's value and acquires through its signature. -/
  | ldacq (d : RegNum) (a : RegNum) (sc : Scope)
  /-- SIGRST (R126): Clears a block's signature and control fields. -/
  | sigrst (a : RegNum) (sc : Scope)
  /-- SIGMRG (R127): Reads a block and merges its signature into inh without acquiring. -/
  | sigmrg (d : RegNum) (a : RegNum) (sc : Scope)
  /-- PREF (R103): Prefetches the lines of a range into the L1. -/
  | pref (a : RegNum) (b : RegNum)
  /-- CFLU (R103): Writes back the dirty bytes of a range and waits. -/
  | cflu (a : RegNum) (b : RegNum)
  /-- CINV (R103): Writes back and invalidates the L1 lines of a range. -/
  | cinv (a : RegNum) (b : RegNum)
  /-- DISC (R104): Discards whole lines of a range without writing them back. -/
  | disc (a : RegNum) (b : RegNum)
  /-- LLCK (R105): Pins all lines of a range in their home slices, or none. -/
  | llck (d : RegNum) (a : RegNum) (b : RegNum)
  /-- LULK (R105): Unpins the lines of a range. -/
  | lulk (d : RegNum) (a : RegNum) (b : RegNum)
  /-- TENQ (R167): Enqueues a task record with timestamp b and returns the status. -/
  | tenq (d : RegNum) (a : RegNum) (b : RegNum)
  /-- TENQW (R167): Enqueues a task record, parking and resending while queues are full. -/
  | tenqw (d : RegNum) (a : RegNum) (b : RegNum)
  /-- TABT (R170): Abandons the issuing task, re-queuing or discarding it. -/
  | tabt (a : RegNum)
  /-- TVT (R172): Writes the task's own virtual time or the last U. -/
  | tvt (d : RegNum) (sel : Fin 2)
  /-- CSIG (R173): Waits for acknowledgements, releases at system scope and adds b to a word. -/
  | csig (d : RegNum) (a : RegNum) (b : RegNum)
  /-- GARR (R182): Releases and arrives at the thread's gang phase. -/
  | garr (d : RegNum)
  /-- GWAIT (R183): Waits for the completion of the last arrival and acquires the phase signature. -/
  | gwait (d : RegNum)
  /-- GSYNC (R183): Arrives at the phase and waits for its completion as one instruction. -/
  | gsync (d : RegNum)
  /-- GEXP (R184): Posts expected bytes to the thread's arrival phase. -/
  | gexp (a : RegNum)
  /-- GRANK (R185): Reads the gang coordinates chosen by the selector. -/
  | grank (d : RegNum) (sel : Fin 5)
  /-- RPUT (R188): Sends a register to a register of a neighbour core's slot. -/
  | rput (d : RegNum) (a : RegNum) (t : RegNum) (slot : Fin 15) (dir : Dir)
  /-- RTAKE (R189): Waits until d's presence bit is set, then clears it. -/
  | rtake (d : RegNum)
  /-- RPRES (R189): Reads the presence bits and clears those named by the mask. -/
  | rpres (d : RegNum) (a : RegNum)
  /-- VADD (R221): Adds lanes, wrapping or saturating for integers. -/
  | vadd (d : RegNum) (a : RegNum) (b : RegNum) (t : VType) (mode : SatMode)
  /-- VSUB (R221): Subtracts lanes. -/
  | vsub (d : RegNum) (a : RegNum) (b : RegNum) (t : VType) (mode : SatMode)
  /-- VMUL (R221): Multiplies lanes. -/
  | vmul (d : RegNum) (a : RegNum) (b : RegNum) (t : VType) (mode : SatMode)
  /-- VFMA (R219): Fused multiply-add of lanes, rounded once. -/
  | vfma (d : RegNum) (a : RegNum) (b : RegNum) (c : RegNum) (t : VType)
  /-- VFMS (R219): Fused multiply-subtract of lanes, rounded once. -/
  | vfms (d : RegNum) (a : RegNum) (b : RegNum) (c : RegNum) (t : VType)
  /-- VDOT (R223): Forms short dot products into wider lanes. -/
  | vdot (d : RegNum) (a : RegNum) (b : RegNum) (c : RegNum) (t : VType)
  /-- VMIN (R222): Lane minimum. -/
  | vmin (d : RegNum) (a : RegNum) (b : RegNum) (t : VType) (nat : Bool)
  /-- VMAX (R222): Lane maximum. -/
  | vmax (d : RegNum) (a : RegNum) (b : RegNum) (t : VType) (nat : Bool)
  /-- VABS (R222): Lane absolute value. -/
  | vabs (d : RegNum) (a : RegNum) (t : VType) (nat : Bool)
  /-- VNEG (R222): Lane negation. -/
  | vneg (d : RegNum) (a : RegNum) (t : VType) (nat : Bool)
  /-- VDIV (R222): Floating lane division. -/
  | vdiv (d : RegNum) (a : RegNum) (b : RegNum) (t : FType)
  /-- VRSQ (R222): Correctly rounded floating reciprocal square root of each lane. -/
  | vrsq (d : RegNum) (a : RegNum) (t : FType)
  /-- VREDA (R222): Sums all lanes of a and lane 0 of b into lane 0. -/
  | vreda (d : RegNum) (a : RegNum) (b : RegNum) (t : VType) (nat : Bool)
  /-- VREDM (R222): Takes the maximum of all lanes of a and lane 0 of b into lane 0. -/
  | vredm (d : RegNum) (a : RegNum) (b : RegNum) (t : VType) (nat : Bool)
  /-- VCMP (R224): Writes a lane mask of the predicate's outcome. -/
  | vcmp (d : RegNum) (a : RegNum) (b : RegNum) (t : VType) (p : Pred) (nat : Bool)
  /-- VAND (R225): Bitwise AND of 128 bits. -/
  | vand (d : RegNum) (a : RegNum) (b : RegNum)
  /-- VOR (R225): Bitwise OR of 128 bits. -/
  | vor (d : RegNum) (a : RegNum) (b : RegNum)
  /-- VXOR (R225): Bitwise XOR of 128 bits. -/
  | vxor (d : RegNum) (a : RegNum) (b : RegNum)
  /-- VSEL (R225): Bitwise select of a and b under mask c. -/
  | vsel (d : RegNum) (a : RegNum) (b : RegNum) (c : RegNum)
  /-- VPERM (R226): Selects bytes from the concatenation of a and b. -/
  | vperm (d : RegNum) (a : RegNum) (b : RegNum) (c : RegNum)
  /-- VSHL (R227): Shifts each lane left logically. -/
  | vshl (d : RegNum) (a : RegNum) (b : RegNum) (t : VType)
  /-- VSHR (R227): Shifts each lane right logically. -/
  | vshr (d : RegNum) (a : RegNum) (b : RegNum) (t : VType)
  /-- VSHA (R227): Shifts each lane right arithmetically. -/
  | vsha (d : RegNum) (a : RegNum) (b : RegNum) (t : VType)
  /-- VSPLT (R227): Copies one lane of a to every lane. -/
  | vsplt (d : RegNum) (a : RegNum) (t : VType) (lane : Fin 32)
  /-- VINS (R227): Inserts lane 0 of a into one lane of d. -/
  | vins (d : RegNum) (a : RegNum) (t : VType) (lane : Fin 32)
  /-- VEXT_SIGNED (R227): Extracts one lane to a scalar, sign-extended. -/
  | vextSigned (d : RegNum) (a : RegNum) (t : VType) (lane : Fin 32)
  /-- VEXT_NATURAL (R227): Extracts one lane to a scalar, zero-extended. -/
  | vextNatural (d : RegNum) (a : RegNum) (t : VType) (lane : Fin 32)
  /-- VCVT (R208): Converts elements between the type codes in b and c. -/
  | vcvt (d : RegNum) (a : RegNum) (dt : NumType) (st : NumType)
  /-- VDEC (R209): Decodes 8-bit or 4-bit codes through a decode table. -/
  | vdec (d : RegNum) (a : RegNum) (t : FType) (tbl : Fin 4) (four : Bool)
  /-- VENC (R210): Encodes lanes into codes of a decode table. -/
  | venc (d : RegNum) (a : RegNum) (t : FType) (tbl : Fin 4) (four : Bool)
  /-- VSCL (R211): Scales lanes by 2 to the signed power in b. -/
  | vscl (d : RegNum) (a : RegNum) (b : RegNum) (t : FType)
  /-- VSCL_E8M0 (R211): Scales lanes by the E8M0 scale in b. -/
  | vsclE8m0 (d : RegNum) (a : RegNum) (b : RegNum) (t : FType)
  /-- VSCL_SCA (R211): Scales lanes by 2 to the power SCA. -/
  | vsclSca (d : RegNum) (a : RegNum) (t : FType)
  /-- VSCL_SCB (R211): Scales lanes by 2 to the power SCB. -/
  | vsclScb (d : RegNum) (a : RegNum) (t : FType)
  /-- FCLS (R212): Writes the class mask of each floating lane. -/
  | fcls (d : RegNum) (a : RegNum) (t : FType)
  /-- TBLD (R214): Loads a decode table from a 1 KiB image and builds its permutation. -/
  | tbld (d : RegNum) (a : RegNum) (tbl : Fin 4)
  /-- TBCF (R215): Loads a ROM image into a decode table. -/
  | tbcf (d : RegNum) (k : Fin 5) (tbl : Fin 4)
  /-- TBCF_QUERY (R215): Returns a decode table's summary word without changing it. -/
  | tbcfQuery (d : RegNum) (tbl : Fin 4)
  /-- MLDB (R246): Reads a B tile from memory into the staging buffer and queues the macro write. -/
  | mldb (a : RegNum) (b : RegNum)
  /-- MLDB_TILE (R246): Reads a B tile from a tile and queues the macro write. -/
  | mldbTile (tl : TileNum)
  /-- MGEO (R248): Writes GEOM and returns the derived offsets and extents. -/
  | mgeo (d : RegNum) (a : RegNum)
  /-- MANC (R249): Changes the anchor and queues a rescale of the accumulator lanes. -/
  | manc (d : RegNum) (a : RegNum)
  /-- MMV (R250): Streams dense A rows past B into accumulator rows. -/
  | mmv (f : Fin 16) (a : RegNum) (m : Fin 16) (tl : TileNum)
  /-- MMVS (R251): Streams compressed A rows past B into accumulator rows. -/
  | mmvs (f : Fin 16) (a : RegNum) (m : Fin 16) (tl : TileNum)
  /-- MRD (R252): Converts accumulator rows into a tile in FMTO, optionally clearing them. -/
  | mrd (tl : TileNum) (f : Fin 16) (n : Fin 16) (clr : Bool)
  /-- MCLR (R253): Clears accumulator rows. -/
  | mclr (f : Fin 16) (n : Fin 16)
  /-- MCMD (R255): Sends a matrix command to another core's unit. -/
  | mcmd (d : RegNum) (a : RegNum) (b : RegNum)
  /-- MSTA (R254): Waits for earlier matrix operations and reads one accumulator lane. -/
  | msta (d : RegNum) (f : Fin 16) (lane : Fin 32)
  /-- ACHN (R266): Opens a Trellis chain at the target core. -/
  | achn (d : RegNum) (a : RegNum) (b : RegNum) (clr : Bool)
  /-- ASND (R267): Sends accumulator rows into a chain through the outbox. -/
  | asnd (f : Fin 16) (n : Fin 16) (a : RegNum) (b : RegNum) (clr : Bool)
  /-- ADRN (R273): Waits until the chain is done or closed and returns its status. -/
  | adrn (d : RegNum) (a : RegNum)
  /-- ADRN_NW (R273): Returns the chain status at once. -/
  | adrnNw (d : RegNum) (a : RegNum)
  /-- ACLS (R274): Closes a chain at its target. -/
  | acls (d : RegNum) (a : RegNum)
  /-- ARSN (R272): Waits until every refused row is ready and resends them. -/
  | arsn (d : RegNum)
  /-- ARSN_NW (R272): Resends the ready refused rows at once. -/
  | arsnNw (d : RegNum)
  /-- ARSN_DROP (R272): Drops every refused row of the thread. -/
  | arsnDrop (d : RegNum)
  /-- ASTA_OUTBOX (R275): Reads the thread's outbox status. -/
  | astaOutbox (d : RegNum)
  /-- ASTA_CHAIN (R273): Reads the status of a chain on the issuing core. -/
  | astaChain (d : RegNum) (a : RegNum)
  /-- XFER (R286): Pushes a transfer request, parking while the FIFO is full. -/
  | xfer (d : RegNum) (a : RegNum) (b : RegNum) (e : RegNum)
  /-- XFERB (R286): Pushes a transfer request, returning busy when the FIFO is full. -/
  | xferb (d : RegNum) (a : RegNum) (b : RegNum) (e : RegNum)
  /-- GETX (R290): Gathers indexed remote elements to a local destination. -/
  | getx (d : RegNum) (a : RegNum) (b : RegNum) (e : RegNum)
  /-- PUTX (R290): Scatters packed local elements to indexed remote places. -/
  | putx (d : RegNum) (a : RegNum) (b : RegNum) (e : RegNum)
  /-- CWAIT (R291): Waits until a completion counter reaches a threshold, then acquires. -/
  | cwait (d : RegNum) (cc : Fin 8) (a : RegNum)
  /-- CRD (R291): Reads a completion counter and acquires, optionally subtracting the value read. -/
  | crd (d : RegNum) (cc : Fin 8) (clr : Bool)
  /-- LHND (R292): Installs a landing handler capability. -/
  | lhnd (a : RegNum) (k : Fin 7)
  /-- TLDEF (R283): Defines a tile over a region of cluster scratch. -/
  | tldef (tl : TileNum) (a : RegNum) (b : RegNum) (rdy : Bool)
  /-- TLST_QUERY (R283): Returns a tile's status word. -/
  | tlstQuery (d : RegNum) (tl : TileNum)
  /-- TLST_READY (R283): Waits until the tile is empty or ready, then sets it ready. -/
  | tlstReady (d : RegNum) (tl : TileNum)
  /-- TLST_EMPTY (R283): Waits until the tile is empty or ready and unheld, then sets it empty. -/
  | tlstEmpty (d : RegNum) (tl : TileNum)
  /-- TLREL (R283): Releases a tile once it is unheld and idle. -/
  | tlrel (tl : TileNum)
  /-- CAML (R309): Loads the CAM from a fibre held in a tile. -/
  | caml (d : RegNum) (tl : TileNum) (b : RegNum)
  /-- CAMP (R310): Probes the CAM with the keys of a tile and writes matching pairs. -/
  | camp (d : RegNum) (o : TileNum) (p : TileNum) (b : RegNum)
  /-- CAMC (R311): Probes the CAM with one key. -/
  | camc (d : RegNum) (a : RegNum)
  /-- GETR (R313): Checks row pointers and pushes a gather of CSR rows into a tile. -/
  | getr (d : RegNum) (a : RegNum) (b : RegNum) (e : RegNum)
  /-- SPCF (R315): Reads SPCF and sets NEGEMPTY and clears NEGROW as asked. -/
  | spcf (d : RegNum) (a : RegNum)
  /-- SUBJ (R296): Joins a multicast tag and waits for the root's acknowledgement. -/
  | subj (d : RegNum) (a : RegNum) (b : RegNum)
  /-- SUBL (R296): Leaves a multicast tag and waits for the root's acknowledgement. -/
  | subl (d : RegNum) (b : RegNum)
  /-- SOPN (R298): Seeks and holds a stream route to another core. -/
  | sopn (d : RegNum) (a : RegNum) (b : RegNum)
  /-- SSND (R298): Sends the next chunk of a stream. -/
  | ssnd (d : RegNum) (p : Bool) (a : RegNum) (b : RegNum)
  /-- SCLS (R298): Sends a stream's closing flit. -/
  | scls (d : RegNum) (p : Bool)
  /-- SYSC (R320): Raises a SYSCALL trap with the immediate. -/
  | sysc (imm : BitVec 12)
  /-- TRAP (R320): Raises SYSCALL when a is non-zero. -/
  | trap (a : RegNum) (imm : BitVec 12)
  /-- BRK (R320): Raises a BREAK trap. -/
  | brk (imm : BitVec 12)
  /-- PRMT (R336): Pre-empts a core and waits for it to quiesce. -/
  | prmt (d : RegNum) (a : RegNum)
  /-- RSUM (R336): Resumes a pre-empted core. -/
  | rsum (d : RegNum) (a : RegNum)
  /-- TLBI_PG (R333): Invalidates translations and L1 lines of one page across the domain. -/
  | tlbiPg (a : RegNum) (size : Fin 12)
  /-- TLBI_WAKE (R333): Frees a fault entry and wakes its held accesses. -/
  | tlbiWake (a : RegNum)
  /-- PMIG (R335): Moves the home of a device page to another cluster. -/
  | pmig (d : RegNum) (a : RegNum) (home : BitVec 10)
  /-- HALT (R331): Waits for page requests and detaches the supervisor from virtual-time order. -/
  | halt (d : RegNum)
  /-- CNTN_CONTAIN (R345): Contains a rectangle of cores. -/
  | cntnContain (d : RegNum) (a : RegNum)
  /-- CNTN_RELEASE (R344): Releases a containment rectangle and clears its scratchpads. -/
  | cntnRelease (d : RegNum) (a : RegNum)
  /-- CNTN_QUERY (R344): Reads a containment rectangle's descriptor. -/
  | cntnQuery (d : RegNum) (a : RegNum)
  /-- DUPC (R343): Reads a core's redundant-pair statistics. -/
  | dupc (d : RegNum) (a : RegNum)
  /-- DUPC_CLEAR (R343): Reads a core's pair statistics and clears the mismatch count. -/
  | dupcClear (d : RegNum) (a : RegNum)
  /-- CSRR (R323): Reads a state register. -/
  | csrr (d : RegNum) (csr : Csr)
  /-- CSRW (R323): Writes a state register and returns its old value. -/
  | csrw (d : RegNum) (csr : Csr) (a : RegNum)
  /-- CSRS (R323): Sets bits of a state register and returns its old value. -/
  | csrs (d : RegNum) (csr : Csr) (a : RegNum)
  /-- CSRC (R323): Clears bits of a state register and returns its old value. -/
  | csrc (d : RegNum) (csr : Csr) (a : RegNum)
  /-- SNAP (R355): Starts a snapshot of the issuing domain. -/
  | snap (d : RegNum) (a : RegNum) (full : Bool)
  /-- SNPW (R362): Waits until a snapshot is job complete. -/
  | snpw (d : RegNum) (a : RegNum)
  /-- SNPQ (R364): Reads the progress of a snapshot. -/
  | snpq (d : RegNum) (a : RegNum)
  /-- RBCK (R369): Restores the job to a job-complete snapshot. -/
  | rbck (d : RegNum) (a : RegNum)
  /-- RPT (R230): Captures the next L words as a repeat frame replayed count times. -/
  | rpt (l : Fin 16) (n : Fin 128) (sd : BitVec 3) (sa : BitVec 3) (sb : BitVec 3) (sc : BitVec 3)
  /-- TEND (R169): Ends the thread's part in its task after draining and releasing. -/
  | tend
  /-- TIRV (R171): Makes the task pass its irrevocable point. -/
  | tirv
  /-- MSYNC (R256): Waits for the thread's matrix operations and commands. -/
  | msync
  /-- LRET (R294): Ends a landing handler and frees its chunk entry. -/
  | lret
  /-- ERET (R322): Returns from a trap to TEPC, restoring the mode. -/
  | eret
  /-- TLBI_ALL (R333): Invalidates every translation and L1 line of the domain. -/
  | tlbiAll
  /-- FENCEI (R324): Releases and invalidates the core's instruction cache. -/
  | fencei
  /-- ELECT (R186): Has the next word executed once by the gang's leader and posted to all threads. -/
  | elect
  /-- REPEAT_WORD_ISSUE (R231): with `k` 0 the repeat sequencer issues the next word of the frame of thread `t`; with `k` 1 the oldest word that
  it has issued writes its result. -/
  | repeatWordIssue
  /-- INSTRUCTION_FILL (R61): the instruction-cache line that thread `t` waits for arrives; with `peer` it comes from another module, which sends
  `data` or, with `full`, refuses (R383). -/
  | instructionFill
  /-- DATA_ARRIVAL (R18): the data that thread `t` waits for arrives; with `peer` another module answers (R383): it sends `bytes` or the line
  `data`, bit i of `value` marking word i as poisoned, or for a chain request the status `value`; with `full` it refuses. -/
  | dataArrival
  /-- LINE_FILL (R93): the line numbered `line` returns to the L1 of `core`; with `peer` it comes from another module, which sends `data` with the
  poison marks `value` or, with `full`, refuses (R383). -/
  | lineFill
  /-- WRITE_BACK (R95): the oldest write-back of `core` reaches its home. -/
  | writeBack
  /-- OMEGA_REQUEST (R86, R87): a request from another core of the cluster meets `bank` of `target`; `own` says that the target's own core wants the bank in the same cycle. -/
  | omegaRequest
  /-- MESH_SCRATCH_REQUEST (R87): the remote scratch access of thread `t` wins its bank. -/
  | meshScratchRequest
  /-- RX_ACCESS_PERFORM (R91): outstanding relaxed access `k` of thread `t` is performed. -/
  | rxAccessPerform
  /-- LINE_PORT_PRIORITY (R88): a line-port access of `core` takes `bank` ahead of word requests for one cycle. -/
  | linePortPriority
  /-- FE_WAITER_RESEND (R100): the full/empty request of thread `t`, refused by a full list, is sent again. -/
  | feWaiterResend
  /-- FAULT_ENTRY_RETRY (R330): the access of thread `t`, which found no free fault entry, is tried again. -/
  | faultEntryRetry
  /-- WAKE_MESSAGE (R18): a wake message reaches thread `t`. -/
  | wakeMessage
  /-- TASK_RECORD_ARRIVAL (R144): the oldest record in flight to `cluster` arrives. -/
  | taskRecordArrival
  /-- TASK_REFILL (R144): `cluster` refills from its lowest spill block. -/
  | taskRefill
  /-- TASK_DISPATCH (R147): the task unit of `cluster` dispatches. -/
  | taskDispatch
  /-- HOME_SPECULATIVE_ACCESS (R150): the access of thread `t` held at its home is checked again; a thread that does not wait at a home may have
  posted writes there (R152). -/
  | homeSpeculativeAccess
  /-- OVF_PROBE (R151): a probe for `line` by a task of virtual time (`ts`, `tb`) reaches `cluster`. -/
  | ovfProbe
  /-- TASK_ABORT (R153): the task in queue entry `entry` of `cluster` is aborted. -/
  | taskAbort
  /-- BELVEDERE_SAMPLE (R155): a round samples the clusters of `domain`. -/
  | belvedereSample
  /-- ROUND_RESULT (R156): the sampled round of `domain` takes effect. -/
  | roundResult
  /-- IRREVOCABLE_PASS (R159): the task of thread `t` has become strictly eligible. -/
  | irrevocablePass
  /-- BARRIER_CYCLE (R178): one cycle of barrier entry `entry` of `cluster`. -/
  | barrierCycle
  /-- BARRIER_WAKE (R180): the wake messages of the last completion of barrier entry `entry` arrive. -/
  | barrierWake
  /-- ELECT_POST_ARRIVAL (R186): the leader's post reaches thread `t`. -/
  | electPostArrival
  /-- RPUT_DELIVERY (R188): the oldest neighbour put on its way to `core` is delivered. -/
  | rputDelivery
  /-- TABLE_BUILD (R206): the table engine of `core` serves the load at the head of its queue. -/
  | tableBuild
  /-- MATRIX_OP_START (R241): the idle matrix unit of `core` starts the earliest queued head. -/
  | matrixOpStart
  /-- MATRIX_OP_COMPLETE (R242): the running operation of the matrix unit of `core` makes its next `k` row accesses, and completes after the last
  one; with `k` 0 it makes all that are left (log entry 44). -/
  | matrixOpComplete
  /-- MACRO_PARITY_ERROR (R247): a parity error stops the running MMV or MMVS of `core`. -/
  | macroParityError
  /-- MCMD_ARRIVAL (R255): a matrix command reaches `core`. -/
  | mcmdArrival
  /-- MCMD_ACK (R255): completion acknowledgement `k` of those on their way to thread `t` arrives. -/
  | mcmdAck
  /-- CHAIN_OPEN_ARRIVAL (R266): a chain set-up reaches the target that `handle` names. -/
  | chainOpenArrival
  /-- CHAIN_CLOSE_ARRIVAL (R274): a close reaches the target that `handle` names. -/
  | chainCloseArrival
  /-- TRELLIS_ROW_ARRIVAL (R269): a row packet reaches its target. -/
  | trellisRowArrival
  /-- TRELLIS_ACK_ARRIVAL (R268): the answer to row `k` of the outbox of `core` arrives; with `peer` it is another module's, through port `port`:
  the reason `value`, 0 for acceptance, and with `full` the mark of a full list (R271). -/
  | trellisAckArrival
  /-- RESUME_NOTICE (R271): the resume notice of `target` reaches the sender `core`. -/
  | resumeNotice
  /-- REFUSAL_READY_TIMEOUT (R271): 8,192 cycles have passed since row `k` of `core` was refused by a core with a full list. -/
  | refusalReadyTimeout
  /-- TRANSFER_START (R287): the transfer engine of `core` starts its next request. -/
  | transferStart
  /-- CHUNK_ARRIVAL (R293): the next chunk on its way to `core` arrives. -/
  | chunkArrival
  /-- CHUNK_REDELIVERY (R293): the oldest diverted chunk of `core` is redelivered. -/
  | chunkRedelivery
  /-- LANDING_HANDLER_START (R293): the landing thread of `core` starts a handler for its oldest chunk. -/
  | landingHandlerStart
  /-- HANDLER_TIMEOUT (R294): the handler running on `core` has reached its time limit. -/
  | handlerTimeout
  /-- TRANSFER_COMPLETION (R288): request `k` of `core` completes. -/
  | transferCompletion
  /-- MULTICAST_JOIN (R296): a join (`join` true) or leave packet of `core` for `tag` reaches the root. -/
  | multicastJoin
  /-- MULTICAST_SEND (R297): the root performs the multicast request `k` of `core`. -/
  | multicastSend
  /-- STREAM_ROUTE_TIMEOUT (R298): the SOPN of thread `t` gives up. -/
  | streamRouteTimeout
  /-- FLOW_PACKET_ARRIVAL (R301): packet `p` reaches its destination. -/
  | flowPacketArrival
  /-- ESCAPE_TIMEOUT (R301): packet `p` has waited 4,096 cycles at a router. -/
  | escapeTimeout
  /-- RETRY_RESEND (R301): packet `p`, answered with retry, is sent again on the escape channel. -/
  | retryResend
  /-- PRMT_ARRIVAL (R337): PRMT reaches `core`. -/
  | prmtArrival
  /-- RSUM_ARRIVAL (R340): RSUM reaches `core`. -/
  | rsumArrival
  /-- SPILL_QUEUE_RETRY (R339): a sender refused by the full spill queue of `core` sends its packet again. -/
  | spillQueueRetry
  /-- MCHK_DELIVERY (R348): a machine check of `domain` is written and delivered. -/
  | mchkDelivery
  /-- MEMORY_ERROR (R346): an error is detected at `site`; `correctable` says whether it can be corrected. -/
  | memoryError
  /-- SELF_TEST_COMPLETE (R347): the self-test of `unit`, which an error began, ends; for rows of a slice or of HBM `spare` says whether a repair row is left. -/
  | selfTestComplete
  /-- SNAPSHOT_MARKER (R356): a marker with `id` and `full` reaches `endpoint` of `domain` on channel `channel`. -/
  | snapshotMarker
  /-- SCRATCH_SEGMENT_COPY (R357): segment `seg` of the scratchpad of `core` is copied. -/
  | scratchSegmentCopy
  /-- SNAPSHOT_SWEEP (R359): the walker of `domain` sends the next uncaptured leaf to its home. -/
  | snapshotSweep
  /-- PRE_WRITE_BACK (R360): a PRE line of `core` is written back. -/
  | preWriteBack
  /-- SNAPSHOT_COMPLETION_NOTICE (R361): the completion notice reaches `domain`. -/
  | snapshotCompletionNotice
  /-- SNAPSHOT_ABORT_NOTICE (R363): the abort notice reaches `domain`. -/
  | snapshotAbortNotice
  /-- INGRESS_RECORD_WRITE (R375): a posted host write of `bytes` at `offset` of ingress window `window`. -/
  | ingressRecordWrite
  /-- INGRESS_ENQUEUE (R375): the ingress cluster of `domain` enqueues the head of its buffer. -/
  | ingressEnqueue
  /-- PARTIAL_CLEAR (R374): a host write of 1 to bit 63 of PARTIAL of `window`. -/
  | partialClear
  /-- HOST_MEM_READ (R381, R382): a host CXL.mem read of the line at device physical address `addr`. -/
  | hostMemRead
  /-- HOST_MEM_WRITE (R381, R382): a host CXL.mem write of `bytes` at device physical address `addr`; bit i of `value` marks word i as poisoned. -/
  | hostMemWrite
  /-- SNP_DATA (R380): a host SnpData of the host line numbered `line`. -/
  | snpData
  /-- SNP_INV (R380): a host SnpInv of the host line numbered `line`. -/
  | snpInv
  /-- SNP_CUR (R380): a host SnpCur of the host line numbered `line`. -/
  | snpCur
  /-- TRANSLATION_COMPLETION (R377): a Translation Completion reaches the port of `cluster`. -/
  | translationCompletion
  /-- ATS_INVALIDATION_REQUEST (R379): the host invalidates `size` bytes at `va` of PASID `pasid`. -/
  | atsInvalidationRequest
  /-- PRI_SUCCESS (R378): a Success response for fault entry `entry` of `cluster`. -/
  | priSuccess
  /-- PRI_INVALID_REQUEST (R378): an Invalid Request response. -/
  | priInvalidRequest
  /-- PRI_RESPONSE_FAILURE (R378): a Response Failure response. -/
  | priResponseFailure
  /-- PEER_ACCESS (R383): access `op` from another module at device physical address `addr`, through port `port`; bit i of `value` marks word i of
  a write as poisoned. -/
  | peerAccess
  /-- LINK_LANE_FAILURE (R385): a lane of Faleus port `port` fails for good, of its inbound direction where `inbound` says so. -/
  | linkLaneFailure
  /-- ROUTE_WRITE (R385): a host write of ROUTE. -/
  | routeWrite
  /-- LATTOL_WRITE (R387): a host write of LATTOL. -/
  | lattolWrite
  /-- BAR_REGISTER_WRITE (R373): a host write to a BAR0 register without behaviour of its own. -/
  | barRegisterWrite
  /-- TH_WRITE (R392): a host write of TH. -/
  | thWrite
  /-- LCMD_REBOOT (R392): a host write of LCMD. -/
  | lcmdReboot
  /-- POWER_STATE_EVALUATE (R387): the Lodge chooses the power state; `quietUs` is how many microseconds the idle conditions have held, and `idle` names it
for clusters where it differs. -/
  | powerStateEvaluate
  /-- WAKE_EVENT (R388): a wake event, for one gated cluster or for the module. -/
  | wakeEvent
  /-- POWER_WINDOW (R389): a window of 1 ms ends with this power, macro duty and Faleus utilisation. -/
  | powerWindow
  /-- THERMAL_READING (R390, R392): the sensors read `temps` (cluster, sixteenths of a degree), the ring oscillators `rosc` (cluster, count) and
  the voltage monitors `vmon` (rail region, mV). -/
  | thermalReading
  /-- SLOT_DISABLE (R390): the Lodge disables one general slot of `cluster`. -/
  | slotDisable
  /-- SLOT_ENABLE (R390): the Lodge enables one slot of `cluster`. -/
  | slotEnable
  /-- THERMAL_RANKING_UPDATE (R391): the Lodge writes the thermal ranking table at Lodge time `us`. -/
  | thermalRankingUpdate
  /-- POWER_ON (R393): power-on. -/
  | powerOn
  /-- BRING_UP_WATCHDOG (R393): the watchdog of the running bring-up step expires. -/
  | bringUpWatchdog
  /-- CAM_OPERATION_END (R307): the CAM engine of `core` finishes its operation. -/
  | camOperationEnd
  /-- HOME_ACKNOWLEDGEMENT (R109): the homes acknowledge what thread `t` waits for; with `peer` module `target` acknowledges the oldest write that
  the port of `cluster` has sent to it, or with `full` refuses it (R383). -/
  | homeAcknowledgement
  /-- HOST_COMPLETION (R380): the host answers the oldest CXL.cache request of the port of `cluster`, with the line's `data` (bit i of `value` marks
  word i as poisoned) and whether it grants E (`exclusive`). -/
  | hostCompletion
  /-- BACK_INVALIDATE_RESPONSE (R382): the host answers the BISnpInv for the device line numbered `line`. -/
  | backInvalidateResponse
  /-- PRI_ENABLE (R378): the host re-enables PRI. -/
  | priEnable
  /-- STREAM_ROUTE_HELD (R298): the route sought by the SOPN of thread `t` is obtained. -/
  | streamRouteHeld
  /-- CONTEXT_MESSAGE_ARRIVAL (R163): the oldest context message on its way to `cluster` arrives. -/
  | contextMessageArrival
  /-- TRANSFER_SOURCE_READ (R287): the next source chunk of request `k` of `core` is read and sent. -/
  | transferSourceRead
  /-- SNAPSHOT_COMPLETION_REPORT (R361): the completion report of domain `child` reaches its parent `domain`. -/
  | snapshotCompletionReport
  /-- BRING_UP_STEP_END (R393): the running bring-up step passes or fails. -/
  | bringUpStepEnd
  /-- FALEUS_PORT_UP (R393): Faleus port `port` finishes training. -/
  | faleusPortUp
  /-- POWER_LOSS (R394): the module loses its supply. -/
  | powerLoss
  deriving DecidableEq, Repr

end Sys2Proof
end

