-- ==== Sys2Proof/Machine/Units.lean ====
section
/-!
DEFINITION. The records that the state is made of, unit by unit: registers and threads, the caches of a core, tiles,
transfers, the task, barrier and port units of a cluster, and the domain.
-/
namespace Sys2Proof.Machine

/-- A register's 128 bits with its tag (R38), and so a capability (R41). -/
structure CReg where
  val : Quad := 0
  tag : Bool := false
  deriving DecidableEq, Repr

/-- The trap causes of Table 2-9. -/
inductive Cause where
  | none
  | undef
  | rsvd
  | priv
  | capTag
  | capBnd
  | capPerm
  | capSeal
  | align
  | divz
  | tsback
  | spmal
  | accabs
  | tile
  | mcrefuse
  | qfull
  | mchk
  | poison
  | contained
  | snapabort
  | brk
  | syscall
  deriving DecidableEq, Repr

/-- The cause codes of Table 2-9. -/
def Cause.code : Cause → Nat
  | .none => 0x00
  | .undef => 0x01
  | .rsvd => 0x02
  | .priv => 0x03
  | .capTag => 0x04
  | .capBnd => 0x05
  | .capPerm => 0x06
  | .capSeal => 0x07
  | .align => 0x08
  | .divz => 0x09
  | .tsback => 0x0A
  | .spmal => 0x0B
  | .accabs => 0x0C
  | .tile => 0x0D
  | .mcrefuse => 0x0E
  | .qfull => 0x0F
  | .mchk => 0x10
  | .poison => 0x11
  | .contained => 0x12
  | .snapabort => 0x13
  | .brk => 0x14
  | .syscall => 0x15

/-- A trap to raise: its cause and the value for TVAL (Table 2-9). -/
structure TrapVal where
  cause : Cause
  tval : Nat
  deriving DecidableEq, Repr

/-- A virtual time: timestamp, then tiebreak (R139). -/
structure VT where
  ts : Word := 0
  tb : Word := 0
  deriving DecidableEq, Repr

/-- Earlier in virtual time: timestamp first, then tiebreak, as natural numbers (R139). -/
def VT.lt (a b : VT) : Bool := decide (a.ts.toNat < b.ts.toNat) || (a.ts == b.ts && decide (a.tb.toNat < b.tb.toNat))

/-- The memories of the machine (Table 1-4), and the host's (log entry 6). -/
inductive Space where
  | hbm
  | scratch
  | carved
  | host
  deriving DecidableEq, Repr

/-- Where an access is performed: a space and a byte address in it, and the cluster of the home slice; `flat` marks a fabric
address, whose words have no full/empty bits and no tags (R102). -/
structure Loc where
  space : Space
  addr : Nat
  home : Nat
  flat : Bool := false
  deriving DecidableEq, Repr

/-- The operations of major 0x14 (Table 6-11). -/
inductive AtomicOp where
  | add
  | and
  | or
  | xor
  | min
  | max
  | minn
  | maxn
  | swp
  | cas
  | fadd
  deriving DecidableEq, Repr

/-- What one memory access does at its bank, home or port, with the operands read at issue. -/
inductive MemOp where
  | load (d : RegNum) (size : Nat) (sgn : Bool)
  | loadCap (d : RegNum) (lc : Bool)
  | store (size : Nat) (v : Nat)
  | storeCap (c : CReg)
  | lde (d : RegNum)
  | ldf (d : RegNum)
  | stf (v : Word)
  | stx (v : Word)
  | fec (d : RegNum)
  | feq (d : RegNum)
  | atomic (op : AtomicOp) (size : Nat) (v cmp : Nat) (d : RegNum) (sc : Scope) (ord : AOrder) (rm : BitVec 3)
  | strel (v : Word) (sc : Scope)
  | ldacq (d : RegNum) (sc : Scope)
  | sigrst
  | sigmrg (d : RegNum)
  | csig (v : Word) (d : RegNum)
  deriving DecidableEq, Repr

/-- The reply of an access: its value and tag, the flags it raises, the address of the lowest poisoned word it read, whether
it must wait for the word's full/empty state, the signature and saturation it read, and whether part of a write met
poison. -/
structure Resp where
  v : Nat := 0
  tag : Bool := false
  fl : BitVec 5 := 0
  poison : Option Nat := none
  waits : Bool := false
  sig : Sig := 0
  sat : Bool := false
  partialPoison : Bool := false
  deriving DecidableEq, Repr

/-- A memory access on its way: what it does, its virtual address, the register that holds its base, and whether that
capability has D (R96). -/
structure Req where
  op : MemOp
  x : Nat
  base : RegNum
  permD : Bool
  deriving DecidableEq, Repr

/-- What a release publishes at a block (R124). -/
structure Publish where
  sig : Sig := 0
  cnt : BitVec 16 := 0
  sat : Bool := false
  core : Nat := 0
  deriving DecidableEq, Repr

/-- A task record's 64 bytes with the tags of its three arguments (R137). -/
structure TaskRec where
  bytes : BitVec 512 := 0
  tags : BitVec 3 := 0
  deriving DecidableEq, Repr

/-- The identity of a task's run: cluster, queue entry and run number (R143). -/
structure RunId where
  cluster : Nat
  entry : Nat
  run : Nat
  deriving DecidableEq, Repr

/-- A record on its way to a cluster or held by a parked TENQW (R145, R167): without an issuer it is a host record, which waits,
or a displaced task, which does not (R163). -/
structure FlyRec where
  rcd : TaskRec
  vt : VT
  parent : Option RunId
  target : Nat
  issuer : Option Tid
  d : RegNum
  wait : Bool
  run : BitVec 8 := 0
  ran : Bool := false
  deriving DecidableEq, Repr

/-- What a thread does once a release it waits for is acknowledged (R109): `again` and `arrive` issue the instruction again, the latter one
that arrives at a barrier (R182). -/
inductive Cont where
  | mem (r : Req)
  | fence (sets : BitVec 4) (sc : Scope)
  | again
  | arrive
  | cacheRange (inv : Bool) (lo hi : Nat)
  deriving DecidableEq, Repr

/-- A tile instruction that waits for its tile (R283): TLST in mode 1 or 2, TLREL, or TLDEF of the region of `n` bytes at cluster-scratch byte
`o`. -/
inductive TileOp where
  | set (d : RegNum) (tl : TileNum) (ready : Bool)
  | undef (tl : TileNum)
  | define (tl : TileNum) (o n : Nat) (rdy : Bool)
  deriving DecidableEq, Repr

/-- Why a parked thread waits (R15). `reissue` waits end with the instruction issued again. -/
inductive Wait where
  | fetch (line : Nat)
  | load (r : Req)
  | mesh (r : Req)
  | host (r : Req)
  | ats
  | fabric (r : Req) (dev addr : Nat)
  | release (k : Cont)
  | waiter (r : Req)
  | waiterFull (r : Req)
  | fault (cluster entry : Nat)
  | faultFull (x : Nat)
  | irrevocable
  | heldTrap (t : TrapVal) (epc : CReg)
  | home (r : Req)
  | blockLine (x : Nat)
  | blockPeer (x dev addr : Nat)
  | writeQueue
  | frame
  | matrixQueue
  | fifoFull
  | barrierEntry
  | outbox
  | ackMem (r : Req)
  | tenqHeld (f : FlyRec)
  | tenqSent (d : RegNum) (wait : Bool) (hint : Nat)
  | tendAcks (quiet : Bool)
  | acks
  | aborting
  | garr (d : RegNum) (sync : Bool)
  | gwait (d : RegNum)
  | rtake (d : RegNum)
  | elect
  | electPost
  | cwait (d : RegNum) (cc : Fin 8) (th : BitVec 48)
  | tile (op : TileOp)
  | table (k : Nat)
  | staging (core : Nat)
  | bread
  | matrix
  | msta (d : RegNum) (f lane upto : Nat)
  | mcmd (d : RegNum) (target : Nat)
  | chain (d : RegNum) (handle : Word) (desc : BitVec 32) (clr close : Bool)
  | adrn (d : RegNum) (slot : Nat)
  | arsn (d : RegNum)
  | join (d : RegNum)
  | stream (d : RegNum) (cap : CReg) (b : Word)
  | cam (d : RegNum)
  | migrate (d : RegNum)
  | prmt (d : RegNum) (target : Nat)
  | rsum (d : RegNum) (target : Nat)
  | halt (d : RegNum)
  | snapDone (d : RegNum) (id : BitVec 32)
  | selfTest
  deriving DecidableEq, Repr

/-- The states of Table 1-1. A pre-empted thread keeps the wait it goes back to. -/
inductive Status where
  | idle
  | running
  | parked (w : Wait)
  | preempted (w : Option Wait)
  | disabled
  deriving DecidableEq, Repr

/-- A completion counter (R291). -/
structure Counter where
  cnt : BitVec 48 := 0
  sig : Sig := 0
  sat : Bool := false
  deriving DecidableEq, Repr

/-- An outstanding `.rx` access (R39, R91). -/
structure RxEntry where
  r : Req
  cluster : Nat
  deriving DecidableEq, Repr

/-- The result of a vector or conversion word that the repeat sequencer has issued and that has yet to write it (R231): the register, its value,
the flags with those that the word raises, and the replay and index of the word. -/
structure FrameWrite where
  d : RegNum
  v : CReg
  fflags : BitVec 5
  pos : Nat × Nat
  deriving DecidableEq, Repr

/-- A repeat frame (R229, R230): the captured words, the steps of d, a, b and c, how many replays there are, where the
frame stands, the modes captured, whether it runs (else it is a resume point), and whether it is bound (R233); `writes` are the results on
their way, oldest first, `late` is a word that later words have overtaken while it waits,
and `polled` are those that would have to wait beside another one, which issue once they need not (R231). -/
structure Frame where
  words : List (BitVec 32)
  steps : List Int
  count : Nat
  replay : Nat
  word : Nat
  rmode : BitVec 3
  satn : Bool
  rptPc : CReg
  active : Bool
  bound : Bool
  writes : List FrameWrite := []
  late : Option (Nat × Nat) := none
  polled : List (Nat × Nat) := []
  deriving DecidableEq, Repr

/-- An acknowledgement of a matrix command on its way to its issuer (R255): the core that sends it, and the poisoned address the
command met. -/
structure CmdAck where
  core : Nat
  poison : Option Nat
  seq : Nat
  cut : Bool := false
  deriving DecidableEq, Repr

/-- What a load gave the leading thread of a redundant pair (R341): the register's value with its tag and poison mark, or the trap it took. -/
inductive LoadResult where
  | value (v : CReg) (poison : Option TrapVal)
  | trap (code : BitVec 6) (tval : Word)
  deriving DecidableEq, Repr
/-- An entry of the load-value queue (R341): the destination, INSTRET and the traps taken before the load, whether an `.rx` load is outstanding,
and the result once it is there. -/
structure LoadEntry where
  d : RegNum
  count : Word
  traps : Nat
  rx : Bool := false
  res : Option LoadResult := none
  deriving DecidableEq, Repr
/-- The released action that a redundant pair performs (R341): INSTRET, the traps taken, the pc and FFLAGS of the leading thread before it, its
destinations, whether it is an ELECT, and whether the leading thread has gone on behind it: the trailing thread then performs it in the leading
slot, and the leading thread's context waits in the trailing one. -/
structure Action where
  count : Word
  traps : Nat
  pc : Nat
  fflags : BitVec 5
  dests : List RegNum
  elect : Bool
  ahead : Bool := false
  deriving DecidableEq, Repr
/-- The operands and modes of a thread that an instruction may read, as the comparator of a redundant pair takes them (R341). -/
structure Operands where
  regs : Map CReg
  absent : BitVec 32
  poisonPend : Map TrapVal
  satn : Bool
  rmode : BitVec 3
  fmta : BitVec 7
  fmtb : BitVec 7
  fmto : BitVec 7
  sca : BitVec 16
  scb : BitVec 16
  deriving DecidableEq, Repr
/-- A released action behind which the leading thread has gone on (R341): the word, the operands, and the traps taken before it. -/
structure Posted where
  w : Nat
  ops : Operands
  traps : Nat
  deriving DecidableEq, Repr
/-- What makes a thread the trailing thread of a redundant pair (R341, R342): the load-value queue, the actions behind which the leading thread has
gone on, the word of the action at which it waits, the action being performed, the frame word that the leading thread performs for both (R234), a fetch's trap still to be taken, whether the thread's last turn could do nothing, and whether a
mismatch has ended the pair. -/
structure Trail where
  loads : List LoadEntry := []
  ahead : List Posted := []
  posted : Option Nat := none
  action : Option Action := none
  word : Option (Nat × Nat) := none
  trap : Option TrapVal := none
  waiting : Bool := false
  stopped : Bool := false
  deriving DecidableEq, Repr

/-- A line of the instruction cache (R61), with a poison mark for each word (R106). -/
structure ILine where
  data : BitVec 512
  poison : BitVec 8 := 0
  deriving DecidableEq, Repr

/-- A GETR that has parked (R313): the row-list tile that it holds while it reads row pointers, and the rows once it has read them all, with
NEGROW. -/
structure Getr where
  rl : TileNum
  rows : Option (List (Nat × Nat × Nat) × Bool) := none
  deriving DecidableEq, Repr

/-- A thread slot; `traps` counts the traps that the thread has taken, for R342; `blockBuf` holds the lines that a block instruction has
had from another module so far (log entry 25); `past` says that the instruction is behind its ACCABS check (R182, R267);
`getr` is what a GETR holds while it is parked; `electRx` is the
instance whose post waits for the leader's `.rx` load (R186); `sysSeq` is the place of a request on the system plane in its core's sending order (R24) (R38, R39, R45, R121, R177, R291). -/
structure Thread where
  status : Status := .idle
  trail : Option Trail := none
  traps : Nat := 0
  regs : Map CReg := []
  absent : BitVec 32 := 0
  poisonPend : Map TrapVal := []
  pcc : CReg := {}
  mode : Bool := false
  satn : Bool := false
  spec : Bool := false
  dup : Bool := false
  irv : Bool := false
  intrap : Bool := false
  pmode : Bool := false
  rmode : BitVec 3 := 0
  causeCode : BitVec 6 := 0
  causeImpr : Bool := false
  tval : Word := 0
  tepc : CReg := {}
  tvec : CReg := {}
  vt : VT := {}
  thint : BitVec 16 := 0
  grnk : BitVec 10 := 0
  gsiz : BitVec 10 := 0
  fmta : BitVec 7 := 0
  fmtb : BitVec 7 := 0
  fmto : BitVec 7 := 0
  sca : BitVec 16 := 0
  scb : BitVec 16 := 0
  fflags : BitVec 5 := 0
  instret : Word := 0
  own : Sig := 0
  inh : Sig := 0
  isat : Bool := false
  cnt : BitVec 16 := 0
  ap : BitVec 32 := 1
  lv : BitVec 32 := 0
  electCount : BitVec 32 := 0
  electing : Option CReg := none
  electReg : RegNum := 0
  electRx : Option (BitVec 32) := none
  cc : Map Counter := []
  rx : List RxEntry := []
  blockBuf : Map ILine := []
  past : Bool := false
  getr : Option Getr := none
  sysSeq : Nat := 0
  frame : Option Frame := none
  lihhNow : Option RegNum := none
  lihhPrev : Option RegNum := none
  lihhPc : CReg := {}
  tableBound : Bool := false
  detached : Bool := false
  matrixPoison : Option Nat := none
  matrixGone : Option Nat := none
  cmdsOut : Nat := 0
  cmdAcks : List CmdAck := []
  inFrame : Bool := false
  pendMchk : List Nat := []
  task : Option RunId := none
  domain : Option Nat := none
  deriving DecidableEq, Repr

/-- A line of the L1 data cache (R92, R93): masks have one bit per byte, writers one per slot, tags one per granule,
poison one per word; `bad` marks the words that failed in the L1 while dirty, which are written back poisoned (Table 15-7);
`pre` is the snapshot mark of R360. -/
structure L1Line where
  data : BitVec 512 := 0
  valid : BitVec 64 := 0
  dirty : BitVec 64 := 0
  writers : BitVec 16 := 0
  tags : BitVec 4 := 0
  poison : BitVec 8 := 0
  bad : BitVec 8 := 0
  pre : Bool := false
  deriving DecidableEq, Repr

/-- A line of the write-back queue (R95). -/
structure WriteBack where
  line : Nat
  l : L1Line
  deriving DecidableEq, Repr

/-- The states of a tile (Table 13-1). -/
inductive TileState where
  | empty
  | filling
  | ready
  | draining
  deriving DecidableEq, Repr

/-- Status codes of Table 13-2. -/
def TileState.code : TileState → Nat
  | .empty => 0
  | .filling => 1
  | .ready => 2
  | .draining => 3

/-- A defined tile (R280); `sig` is the signature of completions that no instruction on the tile has acquired (Table 6-5). -/
structure Tile where
  rel : Nat
  len : Nat
  st : TileState
  hold : Nat := 0
  nfill : Nat := 0
  pending : Nat := 0
  pt : Bool := false
  keep : Bool := false
  sig : Option Sig := none
  deriving DecidableEq, Repr

/-- The kinds of request of the transfer engine (R285, R290, R313). -/
inductive XKind where
  | copy
  | strided
  | multicast
  | getx
  | putx
  | getr
  deriving DecidableEq, Repr

/-- A subscription of the match table (R296). -/
structure Sub where
  tag : BitVec 8
  hnd : BitVec 3
  ck : Nat
  cc : Fin 8
  dst : CReg
  owner : Tid
  deriving DecidableEq, Repr

/-- What a multicast send still has to complete at one of its subscribers (R297): the subscription, the run of its owner, the chunks that have not
ended there, the bytes received and the signature of the stores. -/
structure Part where
  sub : Sub
  task : Option RunId
  live : Nat := 0
  got : Nat := 0
  sig : Sig := 0
  deriving DecidableEq, Repr

/-- A request of the command FIFO or in flight (R285 to R288): words 0 and 3, the operands, the tiles they name, the issuer
with the gang phase it recorded, how many bytes (or rows of a GETR) have been read, how many chunks have not ended, how many
bytes have been received, the signature of the landing stores, and whether its reads have ended. `rows` are the rows of a
GETR as (row, first, last + 1); `targets` the cores a multicast send goes to, once the root has performed it; `parts` what its subscribers
have yet to complete; `lands` the cores its chunks land on; `asked` and `buf` are the line of another module that its next read waits for,
and those it has had. -/
structure XReq where
  kind : XKind
  w0 : Word
  w3 : Word
  src : CReg
  dst : CReg
  srcTile : Option TileNum := none
  dstTile : Option TileNum := none
  idxTile : Option TileNum := none
  issuer : Tid
  ap : BitVec 32
  tbase : BitVec 15
  sent : Nat := 0
  live : Nat := 0
  got : Nat := 0
  sig : Sig := 0
  rows : List (Nat × Nat × Nat) := []
  voff : Nat := 0
  out : Nat := 0
  targets : Option (List Nat) := none
  parts : List Part := []
  lands : NatSet := []
  ended : Bool := false
  asked : Option Nat := none
  buf : Map ILine := []
  deriving DecidableEq, Repr

/-- Which request, stream or multicast send a chunk belongs to; one of a multicast names its subscriber's core. -/
inductive ChunkOf where
  | request (core key : Nat)
  | stream (core : Nat) (port : Bool)
  | multicast (core key dest : Nat)
  deriving DecidableEq, Repr

/-- A chunk on its way to its landing core (R287, R293, Table 13-4): payload bytes with the granule tags, which
bytes come from poisoned words, and, for multicast, the subscription that receives it; `via` is the core or home that sends it (R301). -/
structure Chunk where
  owner : ChunkOf
  hnd : BitVec 3
  dst : CReg
  dstTile : Option TileNum
  n : Nat
  off : Nat
  w0 : Word
  src : Word
  issuer : Tid
  bytes : BitVec 1024
  tags : BitVec 8
  poison : BitVec 128
  sub : Option Sub := none
  via : Nat := 0
  cut : Bool := false
  deriving DecidableEq, Repr

/-- A neighbour put on its way (R188), with the core it comes from; `cut` says that a snapshot recorded its sender after it had
left (R358), here as in the other packets. -/
structure NPut where
  slot : Nat
  t : RegNum
  v : CReg
  src : Nat
  cut : Bool := false
  deriving DecidableEq, Repr

/-- A packet diverted to a core's spill queue (R339). -/
inductive Spilled where
  | chunk (c : Chunk)
  | put (p : NPut)
  deriving DecidableEq, Repr

/-- An open stream port (R298); `cut` says that its closing flit left before its cluster's record (R358). -/
structure Port where
  dst : CReg
  core : Nat
  off : Nat := 0
  hnd : BitVec 3
  ck : Nat
  cc : Fin 8
  owner : Tid
  live : Nat := 0
  got : Nat := 0
  closing : Bool := false
  cut : Bool := false
  ap : BitVec 32 := 0
  sig : Sig := 0
  w0 : Word := 0
  deriving DecidableEq, Repr

/-- A join or leave packet on its way to the root (R296), and the thread that waits for its acknowledgement. -/
structure Join where
  tag : Nat
  join : Bool
  t : Tid
  deriving DecidableEq, Repr

/-- A phase of a barrier entry (Table 8-1). -/
structure Phase where
  arr : Nat := 0
  exp : BitVec 48 := 0
  cnt : BitVec 48 := 0
  sig : Sig := 0
  sat : Bool := false
  deriving DecidableEq, Repr

/-- A message to a barrier entry (R179). -/
inductive BMsg where
  | arrive (p : BitVec 32) (sig : Sig) (sat : Bool)
  | expect (p : BitVec 32) (n : BitVec 48)
  | count (p : BitVec 32) (n : Nat) (sig : Sig) (sat : Bool)
  deriving DecidableEq, Repr

/-- The one ELECT post of an entry (R186): the instance, the value, and the threads that have yet to take it. -/
structure Post where
  inst : BitVec 32
  v : Option CReg
  left : List Tid
  deriving DecidableEq, Repr

/-- A barrier entry (R177, R186, R192): `p1` is phase LC + 1 and `p2` phase LC + 2; `live` lists the threads that have not
ended, and `gone` the arrival phases of those that have (R176); `wake` is a completion whose wake message is on its way (R180). -/
structure Barrier where
  width : Nat
  live : List Tid
  gone : List (BitVec 32) := []
  lc : BitVec 32 := 0
  p1 : Phase := {}
  p2 : Phase := {}
  lsig : Sig := 0
  lsat : Bool := false
  late : Bool := false
  ovr : Bool := false
  pend : Bool := false
  broken : Option Nat := none
  msgs : List BMsg := []
  wake : List (BitVec 32) := []
  post : Option Post := none
  lead : Option (Tid × BitVec 32) := none
  deriving DecidableEq, Repr

/-- The states of a task entry (Table 7-3). -/
inductive TaskState where
  | queued
  | running
  | waiting
  | finished
  deriving DecidableEq, Repr

/-- A task-queue entry (R143). `again` is 1 for a task aborted since the last sampled round and 2 for one aborted before it (R147); `commit` is its
commit-queue entry; `threads` its live threads; `bar` its barrier entry; `ran` that a thread has run it (R144). -/
structure TaskEntry where
  rcd : TaskRec
  vt : VT
  run : BitVec 8 := 0
  parent : Option RunId := none
  st : TaskState := .queued
  spec : Bool
  dup : Bool
  width : Nat
  threads : List Tid := []
  commit : Option Nat := none
  bar : Option Nat := none
  again : Nat := 0
  ran : Bool := false
  detached : Bool := false
  roomed : Bool := false
  deriving DecidableEq, Repr

/-- A commit-queue entry (R143): its task-queue entry, the read signature and the undo-log count. -/
structure CommitEntry where
  entry : Nat
  readSig : BitVec 1024 := 0
  undo : Nat := 0
  deriving DecidableEq, Repr

/-- A spilled block (R144, Table 7-4) of the spill directory: where it lies and the parents of its records. -/
structure SpillBlock where
  addr : Nat
  recs : List (TaskRec × VT × Option RunId)
  deriving DecidableEq, Repr

/-- An access record's entry: a task's virtual time and identity (R149). -/
structure Access where
  vt : VT
  id : RunId
  deriving DecidableEq, Repr

/-- What becomes of an aborted task (Table 7-8): queued again, cancelled with its parent, discarded by TABT, or sent to
another cluster (R163). -/
inductive AbortMode where
  | requeue
  | cancel
  | discard
  | moveTo (cluster : Nat)
  deriving DecidableEq, Repr

/-- A line record of a home slice (R149, R151): `probe` is the write whose probe is out, with the clusters that have yet to
reply. -/
structure LineRec where
  readers : List Access := []
  writer : Option Access := none
  ovf : Option (VT × VT) := none
  va : Nat := 0
  probe : Option (RunId × VT × List Nat) := none
  deriving DecidableEq, Repr

/-- A leaf translation held by a port (R325, R326). -/
structure TlbEntry where
  va : Nat
  size : Nat
  pte : Word
  pteAddr : Nat
  dom : Nat
  deriving DecidableEq, Repr

/-- A fault entry of a port (R330, R332): the page's first byte and its size, the parked threads, the write-backs held, the request
record, and whether it stands in the ring. `ats` says that the page is a host page, whose service goes through PRI. -/
structure FaultEntry where
  page : Nat
  size : Nat
  dom : Nat
  waiters : List Tid := []
  held : List (Nat × WriteBack) := []
  core : Nat
  slot : Nat
  kind : Nat
  reason : Nat
  posted : Bool := false
  ats : Bool := false
  va : Nat := 0
  deriving DecidableEq, Repr

/-- A waiter of a full/empty word, at its bank or home (R100). -/
structure Waiter where
  t : Tid
  r : Req
  loc : Loc
  deriving DecidableEq, Repr

/-- Who waits in the queue that a home keeps for a line (R150): the access of a thread that waits for it, a posted write of a speculative
task (R152) with its number among those of its thread, a fill or a write-back of a core, a core's transfer engine, or the reload of its B. -/
inductive HeldBy where
  | thread (t : Tid)
  | posted (t : Tid) (k : Nat) (r : Req) (l : Loc) (e : TlbEntry)
  | fill (core line : Nat)
  | writeBack (core line : Nat)
  | engine (core : Nat)
  | reload (core : Nat)
  deriving DecidableEq, Repr

/-- A place in the queue of a line, which its record's key names (R150); `bad` says that the domain has had the machine check of a posted
write whose undo log cannot be written (R146). -/
structure LineWait where
  key : Nat
  by_ : HeldBy
  bad : Bool := false
  deriving DecidableEq, Repr

/-- The result of a Belvedere round (R155): U and S (none: unbounded), the largest ctr, the occupancy of each cluster of the
domain, which of them have a free spill block, whether the sample finds the domain empty, and whether it is quiescent but for records that
arrive until the result (R165). -/
structure Round where
  u : Option VT
  s : Option VT
  ctr : BitVec 54
  occ : List Nat
  spillFree : List Bool
  quiet : Bool
  empty : Bool := quiet
  deriving DecidableEq, Repr

/-- A translation returned by the host (R377): `size` bytes at `va` map to `hpa`; without any permission it says that the
host has none. -/
structure AtsEntry where
  pasid : Nat
  va : Nat
  size : Nat
  hpa : Nat
  r : Bool
  w : Bool
  x : Bool
  deriving DecidableEq, Repr

/-- What the host's completion acknowledges of a line that a port has merged and sent back (R380): an access with its reply, a write-back of
a core, a write of the transfer engine for a request of a core, or a write by the device itself. -/
inductive Evicted where
  | access (t : Tid) (r : Req) (hpa : Nat) (p : Resp)
  | back (core : Nat) (w : WriteBack) (hpa : Nat)
  | engine (core key x hpa : Nat)
  | device (hpa : Nat)
  deriving DecidableEq, Repr

/-- A request of a port that the host has not answered: a shared read of a line, the ownership that an access, a write-back or an engine
needs (R380), the completion of a DirtyEvict, and with ATS clear the untranslated read of a line, or access of a thread (R377). -/
inductive HostReq where
  | shared (line : Nat)
  | own (t : Tid) (r : Req) (hpa : Nat)
  | ownLine (line : Nat)
  | write (core : Nat) (w : WriteBack) (hpa : Nat)
  | wrote (e : Evicted)
  | plain (line : Nat)
  | plainAccess (t : Tid) (r : Req) (hpa : Nat)
  deriving DecidableEq, Repr
/-- The write-back of a core that a host request is for. -/
def HostReq.back : HostReq → Option (Nat × WriteBack)
  | .write c w _ => some (c, w)
  | .wrote (.back c w _) => some (c, w)
  | .wrote (.access _ _ _ _) => none
  | .wrote (.engine _ _ _ _) => none
  | .wrote (.device _) => none
  | .shared _ => none
  | .own _ _ _ => none
  | .ownLine _ => none
  | .plain _ => none
  | .plainAccess _ _ _ => none
/-- The thread whose access a host request is for. -/
def HostReq.thread : HostReq → Option Tid
  | .own t _ _ => some t
  | .plainAccess t _ _ => some t
  | .wrote (.access t _ _ _) => some t
  | .wrote (.back _ _ _) => none
  | .wrote (.engine _ _ _ _) => none
  | .wrote (.device _) => none
  | .shared _ => none
  | .ownLine _ => none
  | .write _ _ _ => none
  | .plain _ => none
/-- The request of a core's engine that a host request is for. -/
def HostReq.engine : HostReq → Option (Nat × Nat)
  | .wrote (.engine c k _ _) => some (c, k)
  | .wrote (.access _ _ _ _) => none
  | .wrote (.back _ _ _) => none
  | .wrote (.device _) => none
  | .shared _ => none
  | .own _ _ _ => none
  | .ownLine _ => none
  | .write _ _ _ => none
  | .plain _ => none
  | .plainAccess _ _ _ => none
/-- The host address of a request. -/
def HostReq.hpa : HostReq → Nat
  | .shared y => 64 * y
  | .own _ _ a => a
  | .ownLine y => 64 * y
  | .write _ _ a => a
  | .wrote (.access _ _ a _) => a
  | .wrote (.back _ _ a) => a
  | .wrote (.engine _ _ _ a) => a
  | .wrote (.device a) => a
  | .plain y => 64 * y
  | .plainAccess _ _ a => a

/-- What a port has sent to another module and has had no answer to (R383), with the module and the address there: a line for an L1, or
for an instruction cache, a write-back, or a write of the transfer engine for a request of a core. -/
inductive PeerReq where
  | line (core line dev addr : Nat)
  | fetch (core line dev addr : Nat)
  | write (core : Nat) (w : WriteBack) (dev : Nat)
  | engine (core key x n dev : Nat)
  deriving DecidableEq, Repr
/-- The write-back of a core that a request to another module is for. -/
def PeerReq.back : PeerReq → Option (Nat × WriteBack)
  | .write c w _ => some (c, w)
  | .line _ _ _ _ => none
  | .fetch _ _ _ _ => none
  | .engine _ _ _ _ _ => none
/-- The request of a core's engine that a request to another module is for. -/
def PeerReq.engineOf : PeerReq → Option (Nat × Nat)
  | .engine c k _ _ _ => some (c, k)
  | .write _ _ _ => none
  | .line _ _ _ _ => none
  | .fetch _ _ _ _ => none
/-- The line of an L1 that a request to another module is for. -/
def PeerReq.lineOf : PeerReq → Option (Nat × Nat)
  | .line c y _ _ => some (c, y)
  | .engine _ _ _ _ _ => none
  | .write _ _ _ => none
  | .fetch _ _ _ _ => none
/-- The module that a request goes to. -/
def PeerReq.dev : PeerReq → Nat
  | .line _ _ d _ => d
  | .fetch _ _ d _ => d
  | .write _ _ d => d
  | .engine _ _ _ _ d => d
/-- The virtual address of a request to another module. -/
def PeerReq.va : PeerReq → Nat
  | .line _ y _ _ => 64 * y
  | .fetch _ y _ _ => 64 * y
  | .write _ w _ => 64 * w.line
  | .engine _ _ x _ _ => x

/-- What a write or read by the device itself lacks (R380, R382): a line that the host may hold, or one that a port must hold or own. -/
inductive DevNeed where
  | snoop (home line : Nat)
  | host (cl hpa : Nat) (own : Bool)
  | ats (cl dom x : Nat)
  deriving DecidableEq, Repr

/-- MESI states of the host-line cache; M is held only inside one step (R380). -/
inductive Mesi where
  | s
  | e
  deriving DecidableEq, Repr

/-- A page entry of a manifest (Table 16-6), and where it stands in its page block. -/
structure PageEnt where
  va : Nat
  size : Nat
  pte : Word
  data : Nat
  seq : Nat
  entry : Nat := 0
  deriving DecidableEq, Repr

/-- A chain of page or log blocks (R367, R368): its first and last block, the entries in the last one, and in all. -/
structure Chain where
  first : Nat := 0
  last : Nat := 0
  inLast : Nat := 0
  total : Nat := 0
  deriving DecidableEq, Repr

/-- The phases of a snapshot (R364). -/
inductive SnapPhase where
  | recording
  | sweeping
  | loc
  | complete
  | aborted
  deriving DecidableEq, Repr

/-- The phase codes of R364. -/
def SnapPhase.code : SnapPhase → Nat
  | .recording => 1
  | .sweeping => 2
  | .loc => 3
  | .complete => 4
  | .aborted => 5

/-- What a write to another module's memory carries (R360, Table 16-3): a write-back, data of the transfer engine, or a PRE write-back. -/
inductive Carried where
  | writeBack
  | data
  | pre
  deriving DecidableEq, Repr

/-- What the module sends to the host (R376 to R382). -/
inductive HostMsg where
  | msix (vector : Nat)
  | translationRequest (pasid va : Nat) (exec : Bool)
  | pageRequest (pasid va token : Nat) (r w x : Bool)
  | invalidationCompletion (pasid va size : Nat)
  | rdShared (hpa : Nat)
  | rdOwn (hpa : Nat)
  | itoMWr (hpa : Nat) (data : BitVec 512) (poison : BitVec 8)
  | dirtyEvict (hpa : Nat) (data : BitVec 512) (poison : BitVec 8)
  | cleanEvict (hpa : Nat)
  | biSnpInv (line : Nat)
  | memData (addr : Nat) (data : BitVec 512) (poison : BitVec 8)
  | snoopAnswer (line : Nat) (valid : Bool)
  | untranslated (pasid va : Nat) (write : Bool)
  | peerRead (dev addr : Nat)
  | peerAccess (dev addr : Nat) (r : Req) (pub : Publish)
  | peerReply (st : Nat) (v poison : Nat)
  | peerWrite (dev addr : Nat) (data : BitVec 512) (mask : BitVec 64) (poison : BitVec 8) (what : Carried)
  | chainRequest (handle : Word) (desc : BitVec 32) (clr close : Bool)
  | chainReply (handle : Word) (st : Nat)
  | rowSent (core k : Nat)
  | rowAnswer (core dev : Nat) (handle : Word) (row reason : Nat) (late : Bool)
  | resumeNotice (dev core target : Nat)
  | forward (port src dst dev plane seq : Nat) (escape : Bool)
  deriving DecidableEq, Repr

/-- A record of the machine-check log before it is written (Table 15-9). -/
structure Mchk where
  kind : Nat
  addr : Nat
  phys : Bool := false
  cls : Nat := 0
  core : Nat := 0xFFFF
  slot : Nat := 0xFF
  detail : Word := 0
  vt : VT := {}
  cycle : Word := 0
  deriving DecidableEq, Repr

/-- A containment rectangle (R344): first column and row, columns and rows less one. -/
structure Rect where
  col : Nat
  row : Nat
  colsM1 : Nat
  rowsM1 : Nat
  deriving DecidableEq, Repr

end Sys2Proof.Machine
end

