-- ==== Sys2Proof/Machine/EventArgs.lean ====
section
/-!
DEFINITION. What takes part in an event: the packets and answers that reach the module, and the record in which the
schedule names them.
-/
namespace Sys2Proof.Machine

/-- One A72 accumulator lane: the value and the special state (R198). -/
structure Lane where
  v : BitVec 72
  st : BitVec 2
  deriving DecidableEq, Repr

/-- The formats and modes an operation captures at its issue (R241). -/
structure Formats where
  fmta : BitVec 7
  fmtb : BitVec 7
  fmto : BitVec 7
  sca : BitVec 16
  scb : BitVec 16
  rmode : BitVec 3
  satn : Bool
  deriving DecidableEq, Repr

/-- A matrix command on its way to another core (R255). -/
structure MatCmd where
  word : BitVec 32
  m0 : Word
  cap : CReg
  fmt : Formats
  issuer : Tid
  deriving DecidableEq, Repr

/-- A Trellis row packet (Table 12-1). -/
structure RowPacket where
  handle : Word
  row : Nat
  anch : BitVec 16
  senderCore : Nat
  senderDev : Nat
  lanes : List Lane
  deriving DecidableEq, Repr

/-- Where an arriving Trellis row comes from: row `k` of the outbox of a core of this module, or another module's packet. -/
inductive RowSource where
  | outbox (core k : Nat)
  | packet (p : RowPacket)
  deriving DecidableEq, Repr

/-- A packet of a flow (R301): its flow, its sequence number and its payload, and the device of its destination where that is another
module (R384). -/
structure FlowPacket where
  src : Nat
  dst : Nat
  plane : Nat
  seq : Nat
  payload : List Byte
  dev : Option Nat := none
  deriving DecidableEq, Repr

/-- A lane of a link: of one direction of a Faleus port, or of the mesh, omega and neighbour links that end at a core. -/
inductive LinkEnd where
  | faleus (port : Nat) (inbound : Bool)
  | core (core : Nat)
  deriving DecidableEq, Repr

/-- Where an error is detected (Table 15-7). -/
inductive ErrorSite where
  | memory (space : Space) (addr : Nat)
  | l1 (core line word : Nat)
  | icache (core line : Nat)
  | register (t : Tid)
  | macroCell (core : Nat)
  | lane (core row lane : Nat)
  | link (l : LinkEnd)
  deriving DecidableEq, Repr

/-- What a targeted self-test tests (Table 15-8): a row of a memory, a register row of a core, its macro, a lane. -/
inductive TestUnit where
  | memory (space : Space) (addr : Nat)
  | core (core : Nat)
  | macroCell (core : Nat)
  | link (l : LinkEnd)
  deriving DecidableEq, Repr

/-- What another module does to a word or to bytes of this one (R383). -/
inductive PeerOp where
  | read (len : Nat)
  | write (bytes : List Byte) (what : Carried)
  | access (op : MemOp) (pub : Publish)
  deriving DecidableEq, Repr

/-- What an event names: each field is the name that the event's docstring in `Instr` uses; the others stay at their
defaults. `own` says that the module makes the move itself, `peer` that the event is the answer of another module; where an answer brings
data, bit `i` of `value` says that its word `i` is poisoned, and `full` that the access was refused. -/
structure EventArgs where
  t : Tid := ⟨0, 0⟩
  core : Nat := 0
  k : Nat := 0
  cluster : Nat := 0
  entry : Nat := 0
  domain : Nat := 0
  line : Nat := 0
  target : Nat := 0
  bank : Nat := 0
  own : Bool := false
  peer : Bool := false
  ts : Word := 0
  tb : Word := 0
  cmd : Option MatCmd := none
  handle : Word := 0
  desc : BitVec 32 := 0
  clr : Bool := false
  src : Option RowSource := none
  tag : Nat := 0
  join : Bool := false
  p : Option FlowPacket := none
  site : Option ErrorSite := none
  correctable : Bool := false
  unit : Option TestUnit := none
  pass : Bool := false
  spare : Bool := false
  inbound : Bool := false
  endpoint : Nat := 0
  channel : Nat := 0
  id : BitVec 32 := 0
  full : Bool := false
  seg : Nat := 0
  window : Nat := 0
  offset : Nat := 0
  bytes : List Byte := []
  addr : Nat := 0
  e : Option AtsEntry := none
  pasid : Nat := 0
  va : Nat := 0
  size : Nat := 0
  op : Option PeerOp := none
  port : Nat := 0
  value : Word := 0
  quietUs : Nat := 0
  idle : List (Nat × Nat) := []
  gated : Option Nat := none
  milliwatts : Nat := 0
  dutyPercent : Nat := 0
  utilPercent : Nat := 0
  temps : List (Nat × Int) := []
  rosc : List (Nat × Nat) := []
  vmon : List (Nat × Nat) := []
  us : Nat := 0
  exclusive : Bool := false
  data : Option (BitVec 512) := none
  child : Nat := 0
  detail : Word := 0
  deriving DecidableEq, Repr

end Sys2Proof.Machine
end

