-- ==== Sys2Proof/Machine/EngineUnits.lean ====
section
/-!
DEFINITION. The records of a core's engines: decode-table loads, the matrix unit, Trellis chains and outbox, the
intersection CAM.
-/
namespace Sys2Proof.Machine

/-- A decode table: the codes whose entry is valid, with their D19 values (R203). -/
abbrev Table := Map Nat

/-- A load waiting for or in the table engine (R206): the issuer, its destination, the table, and the image once it has been read. -/
structure TableLoad where
  t : Tid
  d : RegNum
  n : Nat
  image : Option Table
  deriving DecidableEq, Repr

/-- The class of an operand element (R235, R239); the sign of a finite one is that of its decoded value. -/
inductive NumClass where
  | zero
  | finite (neg : Bool)
  | inf (neg : Bool)
  | nan
  deriving DecidableEq, Repr

/-- A cell of B: mantissa and class (R235). -/
structure BCell where
  p : Int := 0
  cls : NumClass := .zero
  deriving DecidableEq, Repr

/-- Where a B tile came from (R247): a tile, or a capability with its stride word. -/
inductive BFrom where
  | tile (tl : TileNum)
  | memory (cap : CReg) (b : Word)
  deriving DecidableEq, Repr

/-- The B tile in the macros (R235): cells by kk × 32 + n, column exponents by g × 32 + n, and what R247 records. -/
structure BTile where
  cells : Map BCell := []
  exps : Map Int := []
  source : BFrom
  geom : Word
  fmt : Formats
  issuer : Tid
  deriving DecidableEq, Repr

/-- The image in the staging buffer (R246): element codes by kk × 32 + n, scale bytes by kk, and a poisoned address that was
met. -/
structure BImage where
  elems : Map Nat := []
  scales : Map Nat := []
  deriving DecidableEq, Repr

/-- What a matrix operation does (R246 to R254, R267): `mldbTile` is a command, which reads its tile when it runs. -/
inductive MatKind where
  | mldb (img : BImage) (source : BFrom)
  | mldbTile (tl : TileNum)
  | mmv (f : Nat) (m0 : Word) (m : Nat) (tl : TileNum) (sparse : Bool)
  | mrd (tl : TileNum) (f n : Nat) (clr : Bool)
  | mclr (f n : Nat)
  | rescale (delta : Int)
  | asnd (f n : Nat) (clr : Bool) (rows : List Nat)
  deriving DecidableEq, Repr

/-- An operation of the matrix unit with what it captured at issue (R241): its place in the order of entry, whether it is a
command, and its issuer. While it runs, `step` counts its row accesses (Table 11-11), `out` holds the converted rows that MRD has yet to write,
`img` the rows of B that a command has read, `fl` and `poison` what it will report. -/
structure MatOp where
  kind : MatKind
  fmt : Formats
  geom : Word
  anch : BitVec 16
  tbase : BitVec 15 := 0
  issuer : Tid
  cmd : Bool
  seq : Nat
  step : Nat := 0
  out : List Nat := []
  img : BImage := {}
  fl : BitVec 5 := 0
  poison : Option Nat := none
  deriving DecidableEq, Repr

/-- An open slot of the chain table (R261). -/
structure ChainSlot where
  key : BitVec 32
  f : Nat
  n : Nat
  expected : Nat
  counts : List Nat
  ovr : Bool := false
  deriving DecidableEq, Repr

/-- What has become of an outbox row (R267, R271): `answered` is an answer on its way, 0 for acceptance. -/
inductive OutState where
  | reserved
  | sent
  | answered (reason : Nat) (ready late : Bool)
  | refused (reason : Nat) (ready late : Bool)
  deriving DecidableEq, Repr

/-- A row of a core's Trellis outbox (R268); `seq` is its place in the core's sending order (R260); `early` says that another
module's resume notice has come before its answer (R271, R276). -/
structure OutRow where
  handle : Word
  row : Nat
  anch : BitVec 16
  lanes : List Lane
  owner : Tid
  st : OutState
  seq : Nat := 0
  cut : Bool := false
  early : Bool := false
  deriving DecidableEq, Repr

/-- An entry of the intersection CAM (R305). -/
structure CamEntry where
  key : Nat
  pos : Nat
  deriving DecidableEq, Repr

/-- An operation waiting for or in the CAM engine (R307). -/
inductive CamOp where
  | load (t : Tid) (d : RegNum) (tl : TileNum) (n base : Nat) (tbase : BitVec 15)
  | probe (t : Tid) (d : RegNum) (o p : TileNum) (m base : Nat) (tbase : BitVec 15)
  deriving DecidableEq, Repr

/-- A packet that a channel log holds (R358, R368, Table 16-3); a closing flit and its acknowledgement name the port of the core that sent the
stream. -/
inductive Logged where
  | writeBack (core : Nat) (w : WriteBack)
  | put (core : Nat) (p : NPut)
  | chunk (core : Nat) (c : Chunk)
  | cmdAck (t : Tid) (a : CmdAck)
  | row (h : Word) (row : Nat) (anch : BitVec 16) (lanes : List Lane) (sender : Nat) (key : Nat)
  | rowAck (core key reason : Nat) (ready late : Bool)
  | peerWrite (addr : Nat) (bytes : List Byte) (poison : Word)
  | wbAck (core line : Nat)
  | closing (dest core : Nat) (port : Bool)
  | closeAck (core : Nat) (port : Bool) (got : Nat) (sig : Sig)
  deriving DecidableEq, Repr

end Sys2Proof.Machine
end

