-- ==== Sys2Proof/Machine/State.lean ====
section
/-!
DEFINITION. The state of the module, the reasons a step can stop, and the state right after reset (R15, R45, R393).
-/
namespace Sys2Proof.Machine

/-- A core (R12, R45). Maps are keyed by line number, tile number, counter and so on. `reading` are the
MLDB that have issued and have yet to read their image (R241); `requests` are the PRMT (true) and RSUM that have arrived, oldest
first, with their issuers and destinations (R336); `spillAt` is where the spill queue's next packet goes (R339). -/
structure Core where
  cycle : Word := 0
  l1 : Map L1Line := []
  wbq : List WriteBack := []
  icache : Map ILine := []
  fills : NatSet := []
  omegaWins : BitVec 8 := 0xFF
  ownLost : BitVec 8 := 0
  omegaLost : BitVec 8 := 0
  geom : Word := 0
  anch : BitVec 16 := 0
  negEmpty : Bool := false
  negRow : Bool := false
  lhbase : BitVec 5 := 0x1F
  tilebase : BitVec 15 := 0
  tiles : Map Tile := []
  fifo : List XReq := []
  inflight : Map XReq := []
  handlers : Map CReg := []
  incoming : List Chunk := []
  landing : List Chunk := []
  running : Option Chunk := none
  diverted : List Spilled := []
  subs : List Sub := []
  portA : Option Port := none
  portB : Option Port := none
  joins : List Join := []
  puts : List NPut := []
  tables : Map Table := []
  engine : List TableLoad := []
  acc : Map Lane := []
  btile : Option BTile := none
  reload : Bool := false
  lost : Bool := false
  mq : List MatOp := []
  cq : List MatOp := []
  mrun : Option MatOp := none
  staged : Option MatOp := none
  bread : Option MatOp := none
  reading : List MatOp := []
  parity : Option Bool := none
  matSeq : Nat := 0
  cmdsIn : List MatCmd := []
  chains : Map ChainSlot := []
  outbox : Map OutRow := []
  outNext : Nat := 0
  refusals : List Nat := []
  notices : List Nat := []
  cam : Map CamEntry := []
  camq : List CamOp := []
  preempted : Bool := false
  resuming : Bool := false
  requests : List (Bool × Tid × RegNum) := []
  spillAt : Nat := 0
  late : List (WriteBack × Nat) := []
  contained : Bool := false
  mismatches : BitVec 32 := 0
  servedLast : Nat := 0
  deriving DecidableEq, Repr

/-- A cluster: its port, task unit, barrier unit and slice (R143 to R152, R177, R201, R325 to R332). `carvedUnits` counts the units of
256 KiB that are carved out of its slice, which have left the cache (R11); `peerReqs` and `retryWbs` are what its port has sent to
other modules without an answer (R383), and the write-backs that wait at the port after their page's wake (R332). -/
structure Cluster where
  qos : BitVec 3 := 0
  atsOn : Bool := false
  spillq : BitVec 45 := 0
  ctr : BitVec 54 := 0
  queue : Map TaskEntry := []
  commits : Map CommitEntry := []
  blocks : List SpillBlock := []
  cancel : List RunId := []
  flying : List FlyRec := []
  contexts : List Thread := []
  bars : Map Barrier := []
  tlb : List TlbEntry := []
  faults : Map FaultEntry := []
  waiters : List Waiter := []
  pinned : NatSet := []
  carvedUnits : Nat := 0
  lines : Map LineRec := []
  lineQueue : List LineWait := []
  aborts : List (Nat × AbortMode) := []
  ats : List AtsEntry := []
  asked : List (Nat × Nat) := []
  hostLines : Map Mesi := []
  hostReqs : List HostReq := []
  hostGot : NatSet := []
  peerReqs : List PeerReq := []
  retryWbs : List (Nat × WriteBack) := []
  priStopped : Bool := false
  snoop : Map Mesi := []
  snoopOld : List Nat := []
  biWait : NatSet := []
  deriving DecidableEq, Repr

/-- What a snapshot holds of a domain for a rollback (R356, R357, R368): the model keeps the records it writes to the
snapshot area as plain data too. -/
structure SnapImage where
  threads : Map Thread := []
  cores : Map Core := []
  queues : Map Cluster := []
  round : Option Round := none
  scratch : Store := {}
  deriving DecidableEq, Repr

/-- A snapshot of a domain (R355 to R361): id, sequence number, cut and full bit; its manifest's block; its phase; the
endpoints recorded, armed with them; the markers heard, as (endpoint, channel); the page and log chains of each endpoint; the
page entries; whether the sweep has ended; the scratch segments still to be copied, core by core; the log, oldest first; who sent
the first marker; which child domains there are and which have reported; the blocks it has allocated; the domain and SEQ of the SNAP that began
it, for one of another module 2^16 and more; the endpoints that were done when it was aborted; and the image for a rollback. An endpoint is a cluster, or 0x4000 + p for port p; a channel is its source × 8 + plane (R368), the far end of port p
being source 0x8000 + p. -/
structure Snap where
  id : BitVec 32
  seq : Nat
  full : Bool
  cut : VT
  job : Nat
  man : Nat
  phase : SnapPhase := .recording
  prev : Nat := 0
  armed : NatSet := []
  heard : List (Nat × Nat) := []
  pageChains : Map Chain := []
  logChains : Map Chain := []
  pages : List PageEnt := []
  swept : Bool := false
  segs : Map NatSet := []
  log : List (Nat × Logged) := []
  parent : Option Nat := none
  children : NatSet := []
  reported : NatSet := []
  blocks : Nat := 0
  origin : Nat × Nat := (0, 0)
  done : Option Nat := none
  image : SnapImage := {}
  deriving DecidableEq, Repr

/-- The record of a Faleus port in a job's snapshot (R356): the port, the job, the snapshot's id and full bit, the endpoint that sent the first
marker, the SNAP that began it, and the channels on which the port has heard the marker. -/
structure PortSnap where
  port : Nat
  job : Nat
  id : BitVec 32
  full : Bool
  parent : Nat := 0
  origin : Nat × Nat := (0, 0)
  heard : NatSet := []
  deriving DecidableEq, Repr

/-- A domain (R20, R142, R155): the rectangle of clusters, the domain registers of Table 2-7, the last round result,
the round being sampled, and whether a record arrived since that sample; `descr` and `descrTags` are the domain descriptor and the tags of its
granules as the device last read them (R142); `msix` is the interrupt of a completion that waits behind writes to host pages (R376); `supervisors` are its detached threads, the first one to detach first (R348). -/
structure Domain where
  col : Nat := 0
  row : Nat := 0
  cols : Nat := 1
  rows : Nat := 1
  pasid : Nat := 0
  ddesc : Word := 0
  descr : BitVec 1024 := 0
  descrTags : BitVec 8 := 0
  lwin : Word := 0
  ptroot : Word := 0
  spilla : Word := 0
  ctxa : Word := 0
  snapa : Word := 0
  thermt : Word := 0
  round : Option Round := none
  sample : Option Round := none
  arrived : Bool := false
  busy : Bool := false
  msix : Option Nat := none
  ingress : List TaskRec := []
  ingressHead : Option (FlyRec × Bool) := none
  partials : BitVec 48 := 0
  partialSticky : Bool := false
  dropped : Word := 0
  wide : Word := 0
  exhausted : Word := 0
  mchks : List Mchk := []
  supervisors : List Tid := []
  rects : Map Rect := []
  joined : Map NatSet := []
  snap : Option Snap := none
  manifests : List Snap := []
  deriving DecidableEq, Repr

/-- The next sequence number that the destination of a flow delivers (R301). -/
structure Flow where
  src : Nat
  dst : Nat
  plane : Nat
  next : Nat
  deriving DecidableEq, Repr

/-- An ATS invalidation whose completion waits for accesses in flight (R379): the PASID and range; the entries that the ports no longer use, by
cluster; and the accesses translated with them: fills of cores, instructions of threads with their pc, and requests of engines. -/
structure Invalidation where
  pasid : Nat
  va : Nat
  size : Nat
  dropped : List (Nat × AtsEntry)
  fills : List (Nat × Nat) := []
  threads : List (Tid × Nat) := []
  engines : List (Nat × Nat) := []
  deriving DecidableEq, Repr

/-- The entry of a boot record for one step (R394): outcome, attempts, whether the last attempt was the alternate, its duration and
its detail. -/
structure BootStep where
  outcome : Nat := 0
  attempts : Nat := 0
  alternate : Bool := false
  us : Nat := 0
  detail : Word := 0
  deriving DecidableEq, Repr

/-- A copy of the boot record in flash: its boot count and its entries by step (R394). -/
structure BootRec where
  count : Nat := 0
  steps : Map BootStep := []
  deriving DecidableEq, Repr

/-- What the Lodge alone records: an error that no domain receives (R382), or a thermal trip with the cluster and its reading (R390). -/
inductive LodgeEvent where
  | error (m : Mchk)
  | trip (cluster : Nat) (reading : Int)
  deriving DecidableEq, Repr

/-- The Lodge (R387 to R394): BOOT, the K state, the limit, TH, the sensors, the last window's power, the ranking, which clusters are
gated, how many units were spared since bring-up, the units whose spares are in use and those that are being tested (R347), fenced cores, whether the module has power, the running step of bring-up (0: none) and its form, and the two
copies of the boot record; `rosc` and `vmon` are the counts and voltages last read (R392); `waking` says that bring-up ends a K4 state, so that
host writes are held meanwhile (R388); `log` keeps what only the Lodge records: errors of no domain (R382) and the thermal trip (R390). -/
structure Lodge where
  boot : Nat := 0
  k : Nat := 0
  limiting : Bool := false
  th : BitVec 16 := 0x695F
  temps : Map Int := []
  rosc : Map Nat := []
  vmon : Map Nat := []
  milliwatts : Nat := 0
  ranking : List Nat := []
  clockGated : NatSet := []
  powerGated : NatSet := []
  spared : Nat := 0
  spares : List TestUnit := []
  testing : List TestUnit := []
  fencedCores : NatSet := []
  on : Bool := false
  step : Nat := 0
  resuming : Bool := false
  waking : Bool := false
  copyA : BootRec := {}
  copyB : BootRec := {}
  log : List LodgeEvent := []
  deriving DecidableEq, Repr

/-- Who moves next (log entry 1): a thread in its own position, or an event with what takes part in it. -/
inductive Turn where
  | thread (t : Tid)
  | event (i : Instr) (args : EventArgs)
  deriving DecidableEq, Repr

/-- The state of the module. Threads are keyed by core × 16 + slot, cores by their number in the package. `held` are the host's
register and ingress writes that wait until BOOT reads 1 (R388). `needs` is what the accesses by the device itself in the running step lack
(R380, R382), empty between steps. `turn`, `ev`, `schedule`,
`pace` and `freeCount` are the model's own: who acts, what an event names, who acts next, which kind of move is tried first when the
schedule is empty, and how many free values have been taken (log entry 1). -/
structure State where
  threads : Map Thread := []
  cores : Map Core := []
  clusters : Map Cluster := []
  domains : Map Domain := []
  hbm : Store := {}
  scratch : Store := {}
  carved : Store := {}
  host : Store := {}
  lattol : Word := 0
  devnum : BitVec 13 := 0
  fabbase : BitVec 12 := 0
  routeT : BitVec 27 := 0
  fhome : BitVec 27 := 0
  portsUp : BitVec 16 := 0
  portsSpare : BitVec 16 := 0
  portsSpareIn : BitVec 16 := 0
  portsFenced : BitVec 16 := 0
  barWritten : BitVec 3 := 0
  portSnaps : List PortSnap := []
  invalidations : List Invalidation := []
  flows : List Flow := []
  reorder : List FlowPacket := []
  retries : List FlowPacket := []
  escaped : List FlowPacket := []
  delivered : List FlowPacket := []
  needs : List DevNeed := []
  lodge : Lodge := {}
  hostOut : List HostMsg := []
  held : List Turn := []
  turn : Tid := ⟨0, 0⟩
  ev : EventArgs := {}
  schedule : List Turn := []
  pace : Nat := 0
  freeCount : Nat := 0
  deriving DecidableEq, Repr

/-- Why the machine stops for good. The spec gives every instruction and event an effect, so no meaning raises one. -/
inductive Fault where
  /-- Never raised: every exception of the spec is taken as a next state (safe). -/
  | none
  deriving DecidableEq, Repr

/-- Why the model has no meaning for what comes next. -/
inductive Refusal where
  /-- Raised by an arm of `exec` whose instruction the model does not cover (safe). -/
  | notModelled (mnemonic : String)
  deriving DecidableEq, Repr

/-- The module right after reset: power-on before bring-up (R393). No domain exists, every slot is idle, every register
holds the value of INVENTORY.md, no memory is listed. -/
def State.reset : State := {}

end Sys2Proof.Machine
end

