-- ==== Sys2Proof/Machine/Operands.lean ====
section
/-!
DEFINITION. Reaching the operands: threads, cores, clusters and domains in the state; the registers (R38, R39); and
capabilities, their bounds and checks (R41 to R44).
-/
namespace Sys2Proof.Machine

/-- Bits 63:0. -/
def lo64 (q : Quad) : Word := q.setWidth 64
/-- Bits 127:64. -/
def hi64 (q : Quad) : Word := (q >>> 64).setWidth 64
/-- A 128-bit value from its halves. -/
def quadOf (hi lo : Word) : Quad := hi ++ lo
/-- The word of a natural number, modulo 2^64 (R7). -/
def wordOf (n : Nat) : Word := BitVec.ofNat 64 n
/-- 1 for true (R7). -/
def ofBool (b : Bool) : Word := if b then 1 else 0
/-- Bits `lo + len - 1` down to `lo` of a word, as a number. -/
def wfld (w : Word) (lo len : Nat) : Nat := fld w.toNat lo len
/-- Bit `i` of a word. -/
def wbit (w : Word) (i : Nat) : Bool := w.getLsbD i

/-- The key of a thread slot in `State.threads`. -/
def tkey (t : Tid) : Nat := t.core * 16 + t.slot
/-- The thread slot with a key. -/
def tidOf (k : Nat) : Tid := ⟨k / 16, k % 16⟩
/-- The cluster of a core (R12). -/
def clusterOf (core : Nat) : Nat := core / 64
/-- A thread slot. -/
def State.thread (s : State) (t : Tid) : Thread := Map.get {} s.threads (tkey t)
/-- The state with a thread slot replaced. -/
def State.setThread (s : State) (t : Tid) (h : Thread) : State := { s with threads := Map.set s.threads (tkey t) h }
/-- The thread that issues. -/
def State.cur (s : State) : Thread := s.thread s.turn
/-- The state with the issuing thread replaced. -/
def State.setCur (s : State) (h : Thread) : State := s.setThread s.turn h
/-- A core. -/
def State.core (s : State) (c : Nat) : Core := Map.get {} s.cores c
/-- The state with a core replaced. -/
def State.setCore (s : State) (c : Nat) (h : Core) : State := { s with cores := Map.set s.cores c h }
/-- The core of the issuing thread. -/
def State.ownCore (s : State) : Core := s.core s.turn.core
/-- A cluster. -/
def State.cluster (s : State) (c : Nat) : Cluster := Map.get {} s.clusters c
/-- The state with a cluster replaced. -/
def State.setCluster (s : State) (c : Nat) (h : Cluster) : State := { s with clusters := Map.set s.clusters c h }
/-- A domain. -/
def State.domain (s : State) (d : Nat) : Domain := Map.get {} s.domains d
/-- The state with a domain replaced. -/
def State.setDomain (s : State) (d : Nat) (h : Domain) : State := { s with domains := Map.set s.domains d h }
/-- A memory. -/
def State.store (s : State) : Space → Store
  | .hbm => s.hbm
  | .scratch => s.scratch
  | .carved => s.carved
  | .host => s.host
/-- The state with a memory replaced. -/
def State.setStore (s : State) (sp : Space) (m : Store) : State :=
  match sp with
  | .hbm => { s with hbm := m }
  | .scratch => { s with scratch := m }
  | .carved => { s with carved := m }
  | .host => { s with host := m }
/-- The state after one free value has been taken. -/
def State.bumpFree (s : State) : State := { s with freeCount := s.freeCount + 1 }

/-- Whether a cluster lies in a domain's rectangle (R20). -/
def Domain.holds (d : Domain) (cl : Nat) : Bool :=
  decide (d.col ≤ cl % 32) && decide (cl % 32 < d.col + d.cols) && decide (d.row ≤ cl / 32) && decide (cl / 32 < d.row + d.rows)
/-- The number of clusters of a domain (R141). -/
def Domain.count (d : Domain) : Nat := d.cols * d.rows
/-- The cluster with index `q` (R141). -/
def Domain.clusterAt (d : Domain) (q : Nat) : Nat := (d.row + q / d.cols) * 32 + d.col + q % d.cols
/-- The index of a cluster in its domain (R141). -/
def Domain.indexOf (d : Domain) (cl : Nat) : Nat := (cl / 32 - d.row) * d.cols + (cl % 32 - d.col)
/-- The clusters of a domain in order of index. -/
def Domain.clusters (d : Domain) : List Nat := (List.range d.count).map d.clusterAt
/-- The domain that a cluster belongs to (R20). -/
def State.domainOf (s : State) (cl : Nat) : Option Nat := (s.domains.find? (fun e => e.2.holds cl)).map Prod.fst
/-- The domain of a core. -/
def State.domainOfCore (s : State) (c : Nat) : Option Nat := s.domainOf (clusterOf c)
/-- The domain record of a core; without a domain every register is at its reset value. -/
def State.domainAt (s : State) (c : Nat) : Domain :=
  match s.domainOfCore c with
  | some d => s.domain d
  | none => {}

/-- Read a register of a thread: g0 is an untagged zero (R38). -/
def Thread.reg (h : Thread) (r : RegNum) : CReg := if r = 0 then {} else Map.get {} h.regs r.val
/-- Write a register of a thread and set its presence bit; a write to g0 is discarded (R38, R39). A mark of
pending poison goes with the value that is overwritten (log entry 51). -/
def Thread.setReg (h : Thread) (r : RegNum) (v : CReg) : Thread :=
  if r = 0 then h
  else { h with
    regs := Map.set h.regs r.val v
    absent := h.absent &&& ~~~((1 : BitVec 32) <<< r.val)
    poisonPend := Map.del h.poisonPend r.val }
/-- The presence bits (R39). -/
def Thread.presence (h : Thread) : BitVec 32 := ~~~h.absent
/-- Read a register of the issuing thread. -/
def State.reg (s : State) (r : RegNum) : CReg := s.cur.reg r
/-- Bits 63:0 of a register, whatever its tag (R38, R63). -/
def State.word (s : State) (r : RegNum) : Word := lo64 (s.reg r).val
/-- Write a capability result: all 128 bits and the tag (R38). -/
def State.writeCap (s : State) (r : RegNum) (v : CReg) : State := s.setCur (s.cur.setReg r v)
/-- Write a scalar result: bits 63:0, zero above, tag cleared (R38). -/
def State.writeWord (s : State) (r : RegNum) (v : Word) : State := s.writeCap r { val := v.setWidth 128, tag := false }
/-- Write a vector result: 128 bits, tag cleared (R38). -/
def State.writeQuad (s : State) (r : RegNum) (v : Quad) : State := s.writeCap r { val := v, tag := false }

/-- The address A of a capability (Table 2-5). -/
def CReg.addr (c : CReg) : Nat := (lo64 c.val).toNat
/-- The base mantissa Bm. -/
def CReg.bm (c : CReg) : Nat := (c.val.extractLsb' 64 21).toNat
/-- The length mantissa Lm. -/
def CReg.lm (c : CReg) : Nat := (c.val.extractLsb' 85 21).toNat
/-- The exponent E. -/
def CReg.exp (c : CReg) : Nat := (c.val.extractLsb' 106 6).toNat
/-- The permissions P. -/
def CReg.perms (c : CReg) : BitVec 12 := c.val.extractLsb' 112 12
/-- The object type OT. -/
def CReg.otype (c : CReg) : Nat := (c.val.extractLsb' 124 4).toNat
/-- The capability with another address; the tag as given. -/
def CReg.withAddr (c : CReg) (a : Nat) : CReg := { c with val := quadOf (hi64 c.val) (wordOf a) }
/-- The capability with another object type. -/
def CReg.withOtype (c : CReg) (t : Nat) : CReg := { c with val := BitVec.ofNat 4 t ++ c.val.setWidth 124 }
/-- The capability with other permissions. -/
def CReg.withPerms (c : CReg) (p : BitVec 12) : CReg :=
  { c with val := (c.val.extractLsb' 124 4 ++ p) ++ c.val.setWidth 112 }
/-- A capability from its fields (Table 2-5). -/
def mkCap (a bm lm e : Nat) (p : BitVec 12) (ot : Nat) : CReg :=
  { val := (BitVec.ofNat 4 ot ++ p ++ BitVec.ofNat 6 e ++ BitVec.ofNat 21 lm ++ BitVec.ofNat 21 bm ++ BitVec.ofNat 64 a : BitVec 128)
    tag := true }

/-- The base of a capability, decoded from its bits as they stand (R42). -/
def CReg.base (c : CReg) : Nat :=
  let w := c.exp + 21
  let cb := if c.addr / 2 ^ c.exp % 2 ^ 21 < c.bm then 1 else 0
  ((((c.addr / 2 ^ w : Nat) : Int) - cb) * 2 ^ w + c.bm * 2 ^ c.exp).emod (2 ^ 64) |>.toNat
/-- The capability with another address, its tag clear where its bounds would not decode as before (R42). -/
def CReg.movedTo (c : CReg) (a : Nat) : CReg :=
  let n := c.withAddr a
  { n with tag := c.tag && n.base == c.base }
/-- The length of a capability (R42). -/
def CReg.len (c : CReg) : Nat := c.lm * 2 ^ c.exp
/-- The top of a capability, up to 65 bits (R42). -/
def CReg.top (c : CReg) : Nat := c.base + c.len

/-- Permission bits (Table 2-6). -/
def permL : Nat := 0
/-- Store. -/
def permS : Nat := 1
/-- Loading a set tag. -/
def permLC : Nat := 2
/-- Storing a tagged register. -/
def permSC : Nat := 3
/-- Fetch. -/
def permX : Nat := 4
/-- Atomics. -/
def permA : Nat := 5
/-- May be stored to global memory. -/
def permG : Nat := 6
/-- Enqueue. -/
def permQ : Nat := 7
/-- Matrix commands. -/
def permM : Nat := 8
/-- Network. -/
def permN : Nat := 9
/-- Supervisor-delegated. -/
def permY : Nat := 10
/-- Carved storage. -/
def permD : Nat := 11
/-- Whether a capability holds a permission. -/
def CReg.has (c : CReg) (p : Nat) : Bool := c.perms.getLsbD p

/-- R43 steps 1 to 3: tag, seal (a sentry passes when `sentryOk`), permissions; `tv` is the number that TVAL reports. -/
def checkTag (c : CReg) (tv : Nat) (sentryOk : Bool) (perms : List Nat) : Option TrapVal :=
  if !c.tag then some ⟨.capTag, tv⟩
  else if c.otype != 0 && !(sentryOk && c.otype == 15) then some ⟨.capSeal, tv⟩
  else if !perms.all c.has then some ⟨.capPerm, tv⟩
  else none
/-- R43 step 4: `n` bytes at `x` lie within bounds. -/
def CReg.inBounds (c : CReg) (x n : Nat) : Bool := decide (c.base ≤ x) && decide (x + n ≤ c.top)
/-- R43 steps 1 to 5 for an access of `n` bytes at `x` through `c`. -/
def checkAccess (c : CReg) (tv x n : Nat) (perms : List Nat) : Option TrapVal :=
  match checkTag c tv false perms with
  | some e => some e
  | none =>
    if !c.inBounds x n then some ⟨.capBnd, x⟩
    else if x % n ≠ 0 then some ⟨.align, x⟩
    else none
/-- R43 steps 1 to 4 for an extent of `n` bytes at `x`. -/
def checkExtent (c : CReg) (tv x n : Nat) (perms : List Nat) : Option TrapVal :=
  match checkTag c tv false perms with
  | some e => some e
  | none => if !c.inBounds x n then some ⟨.capBnd, x⟩ else none
/-- The checks of an instruction fetch at the capability's address (R36 step 1, R81). -/
def checkFetch (c : CReg) (tv : Nat) (sentryOk : Bool) : Option TrapVal :=
  match checkTag c tv sentryOk [permX] with
  | some e => some e
  | none =>
    if !c.inBounds c.addr 4 then some ⟨.capBnd, c.addr⟩
    else if c.addr % 4 ≠ 0 then some ⟨.align, c.addr⟩
    else none

/-- A capability for `len` bytes at `base`, whose bounds the encoding of R78 holds exactly (frames, stacks, tiles). -/
def capFor (base len : Nat) (perms : List Nat) : CReg :=
  let e := if len < 2 ^ 21 then 0 else (List.range 44).findIdx (fun k => decide (len / 2 ^ k < 2 ^ 21))
  mkCap base (base / 2 ^ e) (len / 2 ^ e) e (perms.foldl (fun a p => a ||| ((1 : BitVec 12) <<< p)) 0) 0

end Sys2Proof.Machine
end

