-- ==== Sys2Proof/Machine/Ops.lean ====
section
/-!
DEFINITION. The shared operations: finishing, parking and waking; taking an exception (R47 to R49, R321) and returning
from one (R322); machine checks (R348); write signatures (R121); and the acquire and release of R109.
-/
namespace Sys2Proof.Machine

/-- The outcome of every meaning. -/
abbrev Out := Host.Outcome State Fault Refusal

/-- The address of the next instruction of a thread. -/
def Thread.pc (h : Thread) : Nat := h.pcc.addr
/-- A thread with its PCC at another address; the other fields of the PCC stay (R75). -/
def Thread.setPc (h : Thread) (a : Nat) : Thread := { h with pcc := h.pcc.withAddr (a % 2 ^ 64) }
/-- A frame past the word at which it stands (R231). -/
def Frame.next (f : Frame) : Frame :=
  if f.word + 1 < f.words.length then { f with word := f.word + 1 } else { f with word := 0, replay := f.replay + 1 }
/-- Whether every word of a frame has completed (R231). -/
def Frame.over (f : Frame) : Bool := decide (f.count ≤ f.replay) && f.writes.isEmpty && f.late.isNone && f.polled.isEmpty
/-- A thread whose frame goes on, or ends once it is over; a thread that a bound frame held goes on then (R231, R233). -/
def Thread.withFrame (h : Thread) (f : Frame) : Thread :=
  if f.over then { h with frame := none, status := if f.bound then .running else h.status }
  else { h with frame := some f, status := if f.bound then .parked .frame else h.status }
/-- A word of the repeat frame is done: an overtaken one, or the one at which the frame stands (R231). -/
def Thread.frameNext (h : Thread) : Thread :=
  let h := { h with inFrame := false }
  match h.frame with
  | none => h
  | some f => h.withFrame (if f.late.isSome then { f with late := none } else f.next)
/-- A register's new value and flags come with the write of a frame's word (R231). -/
def Thread.takeWrite (h : Thread) (w : FrameWrite) : Thread := { h.setReg w.d w.v with fflags := h.fflags ||| w.fflags }
/-- The words of a frame that have issued complete their writes (R233, R234). -/
def Thread.flushWrites (h : Thread) : Thread :=
  match h.frame with
  | none => h
  | some f => if f.writes.isEmpty then h else
    let h := f.writes.foldl Thread.takeWrite h
    let f := { f with writes := [] }
    if f.over then { h with frame := none, status := if f.bound || h.status == .parked .frame then .running else h.status }
    else { h with frame := some f }
/-- The task entry that a run identity names, while that run is uncommitted. -/
def State.taskOf (s : State) (id : RunId) : Option TaskEntry :=
  match Map.find (s.cluster id.cluster).queue id.entry with
  | some e => if e.run.toNat = id.run then some e else none
  | none => none
/-- A task entry changed. -/
def State.modTask (s : State) (id : RunId) (f : TaskEntry → TaskEntry) : State :=
  let c := s.cluster id.cluster
  match Map.find c.queue id.entry with
  | none => s
  | some e => s.setCluster id.cluster { c with queue := Map.set c.queue id.entry (f e) }
/-- The barrier entry of a thread's task: its cluster and number (R175). -/
def State.barrierOf (s : State) (t : Tid) : Option (Nat × Nat) :=
  (s.thread t).task.bind (fun id => (s.taskOf id).bind (fun e => e.bar.map (fun b => (id.cluster, b))))
/-- A barrier entry changed. -/
def State.modBarrier (s : State) (p : Option (Nat × Nat)) (f : Barrier → Barrier) : State :=
  match p with
  | none => s
  | some (cl, b) =>
    let c := s.cluster cl
    match Map.find c.bars b with
    | none => s
    | some e => s.setCluster cl { c with bars := Map.set c.bars b (f e) }
/-- The leader of an instance posts its destination, and the instance ends for it (R186). -/
def State.postElect (s : State) (t : Tid) (k : BitVec 32) : State :=
  let h := s.thread t
  let v := if h.electReg = 0 then none else some (h.reg h.electReg)
  s.modBarrier (s.barrierOf t) (fun b =>
    let left := b.live.filter (fun u => u != t)
    { b with lead := none, post := if left.isEmpty then none else some ⟨k, v, left⟩ })
/-- The slot of a pair's trailing thread (R138). -/
def trailTid (t : Tid) : Tid := ⟨t.core, t.slot + 7⟩
/-- The slot of a pair's leading thread. -/
def leadTid (t : Tid) : Tid := ⟨t.core, t.slot - 7⟩
/-- The trailing part of the pair that a thread leads, if it leads one. -/
def State.trailOf (s : State) (t : Tid) : Option Trail :=
  if (s.thread t).dup && (s.thread t).trail.isNone && decide (t.slot < 7) then (s.thread (trailTid t)).trail else none
/-- Flags that an operation reports to its issuer, which is no instruction in progress: both threads of a redundant pair have them (R252, R341). -/
def State.reportFlags (s : State) (t : Tid) (fl : BitVec 5) : State :=
  let s := s.setThread t { s.thread t with fflags := (s.thread t).fflags ||| fl }
  if (s.trailOf t).isSome then s.setThread (trailTid t) { s.thread (trailTid t) with fflags := (s.thread (trailTid t)).fflags ||| fl } else s
/-- The destinations of a thread's outstanding `.rx` loads (R39). -/
def Thread.rxRegs (h : Thread) : List RegNum :=
  h.rx.filterMap (fun e => match e.r.op with
    | .load d _ _ => some d
    | _ => none)
/-- The leader's governed word is done: it posts its destination, at once or when the `.rx` load of it lands (R186). -/
def State.electPost (s : State) : State :=
  let h := s.cur
  let k := h.electCount
  let late := h.electReg != 0 && h.rxRegs.contains h.electReg
  let s := if late then s else s.postElect s.turn k
  s.setCur { s.cur with electing := none, electCount := k + 1, electRx := if late then some k else none }
/-- The instruction is done: the issuing thread goes on with the next word. -/
def State.finish (s : State) : State :=
  let s := if s.cur.electing.isSome && !s.cur.inFrame then s.electPost else s
  let h := { s.cur with blockBuf := [], past := false }
  s.setCur (if h.inFrame then h.frameNext else h.setPc (h.pc + 4))
/-- The issuing thread parks (R15). -/
def State.park (w : Wait) (s : State) : State := s.setCur { s.cur with status := .parked w }
/-- A thread runs again (R15). -/
def State.wake (s : State) (t : Tid) : State := s.setThread t { s.thread t with status := .running }
/-- An instruction issues: it counts, and an LIHH issued just before it is remembered (R45, R69). -/
def Thread.issued (h : Thread) : Thread := { h with instret := h.instret + 1, lihhPrev := h.lihhNow, lihhNow := none }
/-- The cycle of the next own position of a slot after cycle `c`, `k` rotations later (R14). -/
def nextPosition (c slot k : Nat) : Nat := c + ((slot + 15 - c % 16) % 16 + 1) + 16 * k
/-- The cycle of the first free position of a core after cycle `n`: slot 15's, or that of a slot that does not run (R15, R16). -/
def State.nextFree (s : State) (c n : Nat) : Nat :=
  n + (((List.range 16).map (fun o => o + 1)).find? (fun o =>
    decide ((n + o) % 16 = 15) || (s.thread ⟨c, (n + o) % 16⟩).status != .running)).getD 16
/-- A free position of a core is used (R16): CYCLE moves on. -/
def State.takeFree (s : State) (c : Nat) : State :=
  let co := s.core c
  (s.setCore c { co with cycle := wordOf (s.nextFree c co.cycle.toNat + 16 * Config.idleRotations s.freeCount) }).bumpFree
/-- A thread takes its own issue position (R14), the landing thread a free one (R16): CYCLE of its core moves on, and the word counts
(R45). -/
def State.takePosition (s : State) : State :=
  let c := s.turn.core
  let co := s.ownCore
  let s := if s.turn.slot = 15 then s.takeFree c
    else (s.setCore c { co with cycle := wordOf (nextPosition co.cycle.toNat s.turn.slot (Config.idleRotations s.freeCount)) }).bumpFree
  s.setCur s.cur.issued
/-- An instruction that did not complete issues again: it counts once in INSTRET, and an LIHH before it still stands just
before it; a word of a repeat frame goes back to the sequencer. -/
def Thread.again (h : Thread) : Thread :=
  if h.inFrame then { h with status := if h.frame.any (fun f => f.bound) then .parked .frame else h.status, inFrame := false }
  else { h with status := .running, instret := h.instret - 1, lihhNow := h.lihhPrev }
/-- A parked thread issues its instruction again (R18). -/
def State.retry (s : State) (t : Tid) : State := s.setThread t (s.thread t).again
/-- The instruction gives up its position and issues again, with all its checks (R17). -/
def State.forfeit (s : State) : State := s.setCur { s.cur.again with past := false }
/-- Act for thread `t` and give the turn back. -/
def State.as (s : State) (t : Tid) (f : State → State) : State := { f { s with turn := t } with turn := s.turn }
/-- Whether PRMT has reached a core that is not quiet yet (R336, R337). -/
def Core.quiescing (c : Core) : Bool := !c.preempted && c.requests.head?.any (fun r => r.1)
/-- What a thread waits for, if it is parked. -/
def Thread.wait (h : Thread) : Option Wait :=
  match h.status with
  | .parked w => some w
  | .idle => none
  | .running => none
  | .preempted _ => none
  | .disabled => none
/-- Whether a thread slot holds a thread that has not ended; a redundant pair counts as its leading thread. -/
def Thread.live (h : Thread) : Bool :=
  h.trail.isNone && match h.status with
  | .parked _ => true
  | .running => true
  | .preempted _ => true
  | .idle => false
  | .disabled => false

/-- The state register a machine check reports from: CYCLE of the reporting core (Table 15-9). -/
def State.mchkOf (s : State) (t : Tid) (kind addr : Nat) (detail : Word) : Mchk :=
  { kind := kind, addr := addr, core := t.core, slot := t.slot, detail := detail,
    vt := (s.thread t).vt, cycle := (s.core t.core).cycle }
/-- The poisoned words that a write of `n` bytes at `a` covers in part (R106), as addresses of an access at virtual address `x`. -/
def Store.partialWords (m : Store) (a n x : Nat) : List Nat :=
  ((wordsOf a n).filter (fun w => NatSet.has m.poison w && !(decide (a ≤ 8 * w) && decide (8 * w + 8 ≤ a + n)))).map (fun w => x + 8 * w - a)
/-- A domain receives a machine check; MCHK_DELIVERY writes and delivers it (R348). -/
def State.addMchk (s : State) (d : Option Nat) (m : Mchk) : State :=
  match d with
  | some k => s.setDomain k { s.domain k with mchks := (s.domain k).mchks ++ [m] }
  | none => s

/-- A machine check for each word in a list (R106). -/
def State.partialMchks (s : State) (d : Option Nat) (m : Mchk) (ws : List Nat) : State := ws.foldl (fun acc w => acc.addMchk d { m with addr := w }) s
/-- The capability that TEPC receives: the PCC of the instruction, or of the ELECT or RPT that governs it (R29, R47, R233). -/
def Thread.faultPcc (h : Thread) : CReg :=
  match h.inFrame, h.frame with
  | true, some f => f.rptPc
  | _, _ => h.electing.getD h.pcc
/-- A fault of a replayed word stops the frame, which stays as the thread's resume point (R233). -/
def Thread.stopFrame (h : Thread) : Thread :=
  if h.inFrame then
    let h := h.flushWrites
    { h with inFrame := false, frame := h.frame.map (fun f => { f with active := false }) }
  else h
/-- A capability as it becomes the PCC: a sentry is unsealed (R43, R321, R322). -/
def CReg.unsealed (c : CReg) : CReg := if c.otype = 15 then c.withOtype 0 else c

/-- Trap entry (R47, R321): TCAUSE, TVAL and TEPC are written, PMODE takes MODE, MODE becomes supervisor, INTRAP is set, and
the thread goes on at TVEC. -/
def Thread.enter (h : Thread) (e : TrapVal) (impr : Bool) (epc : CReg) : Thread :=
  { h.stopFrame with
    status := .running
    traps := h.traps + 1
    causeCode := BitVec.ofNat 6 e.cause.code
    causeImpr := impr
    tval := wordOf e.tval
    tepc := epc
    pmode := h.mode
    mode := true
    intrap := true
    electing := none
    blockBuf := []
    past := false
    lihhNow := none
    lihhPrev := none
    pcc := h.tvec.unsealed }

/-- What a multicast send has at the subscriber of a core, changed (R297). -/
def XReq.modPart (q : XReq) (dest : Nat) (f : Part → Part) : XReq :=
  { q with parts := q.parts.map (fun p => if p.sub.owner.core = dest then f p else p) }
/-- A request in flight replaced. -/
def State.setReq (s : State) (c k : Nat) (q : XReq) : State := s.setCore c { s.core c with inflight := Map.set (s.core c).inflight k q }
/-- A request in flight changed. -/
def State.modReq (s : State) (c k : Nat) (f : XReq → XReq) : State :=
  match Map.find (s.core c).inflight k with
  | some q => s.setReq c k (f q)
  | none => s
/-- A stream port of a core. -/
def Core.port (c : Core) (p : Bool) : Option Port := if p then c.portB else c.portA
/-- A core with a stream port replaced. -/
def Core.setPort (c : Core) (p : Bool) (v : Option Port) : Core := if p then { c with portB := v } else { c with portA := v }
/-- A stream port changed. -/
def State.modPort (s : State) (c : Nat) (p : Bool) (f : Port → Port) : State := s.setCore c ((s.core c).setPort p (((s.core c).port p).map f))
/-- A chunk has ended: its request or stream has one live chunk less, and has received its bytes (R288, R289), at its subscriber too (R297). -/
def State.chunkEnd (s : State) (ch : Chunk) (received : Bool) : State :=
  let n := if received then ch.n else 0
  match ch.owner with
  | .request c k => s.modReq c k (fun q => { q with live := q.live - 1, got := q.got + n })
  | .multicast c k d => s.modReq c k (fun q => { q with live := q.live - 1, got := q.got + n }.modPart d (fun p => { p with live := p.live - 1, got := p.got + n }))
  | .stream c p => s.modPort c p (fun v => { v with live := v.live - 1, got := v.got + n })

/-- The machine check of a transfer error names the request by its word 0, and the task of its issuer `t` (R289, Table 15-9). -/
def State.transferError (s : State) (c slot : Nat) (t : Tid) (addr : Nat) (w0 : Word) : State :=
  s.addMchk (s.domainOfCore c) { kind := 3, addr := addr, core := c, slot := slot, detail := w0, vt := (s.thread t).vt, cycle := (s.core c).cycle }

/-- The handler running on a core ends, by LRET or in error (R289, R294). -/
def State.handlerEnd (s : State) (c : Nat) (bad : Bool) : State :=
  match (s.core c).running with
  | none => s
  | some ch =>
    let s := s.setCore c { s.core c with running := none }
    let s := s.setThread ⟨c, 15⟩ { s.thread ⟨c, 15⟩ with status := .idle }
    let s := s.chunkEnd ch true
    if bad then s.transferError c 15 ch.issuer ch.dst.addr ch.w0 else s

/-- A speculative thread parks at an irrevocable action or with a held trap, and its task waits (R49, R159, Table 7-3). -/
def State.parkWaiting (w : Wait) (s : State) : State :=
  match s.cur.task with
  | some id => (s.modTask id (fun e => { e with st := .waiting })).park w
  | none => s.park w
/-- Raise a trap at the issuing thread with a given TEPC: a landing handler ends in error (R289, R294); a speculative
task holds the trap (R49); a trap while INTRAP is set becomes a machine check of kind 7 and the thread ends (R47, R348);
otherwise it is taken (R47). -/
def State.raiseAt (s : State) (epc : CReg) (e : TrapVal) : State :=
  let h := s.cur
  if s.turn.slot = 15 then s.handlerEnd s.turn.core true
  else if h.spec then s.parkWaiting (.heldTrap e epc)
  else if h.intrap then
    ((s.addMchk (s.domainOfCore s.turn.core)
      (s.mchkOf s.turn 7 h.pc (wordOf e.cause.code))).setCur
      { h with tval := wordOf e.cause.code, electing := none, frame := none, inFrame := false, status := .parked (.tendAcks true) })
  else s.setCur (h.enter e false epc)

/-- Raise a trap at the instruction that issues (R47). -/
def State.raise (s : State) (e : TrapVal) : State := s.raiseAt s.cur.faultPcc e

/-- Go on unless a check failed (R48). -/
def State.checked (s : State) (c : Option TrapVal) (k : State → State) : State :=
  match c with
  | some e => s.raise e
  | none => k s

/-- An irrevocable action parks a speculative thread before any part of it is performed (R159). -/
def State.irrevocably (s : State) (k : State → State) : State := if s.cur.spec then s.parkWaiting .irrevocable else k s

/-- Return from a trap (R322): PCC := TEPC, a sentry unsealed; MODE := PMODE; INTRAP := 0. A repeat frame whose RPT TEPC
addresses becomes active again, and holds the thread (R233); another resume point is discarded. -/
def Thread.leave (h : Thread) : Thread :=
  let h := { h with pcc := h.tepc.unsealed, mode := h.pmode, intrap := false }
  match h.frame with
  | none => h
  | some f =>
    if f.active then h
    else if f.rptPc.addr = h.tepc.addr then
      { h with frame := some { f with active := true }, status := .parked .frame
               pcc := h.pcc.withAddr ((h.pcc.addr + 4 * (f.words.length + 1)) % 2 ^ 64) }
    else { h with frame := none }

/-- The multipliers of the hash of R121. -/
def hashMul : Nat → Nat
  | 0 => 0x9E3779B97F4A7C15
  | 1 => 0xC2B2AE3D27D4EB4F
  | _ => 0x165667B19E3779F9
/-- The bits of a line in a 768-bit signature (R121). -/
def sigBits (y : Nat) : List Nat := (List.range 3).map (fun i => (y * hashMul i % 2 ^ 64 / 2 ^ 32) * 768 / 2 ^ 32)
/-- The bits of a line in a 1,024-bit read signature (R149). -/
def readBits (y : Nat) : List Nat := (List.range 3).map (fun i => y * hashMul i % 2 ^ 64 / 2 ^ 54)
/-- A signature with a line inserted (R121). -/
def sigInsert (g : Sig) (y : Nat) : Sig := (sigBits y).foldl (fun a j => a ||| ((1 : Sig) <<< j)) g
/-- Whether a line hits a signature (R121). -/
def sigHit (g : Sig) (y : Nat) : Bool := (sigBits y).all g.getLsbD
/-- The number of set bits. -/
def popcount {w : Nat} (v : BitVec w) : Nat := ((List.range w).filter v.getLsbD).length
/-- Insert a line into a thread's own signature; a new bit counts (R121). -/
def Thread.signLine (h : Thread) (y : Nat) : Thread :=
  let g := sigInsert h.own y
  if g = h.own then h
  else { h with own := g, cnt := if h.cnt = 0xFFFF then h.cnt else h.cnt + 1 }
/-- Insert a line into the signature of the completion target that a chunk belongs to (R121, R288). -/
def State.signChunk (s : State) (o : ChunkOf) (y : Nat) : State :=
  match o with
  | .request c k => s.modReq c k (fun q => { q with sig := sigInsert q.sig y })
  | .multicast c k d => s.modReq c k (fun q => { q with sig := sigInsert q.sig y }.modPart d (fun p => { p with sig := sigInsert p.sig y }))
  | .stream c p => s.modPort c p (fun v => { v with sig := sigInsert v.sig y })
/-- Insert the line of virtual address `x`: into the thread's own signature when it is not speculative, and for a landing
handler into the signature of its completion target (R121). -/
def State.signStore (s : State) (x : Nat) : State :=
  if s.turn.slot = 15 then
    match (s.core s.turn.core).running with
    | some ch => s.signChunk ch.owner (x / 64)
    | none => s
  else if s.cur.spec then s
  else s.setCur (s.cur.signLine (x / 64))

/-- A mask of 64 byte bits covering `n` bytes from `o`. -/
def byteMask (o n : Nat) : BitVec 64 := BitVec.ofNat 64 ((2 ^ n - 1) * 2 ^ o)
/-- An L1 line without its valid, non-dirty bytes; none when nothing is left (R109). -/
def L1Line.dropClean (l : L1Line) : Option L1Line :=
  if l.dirty = 0 then none else some { l with valid := l.valid &&& l.dirty }
/-- Invalidate the clean bytes of the L1 lines for which `p` holds (R109). -/
def Core.invalidate (c : Core) (p : Nat → Bool) : Core :=
  { c with l1 := c.l1.filterMap (fun e => if p e.1 then e.2.dropClean.map (fun l => (e.1, l)) else some e) }

/-- The acquire of R109 by the issuing thread. `sig` is none for an unsigned acquire. -/
def State.acquire (s : State) (sc : Scope) (sig : Option Sig) (sat : Bool) : State :=
  let all := sig.isNone || sat
  let s := if sc = .thread then s
    else s.setCur { s.cur with isat := s.cur.isat || all, inh := s.cur.inh ||| sig.getD 0 }
  let c := s.turn.core
  match sc with
  | .thread => s
  | .core => s
  | .cluster | .device =>
    s.setCore c ((s.core c).invalidate (fun y => all || sigHit (sig.getD 0) y))
  | .system => s.setCore c ((s.core c).invalidate (fun _ => true))

/-- Whether a writer mask holds a slot. -/
def writes (m : BitVec 16) (slot : Nat) : Bool := m.getLsbD slot
/-- Whether a snapshot still records, logs and captures (R363). -/
def Snap.runs (sn : Snap) : Bool := sn.phase == .recording || sn.phase == .sweeping
/-- Whether a cluster has recorded its state for its domain's running snapshot (R356). -/
def State.recorded (s : State) (cl : Nat) : Bool :=
  match (s.domainOf cl).bind (fun dk => (s.domain dk).snap) with
  | some sn => sn.runs && NatSet.has sn.armed cl
  | none => false
/-- Whether a packet from cluster `src` may reach cluster `ep` (R356): what a cluster sends after its record stays behind its marker,
and so waits until `ep` has recorded. -/
def State.behind (s : State) (src ep : Nat) (cut : Bool) : Bool := src == ep || cut || !s.recorded src || s.recorded ep
/-- Whether an access of a core of cluster `cl` may be performed at home `ep` and answered: neither the request nor the reply passes a marker
that is still on its way (R356). -/
def State.withHome (s : State) (cl ep : Nat) : Bool := s.behind cl ep false && s.behind ep cl false
/-- The write-backs of a core that homes have performed and whose acknowledgements stay behind a snapshot's marker (R356). -/
def State.lateBacks (s : State) (c : Nat) : List WriteBack :=
  (s.core c).late.filterMap (fun p => if s.behind p.2 (clusterOf c) false then none else some p.1)
/-- The write-backs of a core that have left its L1 and that have not been acknowledged: in its queue, held at the port for a page fault
or waiting there after it (R332), unanswered by the host (R119), by another module (R383) or by a home that has recorded (R356). -/
def State.owed (s : State) (c : Nat) : List WriteBack :=
  let k := s.cluster (clusterOf c)
  let mine := fun (p : Nat × WriteBack) => if p.1 = c then [p.2] else []
  (s.core c).wbq ++ k.faults.flatMap (fun e => e.2.held.flatMap mine) ++ k.retryWbs.flatMap mine
    ++ k.hostReqs.flatMap (fun q => q.back.toList.flatMap mine) ++ k.peerReqs.flatMap (fun q => q.back.toList.flatMap mine)
    ++ s.lateBacks c
/-- Whether nothing that a release of `slot` covers is left to write back or to be acknowledged (R109, R119, R332, R383). -/
def State.released (s : State) (t : Tid) : Bool :=
  (s.core t.core).l1.all (fun e => e.2.dirty == 0 || !writes e.2.writers t.slot)
    && (s.owed t.core).all (fun w => !writes w.l.writers t.slot)
/-- A line as it stays in the L1 once its dirty bytes have left: clean (R103). -/
def L1Line.cleaned (l : L1Line) : L1Line := { l with dirty := 0, writers := 0, bad := 0, pre := false }
/-- Move the dirty lines for which `p` holds into the write-back queue, in the order of their numbers, while it has room;
the lines stay valid and become clean (R95, R103). -/
def Core.drain (c : Core) (p : Nat × L1Line → Bool) : Core :=
  c.l1.foldl (fun acc e =>
    if e.2.dirty != 0 && p e && decide (acc.wbq.length < 8) then
      { acc with wbq := acc.wbq ++ [⟨e.1, e.2⟩], l1 := Map.set acc.l1 e.1 e.2.cleaned }
    else acc) c
/-- The release of R109 by the issuing thread, then `f`; while a write-back it covers has not been acknowledged the thread
parks, and does `k` (which stands for `f`) once it has. -/
def State.release (s : State) (sc : Scope) (k : Cont) (f : State → State) : State :=
  if sc = .thread || s.released s.turn then f s
  else
    let c := s.turn.core
    (s.setCore c ((s.core c).drain (fun e => writes e.2.writers s.turn.slot))).park (.release k)

/-- Clear the signature state, as a release that publishes it does (R124, R182). -/
def Thread.clearSig (h : Thread) : Thread := { h with own := 0, inh := 0, isat := false, cnt := 0 }

end Sys2Proof.Machine
end

