-- ==== Sys2Proof/Machine/Boot.lean ====
section
/-!
DEFINITION. Bring-up and waking (R388, R393, R394): the boot record, the steps in both forms, and the end of a gating, of K3 and of K4.
-/
namespace Sys2Proof.Machine

/-- Change the Lodge. -/
def State.modLodge (s : State) (f : Lodge → Lodge) : State := { s with lodge := f s.lodge }
/-- The outcome of a step at the last boot (R394). -/
def Lodge.last (l : Lodge) : BootRec := if l.copyA.count < l.copyB.count then l.copyB else l.copyA
/-- The copy being written at this boot: it has the higher count once bring-up has begun. -/
def Lodge.writeStep (l : Lodge) (n : Nat) (e : BootStep) : Lodge :=
  if l.copyA.count < l.copyB.count then { l with copyB := { l.copyB with steps := Map.set l.copyB.steps n e } }
  else { l with copyA := { l.copyA with steps := Map.set l.copyA.steps n e } }
/-- The entry of a step in the copy with the lower count: the last boot's. -/
def Lodge.before (l : Lodge) (n : Nat) : BootStep :=
  Map.get {} (if l.copyA.count < l.copyB.count then l.copyA else l.copyB).steps n
/-- Steps with an alternate (Table 18-4). -/
def hasAlternate (n : Nat) : Bool := n != 6
/-- The optional step. -/
def optionalStep (n : Nat) : Bool := n == 8
/-- Steps that the resume form does not run. -/
def notResumed (n : Nat) : Bool := n == 4 || n == 5 || n == 8
/-- Whether a step failed at the last boot, or was still running when it ended (R394). -/
def BootStep.failed (e : BootStep) : Bool := e.outcome == 4 || e.outcome == 5
/-- Whether a step has a history of failure, which a pass by its primary clears (R394). -/
def BootStep.history (e : BootStep) : Bool := e.failed || e.outcome == 2
/-- Every core fenced at bring-up stays fenced. -/
def State.refence (s : State) : State := s.lodge.fencedCores.foldl (fun (acc : State) c => acc.setCore c { acc.core c with contained := true }) s
/-- Whether a unit is a lane of a link, whose spares a full bring-up allots anew (Table 18-4). -/
def TestUnit.isLink : TestUnit → Bool
  | .link _ => true
  | .memory _ _ => false
  | .core _ => false
  | .macroCell _ => false
/-- The module without what K4 or a trip loses (R387, R390): the Lodge, the host port with its registers, and the host stay. -/
def State.dark (s : State) : State :=
  { devnum := s.devnum, fabbase := s.fabbase, routeT := s.routeT, fhome := s.fhome, lattol := s.lattol, barWritten := s.barWritten, held := s.held
    portsSpare := s.portsSpare, portsSpareIn := s.portsSpareIn, portsFenced := s.portsFenced, host := s.host, hostOut := s.hostOut, lodge := s.lodge
    ev := s.ev, schedule := s.schedule, freeCount := s.freeCount, turn := s.turn }
/-- The next step of bring-up starts, and its entry is written as running (R394); past the last step BOOT becomes 1, and the host writes held
until then are performed next, in arrival order (R388). An optional step that failed is skipped; one with a history runs its alternate first. -/
def State.nextStep (s : State) : Nat → Nat → State
  | _, 0 => s
  | n, fuel + 1 =>
    if 8 < n then { s.modLodge (fun l => { l with boot := 1, step := 0, resuming := false, waking := false, k := 0 }) with
      schedule := s.held ++ s.schedule, held := [] }
    else if s.lodge.resuming && notResumed n then s.nextStep (n + 1) fuel
    else
      let old := s.lodge.before n
      if !s.lodge.resuming && optionalStep n && old.failed then
        (s.modLodge (fun l => l.writeStep n { outcome := 3, detail := old.detail })).nextStep (n + 1) fuel
      else
        let alt := !s.lodge.resuming && hasAlternate n && old.history
        s.modLodge (fun l => { l.writeStep n { outcome := 5, attempts := 1, alternate := alt } with step := n })
/-- A bring-up begins (R393, R394): the copy with the lower count becomes the current one. `waking` says that it ends a K4 state (R388). -/
def State.bringUp (s : State) (resume waking : Bool) : State :=
  let l := s.lodge
  let c := (max l.copyA.count l.copyB.count) + 1
  let old := l.last
  -- the resume form keeps the results of the last full bring-up
  let fresh : BootRec := { count := c, steps := if resume then old.steps else [] }
  let l := if l.copyA.count < l.copyB.count then { l with copyA := fresh } else { l with copyB := fresh }
  let l := { l with boot := 0, step := 0, resuming := resume, waking := waking, on := true, k := 0, fencedCores := if resume then l.fencedCores else []
                    spared := if resume then l.spared else 0, testing := []
                    spares := if resume then l.spares else l.spares.filter (fun u => !u.isLink) }
  let s := { s with lodge := l }
  (if resume then s.refence else { s with portsFenced := 0, portsSpare := 0, portsSpareIn := 0 }).nextStep 1 9
/-- A wake event (R388): the gating of a cluster ends, or K3 or K4 of the module; leaving K4 runs the resume form of bring-up. -/
def State.wakeUp (s : State) (gated : Option Nat) : State :=
  match gated with
  | some c => s.modLodge (fun l => { l with clockGated := NatSet.del l.clockGated c, powerGated := NatSet.del l.powerGated c })
  | none =>
    if s.lodge.k = 3 then s.modLodge (fun l => { l with k := 0 })
    else if s.lodge.k = 4 && s.lodge.boot = 0 && s.lodge.step = 0 then s.bringUp true true
    else s
/-- A packet addressed to a cluster ends its gating (R388). -/
def State.ungate (s : State) (cl : Nat) : State :=
  if NatSet.has s.lodge.clockGated cl || NatSet.has s.lodge.powerGated cl then s.wakeUp (some cl) else s
/-- Whether a host write waits: it has come while the module is in K4 or leaves it (R388). -/
def State.holds (s : State) : Bool := s.lodge.boot == 0 && (s.lodge.k == 4 || s.lodge.waking)
/-- Traffic of the host or of a link, which event `i` performs with `k`, wakes the module (R388): it ends K3; what comes in K4, or while the module
leaves it, is held until BOOT reads 1, and performed then in arrival order. -/
def State.traffic (s : State) (i : Instr) (k : State → State) : State :=
  if s.holds then ({ s with held := s.held ++ [Turn.event i s.ev] } : State).wakeUp none else k (s.wakeUp none)
/-- Traffic of a Faleus link: it starts only when DEVNUM, FABBASE and ROUTE have been written (R373). -/
def State.faleus (s : State) (i : Instr) (k : State → State) : State := if s.barWritten = 7 then s.traffic i k else s

end Sys2Proof.Machine
end

