-- ==== Sys2Proof/Machine/Translate.lean ====
section
/-!
DEFINITION. Which path an access takes (R84), the page walk and the page-table entry (R325 to R328), and where a global
access is performed.
-/
namespace Sys2Proof.Machine

/-- Sign extension of bit 56, as the address registers hold it (R45). -/
def signed57 (a : Nat) : Nat := if a / 2 ^ 56 % 2 = 1 then a % 2 ^ 57 + (2 ^ 64 - 2 ^ 57) else a % 2 ^ 57

/-- The fields of a page-table entry (R326). -/
def pteV (e : Word) : Bool := wbit e 0
/-- LEAF. -/
def pteLeaf (e : Word) : Bool := wbit e 1
/-- TYPE. -/
def pteType (e : Word) : Nat := wfld e 2 2
/-- SIZE. -/
def pteSize (e : Word) : Nat := wfld e 4 4
/-- R. -/
def pteR (e : Word) : Bool := wbit e 8
/-- W. -/
def pteW (e : Word) : Bool := wbit e 9
/-- X. -/
def pteX (e : Word) : Bool := wbit e 10
/-- SNAP. -/
def pteSnap (e : Word) : Nat := wfld e 11 2
/-- DSS. -/
def pteDss (e : Word) : Bool := wbit e 13
/-- MIG. -/
def pteMig (e : Word) : Bool := wbit e 14
/-- HOME. -/
def pteHome (e : Word) : Nat := wfld e 16 10
/-- FRAME, as a byte address. -/
def pteFrame (e : Word) : Nat := wfld e 26 38 * 4096

/-- The bytes of a size code: 4 KiB × 4^code (Table 15-3). -/
def sizeBytes (code : Nat) : Nat := 4096 * 4 ^ code
/-- The level of a size code (Table 15-3). -/
def sizeLevel (code : Nat) : Nat := if code < 5 then 0 else if code < 9 then 1 else 2
/-- The entries that hold a leaf of size code `z` walked at `pteAddr`: the first of them and how many (R327). -/
def leafCopies (pteAddr z : Nat) : Nat × Nat :=
  let n := sizeBytes z / (4096 * 512 ^ sizeLevel z)
  (pteAddr / (8 * n) * (8 * n), n)
/-- The first physical address past the HBM (R327). -/
def hbmTop : Nat := 0x6000000000
/-- The bytes of a slice that may be carved: half of 2 MiB (R11). -/
def carveMax : Nat := 0x100000
/-- The bytes of a slice that are carved (R11): units of 256 KiB, at most half of the slice. -/
def State.carvedBytes (s : State) (cl : Nat) : Nat := min ((s.cluster cl).carvedUnits * 0x40000) carveMax

/-- Whether an entry is malformed at a level (R327). -/
def pteBad (s : State) (d : Domain) (e : Word) (level : Nat) : Bool :=
  if pteLeaf e then
    decide (pteSize e ≥ 12) || decide (sizeLevel (pteSize e) ≠ level) || decide (level ≥ 3)
      || decide (pteFrame e % sizeBytes (pteSize e) ≠ 0) || !d.holds (pteHome e)
      || (decide (pteType e = 0) && decide (hbmTop < pteFrame e + sizeBytes (pteSize e)))
      || (decide (pteType e = 2) && (decide (pteSize e > 4) || decide (s.carvedBytes (pteHome e) < pteFrame e + sizeBytes (pteSize e))))
      || wbit e 15
  else decide (level = 0) || decide (wfld e 2 24 ≠ 0)

/-- The walk of R325 below a level: `Except.error 0` for V clear, `1` for a malformed entry. -/
def walkFrom (s : State) (dk : Nat) (x : Nat) : Nat → Nat → Except Nat TlbEntry
  | 0, _ => .error 1
  | level + 1, table =>
    let a := table + 8 * (x / 2 ^ (12 + 9 * level) % 512)
    let e := wordOf (s.hbm.read a 8)
    if !pteV e then .error 0
    else if pteBad s (s.domain dk) e level then .error 1
    else if pteLeaf e then
      let z := sizeBytes (pteSize e)
      .ok { va := x / z * z, size := z, pte := e, pteAddr := a, dom := dk }
    else walkFrom s dk x level (pteFrame e)

/-- The translation of `x` for domain `dk` at a port: from its TLB, else by a walk of five levels (R325). -/
def translate (s : State) (cl dk x : Nat) : Except Nat TlbEntry :=
  if x ≠ signed57 x then .error 0
  else match (s.cluster cl).tlb.find? (fun e => e.dom == dk && decide (e.va ≤ x) && decide (x < e.va + e.size)) with
  | some e => .ok e
  | none => walkFrom s dk x 5 (s.domain dk).ptroot.toNat

/-- The port keeps a leaf it has walked, up to 4,096 of them (R325). -/
def State.tlbKeep (s : State) (cl : Nat) (e : TlbEntry) : State :=
  let c := s.cluster cl
  if c.tlb.contains e then s else s.setCluster cl { c with tlb := (e :: c.tlb).take 4096 }

/-- What an access needs of its leaf (R328). -/
structure Need where
  r : Bool := false
  w : Bool := false
  x : Bool := false
  deriving DecidableEq, Repr

/-- Where a global access goes. A fault names its page: first byte and size. -/
inductive Where where
  | at (l : Loc) (e : TlbEntry)
  | pageFault (reason page size : Nat)
  | noD
  | atsMiss
  | hostFault (reason page size : Nat)
  | peer (dev addr : Nat)
  deriving DecidableEq, Repr

/-- Whether an ATS-cache entry covers a host address of a PASID. -/
def AtsEntry.covers (e : AtsEntry) (pasid x : Nat) : Bool := e.pasid == pasid && decide (e.va ≤ x) && decide (x < e.va + e.size)
/-- The ATS-cache entry that covers a host address of a PASID. -/
def atsFind (c : Cluster) (pasid x : Nat) : Option AtsEntry := c.ats.find? (fun e => e.covers pasid x)
/-- The entry that an access in flight was translated with, where an invalidation has taken it from its port (R379): `p` says which
invalidations the access holds up. -/
def State.oldEntry (s : State) (cl pasid x : Nat) (p : Invalidation → Bool) : Option AtsEntry :=
  ((s.invalidations.filter p).flatMap (fun v => v.dropped)).findSome? (fun e => if e.1 = cl && e.2.covers pasid x then some e.2 else none)

/-- The FHOME entry of a device physical address (R381): its home cluster, and whether peers may access it (R383). -/
def State.fhomeOf (s : State) (p : Nat) : Nat × Bool :=
  let e := s.hbm.read (s.fhome.toNat * 4096 + 2 * (p / 4096)) 2
  (if e / 2 ^ 15 % 2 = 1 then e % 1024 else p / 4096 % 1024, decide (e / 2 ^ 15 % 2 = 1) && decide (e / 2 ^ 14 % 2 = 1))
/-- Whether a host access works on a memory without full/empty bits and tags (R102). -/
def Loc.isFlat (l : Loc) : Bool := l.space == .host || l.flat
/-- A translated host address: host memory, this module's own memory through the aperture, or another module (R383). -/
def hostWhere (s : State) (hpa : Nat) (e : TlbEntry) (cl : Nat) : Where :=
  let fb := s.fabbase.toNat * 2 ^ 52
  if decide (fb ≤ hpa) && decide (hpa < fb + 2 ^ 52) then
    let d := (hpa - fb) / 2 ^ 39
    let p := (hpa - fb) % 2 ^ 39
    if d = s.devnum.toNat && decide (p < hbmTop) then .at { space := .hbm, addr := p, home := (s.fhomeOf p).1, flat := true } e else .peer d p
  else .at { space := .host, addr := hpa, home := cl } e

/-- The fabric address of a byte of another module (R383). -/
def State.fabricAddr (s : State) (dev addr : Nat) : Nat := s.fabbase.toNat * 2 ^ 52 + dev * 2 ^ 39 + addr
/-- Where an access of domain `dk` at `x` is performed, seen from the port of cluster `cl` (R325, R328, R377), with the translation that the
access has had where an invalidation waits for it (R379). The page of an access without a leaf is its 4 KiB page (log entry 42). -/
def locateWith (s : State) (cl dk x : Nat) (need : Need) (permD : Bool) (old : Option AtsEntry) : Where :=
  match translate s cl dk x with
  | .error r => .pageFault r (x / 4096 * 4096) 4096
  | .ok e =>
    if (need.r && !pteR e.pte) || (need.w && !pteW e.pte) || (need.x && !pteX e.pte) then .pageFault 2 e.va e.size
    else if pteType e.pte = 1 then
      let c := s.cluster cl
      let pasid := (s.domain dk).pasid
      if !c.atsOn then
        if Config.hostRefuses pasid x then .pageFault 2 e.va e.size else hostWhere s (Config.hostAddress pasid x) e cl
      else match old.or (atsFind c pasid x) with
        | none => .atsMiss
        | some a =>
          if (need.r && !a.r) || (need.w && !a.w) || (need.x && !a.x) then
            .hostFault (if a.r || a.w || a.x then 2 else 0) (x / 4096 * 4096) 4096
          else hostWhere s (a.hpa + (x - a.va)) e cl
    else if pteType e.pte = 2 then
      if permD then .at { space := .carved, addr := pteHome e.pte * carveMax + pteFrame e.pte + (x - e.va), home := pteHome e.pte } e
      else .noD
    else .at { space := .hbm, addr := pteFrame e.pte + (x - e.va), home := pteHome e.pte } e

/-- Where an access of domain `dk` at `x` that issues now is performed (R325, R328, R377). -/
def locate (s : State) (cl dk x : Nat) (need : Need) (permD : Bool) : Where := locateWith s cl dk x need permD none
/-- Where an access in flight is performed: with its own translation, if an invalidation for which `p` holds has taken that from the port
(R379). -/
def locateOld (s : State) (cl dk x : Nat) (need : Need) (permD : Bool) (p : Invalidation → Bool) : Where :=
  locateWith s cl dk x need permD (s.oldEntry cl (s.domain dk).pasid x p)

/-- The byte of the route table for a module (R384). -/
def State.routeByte (s : State) (dev : Nat) : Nat := (s.hbm.byte (s.routeT.toNat * 4096 + dev)).toNat
/-- The port of the escape channel toward another module (R384): 2 × bits 6:4 of a valid byte. -/
def State.escapeTo (s : State) (dev : Nat) : Option Nat :=
  let b := s.routeByte dev
  let p := 2 * (b / 16 % 8)
  if s.barWritten = 7 && decide (128 ≤ b) && !s.portsFenced.getLsbD p then some p else none
/-- The port that leads to another module (R384, R385): none without a valid route-table byte, through a fenced port, or before DEVNUM,
FABBASE and ROUTE have been written (R373). -/
def State.routeTo (s : State) (dev : Nat) : Option Nat :=
  let b := s.routeByte dev
  if s.barWritten = 7 && decide (128 ≤ b) && !s.portsFenced.getLsbD (b % 16) then some (b % 16) else none
/-- A port asks the host for a translation, once until it is answered; `exec` asks for execute, on instruction fills (R377). -/
def State.askTranslation (s : State) (cl dk x : Nat) (exec : Bool := false) : State :=
  let c := s.cluster cl
  let k := ((s.domain dk).pasid, x / 4096 * 4096)
  if c.asked.contains k then s
  else { s.setCluster cl { c with asked := c.asked ++ [k] } with hostOut := s.hostOut ++ [.translationRequest k.1 k.2 exec] }

/-- Send a host request once: RdShared for a fill (R380). -/
def State.askShared (s : State) (cl hpa : Nat) : State :=
  let k := s.cluster cl
  if k.hostReqs.contains (.shared (hpa / 64)) then s
  else { s.setCluster cl { k with hostReqs := k.hostReqs ++ [.shared (hpa / 64)] } with hostOut := s.hostOut ++ [.rdShared hpa] }
/-- A port asks for the ownership of a host line, once (R380). -/
def State.askOwn (s : State) (cl hpa : Nat) : State :=
  let k := s.cluster cl
  if k.hostReqs.contains (.ownLine (hpa / 64)) then s
  else { s.setCluster cl { k with hostReqs := k.hostReqs ++ [.ownLine (hpa / 64)] } with hostOut := s.hostOut ++ [.rdOwn (hpa / 64 * 64)] }
/-- A port with ATS clear sends the untranslated read of a host line, once (R377). -/
def State.askPlain (s : State) (cl dk x hpa : Nat) : State :=
  let k := s.cluster cl
  if k.hostReqs.contains (.plain (hpa / 64)) then s
  else { s.setCluster cl { k with hostReqs := k.hostReqs ++ [.plain (hpa / 64)] } with
    hostOut := s.hostOut ++ [.untranslated (s.domain dk).pasid x false] }
/-- A home sends BISnpInv for a line that the host may hold, once (R382). -/
def State.askBack (s : State) (home y : Nat) : State :=
  let c := s.cluster home
  if NatSet.has c.biWait y then s
  else { s.setCluster home { c with biWait := NatSet.ins c.biWait y } with hostOut := s.hostOut ++ [.biSnpInv y] }
/-- Whether a port may read a host line now: it holds the line, which it asks for else (R380); with ATS clear the answer to an untranslated
request brings it, for one use, since no host line is cached (R377). -/
def State.hostRead (s : State) (cl dk x hpa : Nat) : Bool × State :=
  let k := s.cluster cl
  if !k.atsOn then
    if NatSet.has k.hostGot (hpa / 64) then (true, s.setCluster cl { k with hostGot := NatSet.del k.hostGot (hpa / 64) })
    else (false, s.askPlain cl dk x hpa)
  else if (Map.find k.hostLines (hpa / 64)).isSome then (true, s)
  else (false, s.askShared cl hpa)
/-- The bytes of a host line as CXL.cache carries them. -/
def hostData (m : Store) (a : Nat) : BitVec 512 := BitVec.ofNat 512 (m.read (a / 64 * 64) 64)
/-- The poison marks of a host line as CXL.cache carries them (R372). -/
def hostPoison (m : Store) (a : Nat) : BitVec 8 :=
  BitVec.ofNat 8 ((List.range 8).foldl (fun t i => t + (NatSet.has m.poison (a / 64 * 8 + i)).toNat * 2 ^ i) 0)

/-- The parts of `n` bytes at `x` that lie in one 4 KiB page each, as (address, bytes). -/
def pagePieces (x n : Nat) : List (Nat × Nat) :=
  if n = 0 then [] else (rangeFrom (x / 4096) ((x + n - 1) / 4096 + 1)).map (fun p =>
    let lo := if x < 4096 * p then 4096 * p else x
    (lo, (if x + n < 4096 * (p + 1) then x + n else 4096 * (p + 1)) - lo))
/-- The lines of `n` bytes at `a`. -/
def linesIn (a n : Nat) : List Nat := if n = 0 then [] else rangeFrom (a / 64) ((a + n - 1) / 64 + 1)
/-- What an access by the device itself of `n` bytes at a place lacks (R380, R382); the port is that of the domain's first cluster (log entry
17). -/
def State.devLacks (s : State) (dk : Nat) (l : Loc) (n : Nat) (w : Bool) : List DevNeed :=
  let cl := (s.domain dk).clusterAt 0
  let c := s.cluster cl
  match l.space with
  | .hbm => (linesIn l.addr n).filterMap (fun y => match Map.find (s.cluster l.home).snoop y with
    | some m => if w || m = .e then some (.snoop l.home y) else none
    | none => none)
  | .host =>
    if !c.atsOn then (if w then [] else (linesIn l.addr n).filterMap (fun y => if NatSet.has c.hostGot y then none else some (.host cl (64 * y) false)))
    else (linesIn l.addr n).filterMap (fun y => match Map.find c.hostLines y with
      | some .e => none
      | some .s => if w then some (.host cl (64 * y) true) else none
      | none => some (.host cl (64 * y) w))
  | .scratch => []
  | .carved => []
/-- The place of an access by the device itself, as the port of the domain's first cluster reaches it. -/
def State.devWhere (s : State) (dk x : Nat) (need : Need) : Where := locate s (s.domain dk |>.clusterAt 0) dk x need true
/-- What an access by the device itself lacks is noted: its step is not taken before it is there (log entry 55). -/
def State.devNeeds (s : State) (dk x n : Nat) (w : Bool) : State :=
  (pagePieces x n).foldl (fun (acc : State) p =>
    { acc with needs := acc.needs ++ (match acc.devWhere dk p.1 { r := !w, w := w } with
      | .at l _ => acc.devLacks dk l p.2 w
      | .atsMiss => [.ats ((acc.domain dk).clusterAt 0) dk p.1]
      | _ => []) }) s
/-- The same for a write by the device itself of `n` bytes at a device physical address, at the home that FHOME names. -/
def State.physNeeds (s : State) (p n : Nat) : State :=
  { s with needs := s.needs ++ s.devLacks 0 { space := .hbm, addr := p, home := (s.fhomeOf p).1 } n true }
/-- The requests for what a step of the device lacks are sent (R380, R382). -/
def State.askNeeds (s : State) (ns : List DevNeed) : State :=
  ns.foldl (fun (acc : State) q => match q with
    | .snoop home y => acc.askBack home y
    | .host cl hpa own =>
      if !(acc.cluster cl).atsOn then acc.askPlain cl ((acc.domainOf cl).getD cl) hpa hpa
      else if own then acc.askOwn cl hpa else acc.askShared cl hpa
    | .ats cl dk x => acc.askTranslation cl dk x) s
/-- A step of the device is taken whole, or not yet, while a line that it reads or writes itself is the host's (R380, R382, log entry 55). -/
def State.settled (s s' : State) : State := if s'.needs = s.needs then s' else s.askNeeds s'.needs

/-- The same for an instruction, which is issued again meanwhile. -/
def State.tries (s s' : State) : State := if s'.needs = s.needs then s' else (s.askNeeds s'.needs).forfeit

/-- A read by the device itself of `n` bytes at a virtual address of a domain (descriptors, rings, contexts), page by page. -/
def State.domRead (s : State) (dk x n : Nat) : Option Nat :=
  (pagePieces x n).foldr (fun p acc => match acc, s.devWhere dk p.1 { r := true } with
    | some v, .at l _ => some ((s.store l.space).read l.addr p.2 + 256 ^ p.2 * v)
    | _, _ => none) (some 0)
/-- The tag of the granule at a virtual address of a domain. -/
def State.domTag (s : State) (dk x : Nat) : Bool :=
  match s.devWhere dk x { r := true } with
  | .at l _ => !l.isFlat && (s.store l.space).tag l.addr
  | _ => false
/-- A capability that the device reads at a virtual address of a domain; untagged 0 when it cannot be read. -/
def State.domCap (s : State) (dk x : Nat) : CReg :=
  match s.domRead dk x 16 with
  | some v => { val := BitVec.ofNat 128 v, tag := s.domTag dk x }
  | none => {}
/-- What the device itself has written on a host page goes back to the host, whose completion acknowledges it (R119, R377, R380). -/
def State.throughHost (s : State) (dk : Nat) (l : Loc) (n : Nat) : State :=
  if l.space = .host then
    let cl := (s.domain dk).clusterAt 0
    let c := s.cluster cl
    let ys := linesIn l.addr n
    { s.setCluster cl { c with hostLines := ys.foldl (fun m y => Map.del m y) c.hostLines
                               hostReqs := c.hostReqs ++ ys.map (fun y => .wrote (.device (64 * y))) } with
      hostOut := s.hostOut ++ ys.map (fun y => if c.atsOn then .dirtyEvict (64 * y) (hostData s.host (64 * y)) (hostPoison s.host (64 * y))
        else .untranslated (s.domain dk).pasid (64 * y) true) }
  else s
/-- The device itself writes `n` bytes of `v` at a place for virtual address `x` of a domain (R106, R380). -/
def State.domPut (s : State) (dk x : Nat) (l : Loc) (n v : Nat) : State :=
  let s := { s with needs := s.needs ++ s.devLacks dk l n true }
  let bad := (s.store l.space).partialWords l.addr n x
  ((s.setStore l.space ((s.store l.space).writeData l.addr n v).1).partialMchks (some dk) { kind := 2, addr := x } bad).throughHost dk l n
/-- A write by the device itself of `n` bytes at a virtual address of a domain, page by page; a page that cannot be written leaves
memory as it is. -/
def State.domWrite (s : State) (dk x n v : Nat) : State :=
  (pagePieces x n).foldl (fun (acc : State) p =>
    match acc.devWhere dk p.1 { w := true } with
    | .at l _ => acc.domPut dk p.1 l p.2 (v / 256 ^ (p.1 - x))
    | .atsMiss => { acc with needs := acc.needs ++ [.ats ((acc.domain dk).clusterAt 0) dk p.1] }
    | _ => acc) s
/-- Whether the device can write at a virtual address of a domain. -/
def State.domWritable (s : State) (dk x : Nat) : Bool :=
  match s.devWhere dk x { w := true } with
  | .at _ _ => true
  | _ => false
/-- The tag of the granule at a virtual address, as the device itself has written it. -/
def State.domSetTag (s : State) (dk x : Nat) (t : Bool) : State :=
  match s.devWhere dk x { w := true } with
  | .at l _ => if l.isFlat then s else s.setStore l.space ((s.store l.space).setTag l.addr t)
  | _ => s
/-- Write a tagged granule for the device itself. -/
def State.domWriteCap (s : State) (dk x : Nat) (c : CReg) : State := (s.domWrite dk x 16 c.val.toNat).domSetTag dk x c.tag
/-- Fields that follow one another as one, so that the device writes whole words (R106). -/
def joinFields : List (Nat × Nat × Nat) → List (Nat × Nat × Nat)
  | [] => []
  | (o, n, v) :: r => match joinFields r with
    | [] => [(o, n, v)]
    | (p, m, w) :: q => if p = o + n then (o, n + m, v % 256 ^ n + 256 ^ n * w) :: q else (o, n, v) :: (p, m, w) :: q
/-- Write a list of fields, each an offset, a width in bytes and a value, from a virtual address on. -/
def State.domFields (s : State) (dk base : Nat) (fs : List (Nat × Nat × Nat)) : State :=
  (joinFields fs).foldl (fun a f => a.domWrite dk (base + f.1) f.2.1 f.2.2) s

/-- A field of a domain's descriptor (Table 7-2), as the device last read it. -/
def Domain.desc (d : Domain) (off n : Nat) : Nat := d.descr.toNat / 256 ^ off % 256 ^ n
/-- A capability of a domain's descriptor. -/
def Domain.descCap (d : Domain) (off : Nat) : CReg := { val := BitVec.ofNat 128 (d.desc off 16), tag := d.descrTags.getLsbD (off / 16) }
/-- The device reads a domain's descriptor, when DDESC is written and at every dispatch (R142): its rectangle is the domain's, where it is one.
A descriptor that cannot be read leaves the last one. -/
def State.loadDesc (s : State) (dk : Nat) : State :=
  let d := s.domain dk
  let x := d.ddesc.toNat
  let s := s.devNeeds dk x 128 false
  match s.domRead dk x 128 with
  | none => s
  | some v =>
    let tags := (List.range 8).foldl (fun acc i => acc + (s.domTag dk (x + 16 * i)).toNat * 2 ^ i) 0
    let d := { d with descr := BitVec.ofNat 1024 v, descrTags := BitVec.ofNat 8 tags }
    let q := { d with col := d.desc 96 1, row := d.desc 97 1, cols := d.desc 98 1, rows := d.desc 99 1 }
    s.setDomain dk (if 1 ≤ q.cols ∧ q.col + q.cols ≤ 32 ∧ 1 ≤ q.rows ∧ q.row + q.rows ≤ 32 then q else d)

/-- The local window of a domain (R84): the cluster and the byte in the scratch space, when `x` lies in it. The scratch
space is laid out as the window is: cluster × 2 MiB, core × 32 KiB. -/
def scratchOf (d : Domain) (x : Nat) : Option Nat :=
  if d.lwin.toNat ≤ x ∧ x < d.lwin.toNat + 2 ^ 31 then some (x - d.lwin.toNat) else none
/-- The core, in the package, of a byte of the scratch space. -/
def scratchCore (o : Nat) : Nat := o / 0x8000
/-- The bank of a byte of the scratch space (R86). -/
def scratchBank (o : Nat) : Nat := o / 64 % 8

/-- Package coordinates of a core (R344). -/
def coreCol (c : Nat) : Nat := (c / 64 % 32) * 8 + c % 8
/-- The row of a core in the package. -/
def coreRow (c : Nat) : Nat := (c / 64 / 32) * 8 + c % 64 / 8
/-- Whether a core lies in a rectangle (R344). -/
def Rect.holds (r : Rect) (c : Nat) : Bool :=
  decide (r.col ≤ coreCol c) && decide (coreCol c ≤ r.col + r.colsM1) && decide (r.row ≤ coreRow c) && decide (coreRow c ≤ r.row + r.rowsM1)

/-- Undefined at decode in a landing handler (R294), and where a private frame lies (R85): the byte in the scratch space of
slot `slot` of core `c`. -/
def State.frameBase (s : State) (c slot : Nat) : Nat := c * 0x8000 + (s.core c).lhbase.toNat * 0x400 - (15 - slot) * 0x400
/-- Whether a byte of the scratch space lies in the private frame of the issuing slot (Table 7-7). -/
def State.inOwnFrame (s : State) (o n : Nat) : Bool :=
  let b := s.frameBase s.turn.core s.turn.slot
  decide (b ≤ o) && decide (o + n ≤ b + 0x400)

end Sys2Proof.Machine
end

