-- ==== Sys2Proof/Machine/Capture.lean ====
section
/-!
DEFINITION. The snapshot area as the device reaches it (R365), and the capture of a page (R359).
-/
namespace Sys2Proof.Machine

/-- The virtual address of block `b` of a domain's snapshot area (R365). -/
def State.blockVa (s : State) (dk b : Nat) : Nat := (s.domain dk).snapa.toNat + 4096 * b
/-- A field of the snapshot header (Table 16-4); 0 when the area cannot be read. -/
def State.snapHeader (s : State) (dk off n : Nat) : Nat := (s.domRead dk (s.blockVa dk 0 + off) n).getD 0
/-- Write a field of the snapshot header. -/
def State.setSnapHeader (s : State) (dk off n v : Nat) : State := s.domWrite dk (s.blockVa dk 0 + off) n v
/-- Write the STATUS of a snapshot to its manifest and its directory entry (Tables 16-4, 16-5); one that found no room has neither. -/
def State.snapStatus (s : State) (dk : Nat) (sn : Snap) (st : Nat) : State :=
  if sn.man = 0 then s
  else (s.domWrite dk (s.blockVa dk sn.man + 4) 1 st).setSnapHeader dk (64 + 16 * (sn.seq % 64) + 4) 1 st

/-- Whether a snapshot has yet to copy the segment of a scratch byte (R357). -/
def State.uncopied (s : State) (o : Nat) : Bool :=
  match s.domainOf (clusterOf (scratchCore o)) with
  | none => false
  | some dk => match (s.domain dk).snap with
    | none => false
    | some sn => sn.runs && NatSet.has (Map.get [] sn.segs (scratchCore o)) (o % 0x8000 / 512)
/-- Whether a snapshot has yet to copy a segment of a core's scratchpad. -/
def State.copying (s : State) (c : Nat) : Bool := (List.range 64).any (fun i => s.uncopied (c * 0x8000 + 512 * i))

/-- The job of a domain, when its header has ENABLE set (R354, Table 16-4). -/
def State.jobOf (s : State) (dk : Nat) : Option Nat := if s.snapHeader dk 4 4 % 2 = 1 then some (s.snapHeader dk 0 4) else none
/-- The domains of a job in this module (R354). -/
def State.jobDomains (s : State) (job : Nat) : List Nat := (s.domains.map Prod.fst).filter (fun k => s.jobOf k == some job)
/-- The clusters of a job in this module. -/
def State.jobClusters (s : State) (job : Nat) : List Nat := (s.jobDomains job).flatMap (fun k => (s.domain k).clusters)
/-- The Faleus ports with a link to another device of a job (R354). -/
def State.jobLinks (s : State) (job : Nat) : List Nat :=
  (List.range 16).filter (fun p => s.portsUp.getLsbD p && !s.portsFenced.getLsbD p && Config.jobPort job p)
/-- Whether a neighbour link crosses the edge between two clusters (R12, R188). -/
def besides (a b : Nat) : Bool :=
  (a / 32 == b / 32 && (a % 32 + 1 == b % 32 || b % 32 + 1 == a % 32)) || (a % 32 == b % 32 && (a / 32 + 1 == b / 32 || b / 32 + 1 == a / 32))
/-- The planes of a flow that an endpoint sends on (R354). -/
def planesOf (src : Nat) : List Nat := (List.range 5).map (fun pl => src * 8 + pl)
/-- The channels of a job that end at an endpoint (R354): the flows from every other endpoint of the device, neighbour links, and the direction of
a link that comes in at a port. -/
def State.channelsTo (s : State) (job ep : Nat) : List Nat :=
  let cls := (s.jobClusters job).filter (fun c => c != ep)
  let ports := ((List.range 16).map (fun p => 0x4000 + p)).filter (fun e => e != ep)
  cls.flatMap (fun c => planesOf c ++ (if decide (ep < 0x4000) && besides c ep then [c * 8 + 5] else [])) ++ ports.flatMap planesOf
    ++ (if decide (0x4000 ≤ ep) && (s.jobLinks job).contains (ep - 0x4000) then planesOf (0x8000 + (ep - 0x4000)) else [])
/-- The record of port `p` for the running snapshot of a domain. -/
def State.portSnap (s : State) (sn : Snap) (p : Nat) : Option PortSnap :=
  s.portSnaps.find? (fun (x : PortSnap) => x.port == p && x.job == sn.job && x.id == sn.id)
/-- The endpoints of a domain: its clusters and the ports of its device (R354). -/
def State.endpoints (s : State) (dk : Nat) : List Nat := (s.domain dk).clusters ++ (List.range 16).map (fun p => 0x4000 + p)
/-- Whether an endpoint of a domain's snapshot is done (R361). -/
def State.endpointDone (s : State) (sn : Snap) (ep : Nat) : Bool :=
  let chs := s.channelsTo sn.job ep
  if ep < 0x4000 then
    NatSet.has sn.armed ep && chs.all (fun ch => sn.heard.contains (ep, ch))
      && (List.range 64).all (fun i => (Map.get [] sn.segs (64 * ep + i)).isEmpty && (s.core (64 * ep + i)).l1.all (fun e => !e.2.pre)
        && (s.owed (64 * ep + i)).all (fun w => !w.l.pre))
  else (s.portSnap sn (ep - 0x4000)).any (fun x => chs.all (NatSet.has x.heard))
/-- How many endpoints of a domain are done (R364). -/
def State.endpointsDone (s : State) (dk : Nat) (sn : Snap) : Nat :=
  if sn.phase == .loc || sn.phase == .complete then (s.endpoints dk).length
  else sn.done.getD ((s.endpoints dk).filter (s.endpointDone sn)).length
/-- The threads of a domain that wait in SNPW for an id, with their destinations (R362). -/
def State.snapWaiters (s : State) (dk : Nat) (id : BitVec 32) : List (Tid × RegNum) :=
  s.threads.filterMap (fun e => match e.2.wait with
    | some (.snapDone d i) => if i = id && (s.domain dk).holds (clusterOf (tidOf e.1).core) then some (tidOf e.1, d) else none
    | _ => none)
/-- The directory of a domain's manifests with that of a snapshot in its place, SEQ mod 64 (Table 16-4). -/
def Domain.listSnap (d : Domain) (sn : Snap) : Domain := { d with manifests := d.manifests.filter (fun m => m.seq % 64 != sn.seq % 64) ++ [sn] }

/-- Abort a snapshot (R363): its manifest takes STATUS 3 and recording, logging and capture stop; a SNPW that waits for it raises SNAPABORT
(R362). -/
def State.snapAbort (s : State) (dk : Nat) : State :=
  match (s.domain dk).snap with
  | none => s
  | some sn =>
    if sn.phase = .complete || sn.phase = .aborted then s
    else
      let gone : Snap := { sn with phase := .aborted, done := some (s.endpointsDone dk sn) }
      let s := s.snapStatus dk sn 3
      let s := { s with portSnaps := s.portSnaps.filter (fun (p : PortSnap) => p.id != sn.id || p.job != sn.job) }
      let d := { s.domain dk with snap := some gone }
      let s := s.setDomain dk (if sn.man = 0 then d else d.listSnap { gone with log := [], pages := [], image := {} })
      (s.snapWaiters dk sn.id).foldl (fun (acc : State) w =>
        acc.as w.1 (fun s => (s.setCur { s.cur with status := .running }).raise ⟨.snapabort, sn.id.toNat⟩)) s

/-- Allocate `n` blocks: the first of them, or none when that would pass SIZE, which aborts the snapshot (R363). -/
def State.snapAlloc (s : State) (dk n : Nat) : Option Nat × State :=
  let a := s.snapHeader dk 16 8
  if s.snapHeader dk 8 8 < a + n then (none, s.snapAbort dk)
  else
    let s := s.setSnapHeader dk 16 8 (a + n)
    let d := s.domain dk
    (some a, s.setDomain dk { d with snap := d.snap.map (fun sn => { sn with blocks := sn.blocks + n }) })

/-- The metadata byte of a granule (R367): its tag, the full/empty bits of its two words, their poison. -/
def metaByte (m : Store) (g : Nat) : Nat :=
  (NatSet.has m.tags g).toNat + 2 * (NatSet.has m.full (2 * g)).toNat + 4 * (NatSet.has m.full (2 * g + 1)).toNat
    + 8 * (NatSet.has m.poison (2 * g)).toNat + 16 * (NatSet.has m.poison (2 * g + 1)).toNat

/-- A granule takes the metadata that such a byte holds. -/
def Store.setMeta (m : Store) (g b : Nat) : Store :=
  let m := m.setTag (16 * g) (decide (b % 2 = 1))
  let m := (m.setFull (16 * g) (decide (b / 2 % 2 = 1))).setFull (16 * g + 8) (decide (b / 4 % 2 = 1))
  (m.setPoison (16 * g) (decide (b / 8 % 2 = 1))).setPoison (16 * g + 8) (decide (b / 16 % 2 = 1))
/-- Copy `n` bytes of a memory from `a`, with one metadata byte for each granule behind them, to blocks from `b` on; the
blocks are cleared first (R367). -/
def State.copyOut (s : State) (dk : Nat) (m : Store) (a n b : Nat) : State :=
  let base := s.blockVa dk b
  let s := (List.range ((17 * n + 65535) / 65536)).foldl (fun acc i => acc.domWrite dk (base + 4096 * i) 4096 0) s
  let s := (m.bytes.filter (fun c => decide (a ≤ c.1) && decide (c.1 < a + n))).foldl
    (fun acc c => acc.domWrite dk (base + (c.1 - a)) 1 c.2.toNat) s
  (granulesOf a n).foldl (fun acc g =>
    if metaByte m g = 0 then acc else acc.domWrite dk (base + n + (g - a / 16)) 1 (metaByte m g)) s

/-- Copy data with its metadata bytes back from blocks: the inverse of `copyOut`, into memory `sp` at `a` (R369). -/
def State.copyIn (s : State) (dk : Nat) (sp : Space) (a n b : Nat) : State :=
  let base := s.blockVa dk b
  let m := s.store sp
  let keep : NatSet → Nat → NatSet := fun l u => l.filter (fun x => decide (x < a / u) || decide ((a + n) / u ≤ x))
  let m := { m with
    bytes := m.bytes.filter (fun c => decide (c.1 < a) || decide (a + n ≤ c.1))
    full := keep m.full 8
    tags := keep m.tags 16
    poison := keep m.poison 8 }
  let m := (List.range n).foldl (fun acc i => acc.setByte (a + i) (BitVec.ofNat 8 ((s.domRead dk (base + i) 1).getD 0))) m
  let m := (granulesOf a n).foldl (fun acc g => acc.setMeta g ((s.domRead dk (base + n + (g - a / 16)) 1).getD 0)) m
  s.setStore sp m

/-- Append `fields` as the next entry of a chain of blocks whose blocks hold `per` entries of `w` bytes from byte `first` on,
with the entry count at `cntOff` (R367, R368). -/
def State.chainAppend (s : State) (dk : Nat) (c : Chain) (per first w cntOff : Nat) (fields : List (Nat × Nat × Nat)) : Chain × State :=
  if c.total ≠ 0 && decide (c.inLast < per) then
    let base := s.blockVa dk c.last
    let s := s.domFields dk (base + first + w * c.inLast) fields
    ({ c with inLast := c.inLast + 1, total := c.total + 1 }, s.domWrite dk (base + cntOff) 2 (c.inLast + 1))
  else match s.snapAlloc dk 1 with
    | (none, s) => (c, s)
    | (some b, s) =>
      let s := s.domWrite dk (s.blockVa dk b) 64 0
      let s := if c.total = 0 then s else s.domWrite dk (s.blockVa dk c.last) 8 b
      let s := s.domFields dk (s.blockVa dk b + first) fields
      ({ first := if c.total = 0 then b else c.first, last := b, inLast := 1, total := c.total + 1 },
        s.domWrite dk (s.blockVa dk b + cntOff) 2 1)

/-- CLUSTER × 64 + CORE. -/
def handleCore (h : Word) : Nat := wfld h 3 16
/-- The core a log record names, its plane and whether it was waiting in a spill queue (R368). -/
def Logged.dest : Logged → Nat × Nat
  | .writeBack c _ => (c, 0)
  | .put c _ => (c, 5)
  | .chunk c _ => (c, 3)
  | .cmdAck t _ => (t.core, 1)
  | .row h _ _ _ _ _ => (handleCore h, 2)
  | .rowAck c _ _ _ _ => (c, 2)
  | .peerWrite _ _ _ => (0, 0)
  | .wbAck c _ => (c, 1)
  | .closing dest _ _ => (dest, 3)
  | .closeAck c _ _ _ => (c, 1)
/-- The payload of a Trellis row packet, as (byte, width, value) (Table 12-1). -/
def rowPayload (h : Word) (row : Nat) (anch : BitVec 16) (core dev : Nat) (lanes : List Lane) : List (Nat × Nat × Nat) :=
  [(0, 8, h.toNat), (8, 1, row), (10, 2, anch.toNat), (12, 4, core + dev * 2 ^ 16)]
    ++ lanes.zipIdx.map (fun e => (32 + 10 * e.2, 10, e.1.v.toNat + e.1.st.toNat * 2 ^ 72))
/-- Free values for `n` bytes of a flit that the spec gives no layout of (log entry 50). -/
def freeBytes (k n : Nat) : Nat := (List.range (n / 8)).foldl (fun a i => a + (Config.freeWord (k + i)).toNat * 2 ^ (64 * i)) 0
/-- The bytes of a list of fields, those that no field names zero (R5). -/
def fieldBytes (f : List (Nat × Nat × Nat)) : Nat := f.foldl (fun a e => a + e.2.2 % 256 ^ e.2.1 * 256 ^ e.1) 0
/-- The payloads of a packet's flits where the spec lays them out: a row's three, of 128 bytes each (R24, R260). -/
def Logged.flits (dev : Nat) (p : Logged) : List (Option Nat) :=
  match p with
  | .row h j anch lanes sender _ =>
    let v := fieldBytes (rowPayload h j anch (sender % 2 ^ 16) (if sender < 2 ^ 16 then dev else sender / 2 ^ 16 - 1) lanes)
    (List.range 3).map (fun q => some (v / 256 ^ (128 * q) % 256 ^ 128))
  | .writeBack _ _ | .put _ _ | .chunk _ _ | .cmdAck _ _ | .rowAck _ _ _ _ _ | .peerWrite _ _ _ | .wbAck _ _ | .closing _ _ _ | .closeAck _ _ _ _ => [none]
/-- Log a packet at endpoint `ep` of a domain (R358): the records of R368, one a flit, and the packet itself. A flit's 32 bytes of header and
check bits stand before its payload, and are free values like the payload of a packet other than a row and the flow sequence number; bytes 16
to 31, which R368 does not name, are written as reserved (log entry 50). `src` is the sending cluster, with 2^16 times the device above it. -/
def State.logAt (s : State) (dk ep src : Nat) (pre : Bool) (p : Logged) : State :=
  match (s.domain dk).snap with
  | none => s
  | some sn =>
    let put := fun (a : Chain × State) (f : Option Nat) =>
      let s := a.2
      let k := s.freeCount
      let (ch, s) := s.chainAppend dk a.1 21 64 192 10
        ([(0, 2, p.dest.1), (2, 1, p.dest.2), (3, 1, pre.toNat), (4, 4, src), (8, 8, (Config.freeWord k).toNat), (16, 16, 0)]
          ++ [(32, 32, freeBytes (k + 1) 32), (64, 128, f.getD (freeBytes (k + 5) 128))])
      let s := { s with freeCount := k + 21 }
      (ch, if ch.inLast = 1 then s.domWrite dk (s.blockVa dk ch.last + 8) 2 (if ep < 0x4000 then (s.domain dk).indexOf ep else ep) else s)
    let (ch, s) := (p.flits s.devnum.toNat).foldl put (Map.get {} sn.logChains ep, s)
    let d := s.domain dk
    s.setDomain dk { d with snap := d.snap.map (fun (x : Snap) => { x with log := x.log ++ [(ep, p)], logChains := Map.set x.logChains ep ch }) }
/-- A packet from cluster `src` reaches cluster `ep`: it is logged when `ep` has recorded and the packet left before `src` did
(R358). -/
def State.logPacket (s : State) (src ep : Nat) (cut : Bool) (p : Logged) : State :=
  if src != ep && s.recorded ep && (cut || !s.recorded src) then
    match s.domainOf ep with
    | some dk => s.logAt dk ep (s.devnum.toNat * 2 ^ 16 + src) false p
    | none => s
  else s

/-- A packet of another module, from source `src`, that comes in on port `p` for a cluster of a domain: none while it must stay
behind the port's marker; else it is logged, at the port or at the cluster, inside their windows (R356, R358), where Table 16-3 has it logged. -/
def State.throughPort (s : State) (dk cl p plane src : Nat) (l : Option Logged) : Option State :=
  let note := fun (ep : Nat) => (l.map (s.logAt dk ep src false)).getD s
  match (s.domain dk).snap with
  | none => if s.portSnaps.any (fun (x : PortSnap) => x.port == p && s.snapHeader dk 0 4 == x.job) then none else some s
  | some sn =>
    if !sn.runs then some s
    else match s.portSnap sn p with
      | some x =>
        if !NatSet.has sn.armed cl then none
        else if NatSet.has x.heard ((0x8000 + p) * 8 + plane) then some s
        else some (note (0x4000 + p))
      | none => some (if NatSet.has sn.armed cl then note cl else s)

/-- The memory and the byte that a leaf's frame starts at. -/
def leafPlace (pte : Word) : Space × Nat :=
  if pteType pte = 2 then (.carved, pteHome pte * carveMax + pteFrame pte) else (.hbm, pteFrame pte)

/-- Write every entry that holds a leaf (R327), with the reserved bit zero (R5, R326). -/
def State.writeLeaf (s : State) (e : TlbEntry) (v : Nat) : State :=
  let p := leafCopies e.pteAddr (pteSize e.pte)
  let v := v - v / 2 ^ 15 % 2 * 2 ^ 15
  let s := s.physNeeds p.1 (8 * p.2)
  { s with hbm := (List.range p.2).foldl (fun (m : Store) i => m.write (p.1 + 8 * i) 8 v) s.hbm }
/-- Capture the page of a leaf for the domain's running snapshot, if its home has armed and it has not been captured (R359). -/
def State.capturePage (s : State) (e : TlbEntry) : State :=
  let dk := e.dom
  let pte := wordOf (s.hbm.read e.pteAddr 8)
  match (s.domain dk).snap with
  | none => s
  | some sn =>
    if !sn.runs || !NatSet.has sn.armed (pteHome pte) || pteSnap pte = sn.seq % 4 || !(pteType pte = 0 || pteType pte = 2) then s
    else
      let old := ((s.domain dk).manifests.find? (fun m => m.man == sn.prev)).bind (fun m => m.pages.find? (fun p => p.va == e.va && p.size == pteSize pte))
      let place := leafPlace pte
      let copied : Option (Nat × Nat) × State :=
        match (if sn.full || pteDss pte then none else old) with
        | some p => (some (p.data, p.seq), s)
        | none =>
          match s.snapAlloc dk ((17 * e.size + 65535) / 65536) with
          | (none, s) => (none, s)
          | (some b, s) => (some (b, sn.seq), s.copyOut dk (s.store place.1) place.2 e.size b)
      match copied with
      | (none, s) => s
      | (some (b, q), s) =>
        let ent : PageEnt := { va := e.va, size := pteSize pte, pte := pte, data := b, seq := q }
        let ch := Map.get {} ((s.domain dk).snap.getD sn).pageChains (pteHome pte)
        let (ch, s) := s.chainAppend dk ch 127 32 32 8
          [(0, 8, e.va + pteSize pte), (8, 8, pte.toNat), (16, 8, b), (24, 8, q)]
        let ent := { ent with entry := s.blockVa dk ch.last + 32 + 32 * (ch.inLast - 1) }
        let d := s.domain dk
        let s := s.setDomain dk { d with snap := d.snap.map (fun x => { x with
          pages := x.pages ++ [ent], pageChains := Map.set x.pageChains (pteHome pte) ch }) }
        -- SNAP := e; DSS := 0
        s.writeLeaf e (pte.toNat - pteSnap pte * 2 ^ 11 + sn.seq % 4 * 2 ^ 11 - (pteDss pte).toNat * 2 ^ 13)

/-- The data run of a page of a snapshot is copied to new blocks (R360, R367). -/
def State.copyBlocks (s : State) (dk old new n : Nat) : State :=
  (List.range ((17 * n + 65535) / 65536)).foldl (fun (acc : State) i =>
    acc.domWrite dk (acc.blockVa dk (new + i)) 4096 ((acc.domRead dk (acc.blockVa dk (old + i)) 4096).getD 0)) s
/-- A line of a page's data run as a memory of 64 bytes from address 0 on, with its metadata (R367). -/
def State.lineOfCopy (s : State) (dk base n off : Nat) : Store :=
  let m : Store := (({} : Store).write 0 64 ((s.domRead dk (base + off) 64).getD 0))
  (List.range 4).foldl (fun (acc : Store) g => acc.setMeta g ((s.domRead dk (base + n + off / 16 + g) 1).getD 0)) m
/-- A snapshot's copy of a page takes a change of the line at byte `off` of it (R360): after the capture of the page, and, where its entry holds the
data of an earlier snapshot, after a copy of those into blocks of this one, to which the entry then points. -/
def State.patchCopy (s : State) (e : TlbEntry) (off : Nat) (f : Store → Store) : State :=
  let dk := e.dom
  let s := s.capturePage e
  match (s.domain dk).snap with
  | none => s
  | some sn => match sn.pages.find? (fun (p : PageEnt) => sn.runs && p.va == e.va) with
    | none => s
    | some p =>
      let r : Option Nat × State :=
        if p.seq = sn.seq then (some p.data, s)
        else match s.snapAlloc dk ((17 * e.size + 65535) / 65536) with
          | (none, s) => (none, s)
          | (some b, s) =>
            let s := (s.copyBlocks dk p.data b e.size).domFields dk p.entry [(16, 8, b), (24, 8, sn.seq)]
            let d := s.domain dk
            let fix : PageEnt → PageEnt := fun q => if q.va == p.va then { q with data := b, seq := sn.seq } else q
            (some b, s.setDomain dk { d with snap := d.snap.map (fun (z : Snap) => { z with pages := z.pages.map fix }) })
      match r with
      | (none, s) => s
      | (some b, s) =>
        let base := s.blockVa dk b
        let m := f (s.lineOfCopy dk base e.size off)
        (List.range 4).foldl (fun (acc : State) g => acc.domWrite dk (base + e.size + off / 16 + g) 1 (metaByte m g))
          (s.domWrite dk (base + off) 64 (m.read 0 64))

/-- What a home does before it writes a page: the page is captured, and DSS is set (R326, R359). -/
def State.beforeWrite (s : State) (e : TlbEntry) : State :=
  let s := s.capturePage e
  let pte := wordOf (s.hbm.read e.pteAddr 8)
  if pteDss pte || !(pteType pte = 0 || pteType pte = 2) then s
  else s.writeLeaf e (pte.toNat + 2 ^ 13)

/-- The leaves below a table (R325, R327), each once. -/
def State.leavesAt (s : State) (dk : Nat) : Nat → Nat → Nat → List TlbEntry
  | 0, _, _ => []
  | level + 1, table, base => (List.range 512).flatMap (fun i =>
    let a := table + 8 * i
    let e := wordOf (s.hbm.read a 8)
    let x := base + i * 2 ^ (12 + 9 * level)
    if !pteV e || pteBad s (s.domain dk) e level then []
    else if pteLeaf e then
      if (leafCopies a (pteSize e)).1 = a then [{ va := signed57 x, size := sizeBytes (pteSize e), pte := e, pteAddr := a, dom := dk }] else []
    else State.leavesAt s dk level (pteFrame e) x)
/-- The leaves of a domain that a snapshot captures (R359). -/
def State.leaves (s : State) (dk : Nat) : List TlbEntry :=
  (s.leavesAt dk 5 (s.domain dk).ptroot.toNat 0).filter (fun e => pteType e.pte == 0 || pteType e.pte == 2)
/-- The leaf whose frame holds a device physical address. -/
def State.leafOf (s : State) (p : Nat) : Option TlbEntry :=
  (s.domains.flatMap (fun e => s.leaves e.1)).find? (fun e => pteType e.pte == 0 && decide (pteFrame e.pte ≤ p) && decide (p < pteFrame e.pte + e.size))
/-- What a home does before a write from outside to a device physical address (R326, R359). -/
def State.outsideMark (s : State) (p : Nat) : State :=
  match s.leafOf p with
  | some e => s.beforeWrite e
  | none => s
/-- The page of a place is captured and marked before the device itself writes it (R326, R359); the snapshot area's own writes go by
`State.domWrite`. -/
def State.devPrepare (s : State) (dk x n : Nat) : State :=
  (pagePieces x n).foldl (fun (acc : State) p => match acc.devWhere dk p.1 { w := true } with
    | .at l e => if l.isFlat then acc else acc.beforeWrite e
    | _ => acc) s
/-- A write by the device itself at a home, with the capture and the mark of its page. -/
def State.devWrite (s : State) (dk x n v : Nat) : State := (s.devPrepare dk x n).domWrite dk x n v
/-- The same for a tagged granule. -/
def State.devWriteCap (s : State) (dk x : Nat) (c : CReg) : State := (s.devPrepare dk x 16).domWriteCap dk x c
/-- The same for a list of fields from a virtual address on. -/
def State.devFields (s : State) (dk base : Nat) (fs : List (Nat × Nat × Nat)) : State :=
  (joinFields fs).foldl (fun a f => a.devWrite dk (base + f.1) f.2.1 f.2.2) s

end Sys2Proof.Machine
end

