-- ==== Sys2Proof/Machine/Flags.lean ====
section
/-!
DEFINITION. Rounding and flags: the floating formats (R194, R195), exact values, one rounding with the flags of R200 and
R219, and the arithmetic built on it.
-/
namespace Sys2Proof.Machine

/-- A floating format: exponent and fraction widths (Table 9-1). -/
structure FFmt where
  eb : Nat
  mb : Nat
  deriving DecidableEq, Repr

/-- binary32. -/
def fmtF32 : FFmt := ⟨8, 23⟩
/-- binary16. -/
def fmtF16 : FFmt := ⟨5, 10⟩
/-- bfloat16. -/
def fmtBf16 : FFmt := ⟨8, 7⟩
/-- D19. -/
def fmtD19 : FFmt := ⟨8, 10⟩
/-- The exponent bias. -/
def FFmt.bias (f : FFmt) : Nat := 2 ^ (f.eb - 1) - 1
/-- The position of the sign bit. -/
def FFmt.sbit (f : FFmt) : Nat := f.eb + f.mb
/-- The width in bits. -/
def FFmt.width (f : FFmt) : Nat := f.eb + f.mb + 1
/-- The default NaN (R195): positive, quiet, fraction zero below the quiet bit. -/
def FFmt.nan (f : FFmt) : Nat := (2 ^ f.eb - 1) * 2 ^ f.mb + 2 ^ (f.mb - 1)
/-- The infinity of a sign. -/
def FFmt.inf (f : FFmt) (neg : Bool) : Nat := neg.toNat * 2 ^ f.sbit + (2 ^ f.eb - 1) * 2 ^ f.mb
/-- The largest finite value of a sign. -/
def FFmt.huge (f : FFmt) (neg : Bool) : Nat := neg.toNat * 2 ^ f.sbit + (2 ^ f.eb - 1) * 2 ^ f.mb - 1
/-- The exponent of the last place of the smallest values: 1 − bias − fraction width. -/
def FFmt.emin (f : FFmt) : Int := 1 - (f.bias : Int) - f.mb

/-- A value read from a format: NaN (signalling or quiet), infinity, or ±m × 2^e. -/
inductive FVal where
  | nan (signalling : Bool)
  | inf (neg : Bool)
  | fin (neg : Bool) (m : Nat) (e : Int)
  deriving DecidableEq, Repr

/-- The value of a code (R195). -/
def FFmt.decode (f : FFmt) (v : Nat) : FVal :=
  let neg := v / 2 ^ f.sbit % 2 = 1
  let e := v / 2 ^ f.mb % 2 ^ f.eb
  let fr := v % 2 ^ f.mb
  if e = 2 ^ f.eb - 1 then
    if fr = 0 then .inf neg else .nan (decide (fr < 2 ^ (f.mb - 1)))
  else if e = 0 then .fin neg fr f.emin
  else .fin neg (2 ^ f.mb + fr) (f.emin + e - 1)

/-- FFLAGS (R45): NV 4, DZ 3, OF 2, UF 1, NX 0. -/
abbrev FFlags := BitVec 5
/-- Invalid. -/
def flagNV : FFlags := 0b10000
/-- Division by zero. -/
def flagDZ : FFlags := 0b01000
/-- Overflow. -/
def flagOF : FFlags := 0b00100
/-- Underflow. -/
def flagUF : FFlags := 0b00010
/-- Inexact. -/
def flagNX : FFlags := 0b00001
/-- A flag when a condition holds. -/
def flagIf (b : Bool) (f : FFlags) : FFlags := if b then f else 0

/-- The number of bits of a natural number. -/
def bitLen (m : Nat) : Nat := if m = 0 then 0 else Nat.log2 m + 1

/-- Whether rounding goes up in magnitude, for a quotient `q`, a remainder `r` and a unit `u` above it (R200): RMODE 0 RNE,
1 RTZ, 2 RUP, 3 RDN, 4 RNA. -/
def roundsUp (rm : Nat) (neg : Bool) (q r u : Nat) : Bool :=
  match rm with
  | 0 => decide (u < 2 * r) || (decide (2 * r = u) && decide (q % 2 = 1))
  | 1 => false
  | 2 => decide (r ≠ 0) && !neg
  | 3 => decide (r ≠ 0) && neg
  | _ => decide (u ≤ 2 * r)

/-- ±m × 2^e rounded to a multiple of 2^q: the multiple's count and whether it is inexact. -/
def roundAt (rm : Nat) (neg : Bool) (m : Nat) (e q : Int) : Nat × Bool :=
  if q ≤ e then (m * 2 ^ (e - q).toNat, false)
  else
    let u := 2 ^ (q - e).toNat
    (m / u + (roundsUp rm neg (m / u) (m % u) u).toNat, decide (m % u ≠ 0))

/-- ±m × 2^e rounded once to a format, with the flags of R200. -/
def FFmt.round (f : FFmt) (rm : Nat) (neg : Bool) (m : Nat) (e : Int) : Nat × FFlags :=
  let s := neg.toNat * 2 ^ f.sbit
  if m = 0 then (s, 0)
  else
    let lead := e + bitLen m - 1
    let q := max (lead - f.mb) f.emin
    let (k, nx) := roundAt rm neg m e q
    -- the code: adding the count to the exponent field carries a rounding to the next binade
    let code := (q - f.emin).toNat * 2 ^ f.mb + k
    if code ≥ (2 ^ f.eb - 1) * 2 ^ f.mb then
      let toInf := match rm with
        | 0 => true
        | 1 => false
        | 2 => !neg
        | 3 => neg
        | _ => true
      (if toInf then f.inf neg else f.huge neg, flagOF ||| flagNX)
    else (s + code, flagIf nx flagNX ||| flagIf (nx && decide (code < 2 ^ f.mb)) flagUF)

/-- Negate a value; a NaN stays. -/
def FVal.neg : FVal → FVal
  | .nan g => .nan g
  | .inf n => .inf (!n)
  | .fin n m e => .fin (!n) m e
/-- Whether a value is NaN. -/
def FVal.isNan : FVal → Bool
  | .nan _ => true
  | .inf _ => false
  | .fin _ _ _ => false
/-- Whether a value is a signalling NaN. -/
def FVal.isSig : FVal → Bool
  | .nan g => g
  | .inf _ => false
  | .fin _ _ _ => false
/-- Whether a value is an infinity of a sign. -/
def FVal.isInf (neg : Bool) : FVal → Bool
  | .nan _ => false
  | .inf n => n == neg
  | .fin _ _ _ => false
/-- Whether a value is −0 or below, by its sign bit. -/
def FVal.sign : FVal → Bool
  | .nan _ => false
  | .inf n => n
  | .fin n _ _ => n
/-- Whether a value is ±0. -/
def FVal.isZero : FVal → Bool
  | .nan _ => false
  | .inf _ => false
  | .fin _ m _ => m == 0

/-- The exact product, and whether it is the invalid 0 × ∞ (R219). -/
def FVal.mul (a b : FVal) : FVal × Bool :=
  match a, b with
  | .nan g, y => (.nan (g || y.isSig), false)
  | x, .nan g => (.nan (g || x.isSig), false)
  | .inf n, y => if y.isZero then (.nan false, true) else (.inf (n != y.sign), false)
  | x, .inf n => if x.isZero then (.nan false, true) else (.inf (n != x.sign), false)
  | .fin n m e, .fin n' m' e' => (.fin (n != n') (m * m') (e + e'), false)

/-- A finite value as a signed count of 2^q, for q at or below its exponent. -/
def FVal.count (q : Int) : FVal → Int
  | .nan _ => 0
  | .inf _ => 0
  | .fin n m e => (if n then -1 else 1) * ((m * 2 ^ (e - q).toNat : Nat) : Int)
/-- The exponent of a finite value, at most `q`. -/
def FVal.minExp (q : Int) : FVal → Int
  | .nan _ => q
  | .inf _ => q
  | .fin _ m e => if m = 0 then q else min e q

/-- The exact sum of the addends rounded once (R219): NaN and ∞ − ∞ give the default NaN; an exact zero is −0 when every
addend is −0, else +0, or −0 under RDN. `bad` says that a product was already invalid. A quiet NaN among the addends gives no NV though infinities
of both signs are there too (DESIGN CHOICE, log entry 57). -/
def FFmt.sum (f : FFmt) (rm : Nat) (bad : Bool) (xs : List FVal) : Nat × FFlags :=
  let nv := bad || xs.any FVal.isSig
  if xs.any FVal.isNan then (f.nan, flagIf nv flagNV)
  else if xs.any (FVal.isInf false) then
    if xs.any (FVal.isInf true) then (f.nan, flagNV) else (f.inf false, flagIf nv flagNV)
  else if xs.any (FVal.isInf true) then (f.inf true, flagIf nv flagNV)
  else
    let q := xs.foldl (fun a x => x.minExp a) f.emin
    let t := xs.foldl (fun a x => a + x.count q) (0 : Int)
    if t = 0 then
      ((if xs.all (fun x => x.isZero && x.sign) then true else rm == 3).toNat * 2 ^ f.sbit, 0)
    else f.round rm (decide (t < 0)) t.natAbs q

/-- a + b in a format. -/
def FFmt.add (f : FFmt) (rm a b : Nat) : Nat × FFlags := f.sum rm false [f.decode a, f.decode b]
/-- a − b in a format. -/
def FFmt.sub (f : FFmt) (rm a b : Nat) : Nat × FFlags := f.sum rm false [f.decode a, (f.decode b).neg]
/-- ±a × b ± c: with `nc` the addend is negated (R220). -/
def FFmt.fma (f : FFmt) (rm a b c : Nat) (nc : Bool) : Nat × FFlags :=
  let p := FVal.mul (f.decode a) (f.decode b)
  let y := f.decode c
  f.sum rm p.2 [p.1, if nc then y.neg else y]
/-- a × b in a format. A zero product keeps its own sign. -/
def FFmt.mul (f : FFmt) (rm a b : Nat) : Nat × FFlags :=
  let p := FVal.mul (f.decode a) (f.decode b)
  match p.1 with
  | .nan g => (f.nan, flagIf (p.2 || g) flagNV)
  | .inf n => (f.inf n, 0)
  | .fin n m e => f.round rm n m e
/-- a ÷ b (R219, R222). -/
def FFmt.div (f : FFmt) (rm a b : Nat) : Nat × FFlags :=
  match f.decode a, f.decode b with
  | .nan g, y => (f.nan, flagIf (g || y.isSig) flagNV)
  | x, .nan g => (f.nan, flagIf (g || x.isSig) flagNV)
  | .inf n, y => match y with
    | .inf _ => (f.nan, flagNV)
    | .nan _ => (f.nan, 0)
    | .fin n' _ _ => (f.inf (n != n'), 0)
  | .fin n _ _, .inf n' => ((n != n').toNat * 2 ^ f.sbit, 0)
  | .fin n m e, .fin n' m' e' =>
    if m' = 0 then if m = 0 then (f.nan, flagNV) else (f.inf (n != n'), flagDZ)
    else f.round rm (n != n') (2 * (m * 2 ^ 64 / m') + (if m * 2 ^ 64 % m' = 0 then 0 else 1)) (e - e' - 65)

/-- The integer square root, one bit at a time from bit `k` down. -/
def isqrt (x : Nat) : Nat → Nat → Nat
  | 0, r => if (r + 1) * (r + 1) ≤ x then r + 1 else r
  | k + 1, r => isqrt x k (if (r + 2 ^ (k + 1)) * (r + 2 ^ (k + 1)) ≤ x then r + 2 ^ (k + 1) else r)

/-- 1 ÷ √a, correctly rounded (R222). -/
def FFmt.rsq (f : FFmt) (rm a : Nat) : Nat × FFlags :=
  match f.decode a with
  | .nan g => (f.nan, flagIf g flagNV)
  | .inf false => (0, 0)
  | .inf true => (f.nan, flagNV)
  | .fin n m e =>
    if m = 0 then (f.inf n, flagDZ)
    else if n then (f.nan, flagNV)
    else
      let odd := e.emod 2 = 1
      let m := if odd then 2 * m else m
      let e := if odd then e - 1 else e
      let r := isqrt (2 ^ 128 / m) 64 0
      f.round rm false (2 * r + (if r * r * m = 2 ^ 128 then 0 else 1)) (-(e / 2) - 65)

/-- Order of two values that are not NaN, −0 counting as below +0: a is less than b (R222). -/
def FVal.lt : FVal → FVal → Bool
  | .nan _, _ => false
  | _, .nan _ => false
  | .inf n, y => n && !(y.isInf true)
  | .fin _ _ _, .inf n => !n
  | .fin n m e, .fin n' m' e' =>
    let q := min e e'
    let a := FVal.count q (.fin n m e)
    let b := FVal.count q (.fin n' m' e')
    decide (a < b) || (decide (a = b) && n && !n')
/-- Equality of two values that are not NaN, −0 equal to +0 (R224). -/
def FVal.eq (a b : FVal) : Bool := match a, b with
  | .nan _, _ => false
  | .inf _, .nan _ => false
  | .inf n, .inf n' => n == n'
  | .inf _, .fin _ _ _ => false
  | .fin _ _ _, .nan _ => false
  | .fin _ _ _, .inf _ => false
  | .fin n m e, .fin n' m' e' =>
    decide (FVal.count (min e e') (.fin n m e) = FVal.count (min e e') (.fin n' m' e'))

/-- Round a value to a format (R208, R209, R211). -/
def FFmt.ofVal (f : FFmt) (rm : Nat) : FVal → Nat × FFlags
  | .nan g => (f.nan, flagIf g flagNV)
  | .inf n => (f.inf n, 0)
  | .fin n m e => f.round rm n m e

/-- A value rounded to an integer, saturated to [lo, hi]: NaN gives 0 and NV; out of range saturates with NV alone (R208). Whether
it is out of range is decided on the rounded integer (DESIGN CHOICE, log entry 57). -/
def FVal.toInt (rm : Nat) (lo hi : Int) : FVal → Int × FFlags
  | .nan _ => (0, flagNV)
  | .inf n => (if n then lo else hi, flagNV)
  | .fin n m e =>
    let (k, nx) := roundAt rm n m e 0
    let v := if n then -(k : Int) else k
    if v < lo then (lo, flagNV) else if hi < v then (hi, flagNV) else (v, flagIf nx flagNX)

end Sys2Proof.Machine
end

