-- ==== Sys2Proof/Machine/Perform.lean ====
section
/-!
DEFINITION. What one access does at the word's bank, home or port, as one step (R97 to R102, R106, R124 to R127, R131,
R132, R173), and what its reply does at the issuing thread.
-/
namespace Sys2Proof.Machine

/-- Whether an access counts as a write at its home (R118). -/
def MemOp.isWrite : MemOp → Bool
  | .load _ _ _ => false
  | .loadCap _ _ => false
  | .store _ _ => true
  | .storeCap _ => true
  | .lde _ => true
  | .ldf _ => false
  | .stf _ => true
  | .stx _ => true
  | .fec _ => false
  | .feq _ => false
  | .atomic _ _ _ _ _ _ _ _ => true
  | .strel _ _ => true
  | .ldacq _ _ => false
  | .sigrst => true
  | .sigmrg _ => false
  | .csig _ _ => true

/-- The bytes an access covers. -/
def MemOp.size : MemOp → Nat
  | .load _ n _ => n
  | .loadCap _ _ => 16
  | .store n _ => n
  | .storeCap _ => 16
  | .lde _ => 8
  | .ldf _ => 8
  | .stf _ => 8
  | .stx _ => 8
  | .fec _ => 8
  | .feq _ => 8
  | .atomic _ n _ _ _ _ _ _ => n
  | .strel _ _ => 128
  | .ldacq _ _ => 128
  | .sigrst => 128
  | .sigmrg _ => 128
  | .csig _ _ => 8

/-- What the leaf must permit (R328): atomics, LDE, STF, STX, STREL and SIGRST need R and W. -/
def MemOp.needsR : MemOp → Bool
  | .store _ _ => false
  | .storeCap _ => false
  | .load _ _ _ => true
  | .loadCap _ _ => true
  | .lde _ => true
  | .ldf _ => true
  | .stf _ => true
  | .stx _ => true
  | .fec _ => true
  | .feq _ => true
  | .atomic _ _ _ _ _ _ _ _ => true
  | .strel _ _ => true
  | .ldacq _ _ => true
  | .sigrst => true
  | .sigmrg _ => true
  | .csig _ _ => true

/-- A natural number of `n` bytes read as signed. -/
def signedOf (n v : Nat) : Int := if 2 ^ (8 * n - 1) ≤ v then (v : Int) - 2 ^ (8 * n) else v

/-- The new value of an atomic on `n` bytes, none when nothing is written, with the flags of AFADD (Table 6-11, R132). -/
def atomicNew (op : AtomicOp) (n old v cmp : Nat) (rm : BitVec 3) : Option Nat × FFlags :=
  match op with
  | .add => (some ((old + v) % 2 ^ (8 * n)), 0)
  | .and => (some (old &&& v), 0)
  | .or => (some (old ||| v), 0)
  | .xor => (some (old ^^^ v), 0)
  | .min => (some (if signedOf n old ≤ signedOf n v then old else v), 0)
  | .max => (some (if signedOf n v ≤ signedOf n old then old else v), 0)
  | .minn => (some (if old ≤ v then old else v), 0)
  | .maxn => (some (if v ≤ old then old else v), 0)
  | .swp => (some v, 0)
  | .cas => (if old = cmp then some v else none, 0)
  | .fadd =>
    -- a sum of equal zeros keeps their sign in every rounding mode (R132)
    if old % 2 ^ 31 = 0 && old == v then (some old, 0) else (let r := fmtF32.add rm.toNat old v; (some r.1, r.2))

/-- The control word of a block (R122). -/
def blockControl (sat : Bool) (scope nsig lrel : Nat) : Nat := sat.toNat * 2 ^ 35 + scope * 2 ^ 32 + nsig * 2 ^ 16 + lrel

/-- Perform an access at byte `a` of a memory. `flat` says that the memory holds no full/empty bits and no tags (R102): the
host's, whose words read as full. -/
def performOn (m : Store) (flat : Bool) (a : Nat) (op : MemOp) (pub : Publish) : Store × Resp :=
  let poisonOf := fun (n : Nat) => m.poisoned a n
  let isFull := flat || m.isFull a
  let writeWord := fun (v : Nat) (n : Nat) => (m.writeData a n v)
  match op with
  | .load _ n _ => (m, { v := m.read a n, poison := poisonOf n })
  | .loadCap _ _ => (m, { v := m.read a 16, tag := !flat && m.tag a, poison := poisonOf 16 })
  | .store n v => let r := writeWord v n; (r.1, { partialPoison := r.2 })
  | .storeCap c =>
    let r := writeWord c.val.toNat 16
    (if flat then r.1 else r.1.setTag a c.tag, { partialPoison := r.2 })
  | .lde _ =>
    if !isFull then (m, { waits := true })
    else match poisonOf 8 with
      | some p => (m, { poison := some p })
      | none => (m.setFull a false, { v := m.read a 8 })
  | .ldf _ => if !isFull then (m, { waits := true }) else (m, { v := m.read a 8, poison := poisonOf 8 })
  | .stf v => if isFull then (m, { waits := true }) else ((writeWord v.toNat 8).1.setFull a true, {})
  | .stx v => (if flat then (writeWord v.toNat 8).1 else (writeWord v.toNat 8).1.setFull a true, {})
  | .fec _ => (m, { v := m.read a 8, tag := isFull, poison := poisonOf 8 })
  | .feq _ => (m, { v := isFull.toNat })
  | .atomic op n v cmp _ _ _ rm =>
    match poisonOf n with
    | some p => (m, { poison := some p })
    | none =>
      let old := m.read a n
      let r := atomicNew op n old v cmp rm
      ((match r.1 with | some new => (writeWord new n).1 | none => m), { v := old, fl := r.2 })
  | .csig v _ =>
    match poisonOf 8 with
    | some p => (m, { poison := some p })
    | none => ((writeWord ((m.read a 8 + v.toNat) % 2 ^ 64) 8).1, { v := m.read a 8 })
  | .strel v sc =>
    match poisonOf 128 with
    | some p => (m, { poison := some p })
    | none =>
      let ctl := m.read (a + 8) 8
      let sig := BitVec.ofNat 768 (m.read (a + 32) 96)
      let nsig := ctl / 2 ^ 16 % 2 ^ 16
      let sat := ctl / 2 ^ 35 % 2 = 1
      let sig' := if sc == Scope.thread then sig else sig ||| pub.sig
      let nsig' := if sc == Scope.thread then nsig else min (nsig + pub.cnt.toNat) 0xFFFF
      let sat' := if sc == Scope.thread then sat else sat || pub.sat || decide (384 < popcount sig')
      let m1 := (((m.write a 8 v.toNat).write (a + 8) 8 (blockControl sat' sc.code nsig' pub.core)).write (a + 16) 16 0).write (a + 32) 96 sig'.toNat
      (m1.clearTags a 128, {})
  | .ldacq _ _ | .sigmrg _ =>
    (m, { v := m.read a 8, poison := poisonOf 128, sig := BitVec.ofNat 768 (m.read (a + 32) 96),
          sat := decide (m.read (a + 8) 8 / 2 ^ 35 % 2 = 1) })
  | .sigrst =>
    let r := m.writeData (a + 8) 120 0
    (r.1.clearTags a 128, {})

/-- A sign-extended value of `n` bytes. -/
def sextBytes (n v : Nat) : Word := BitVec.ofInt 64 (signedOf n v)

/-- Whether an access goes through the L1 in the ordinary way (Table 6-2). -/
def MemOp.ordinary : MemOp → Bool
  | .load _ _ _ => true
  | .loadCap _ _ => true
  | .store _ _ => true
  | .storeCap _ => true
  | .lde _ => false
  | .ldf _ => false
  | .stf _ => false
  | .stx _ => false
  | .fec _ => false
  | .feq _ => false
  | .atomic _ _ _ _ _ _ _ _ => false
  | .strel _ _ => false
  | .ldacq _ _ => false
  | .sigrst => false
  | .sigmrg _ => false
  | .csig _ _ => false
/-- Whether an access of a thread passes the L1 by: the loads and stores of a speculative task (R96). -/
def Thread.bypasses (h : Thread) (op : MemOp) : Bool := h.spec && op.ordinary

/-- The reply of an access reaches the issuing thread: POISON, or the destination is written and the acquire that the access
carries is performed (R97, R98, R99, R101, R123, R125, R127, R131, R133). `x` is the virtual address. The thread goes on. -/
def State.deliver (s : State) (r : Req) (a : Nat) (p : Resp) : State :=
  match p.poison with
  | some w => { s with } |>.setCur { s.cur with status := .running } |>.raise ⟨.poison, r.x + w - a⟩
  | none =>
    let s := s.setCur { s.cur with status := .running }
    let s := if p.partialPoison then s.addMchk (s.domainOfCore s.turn.core) (s.mchkOf s.turn 2 (r.x / 8 * 8) 0) else s
    let s := s.setCur { s.cur with fflags := s.cur.fflags ||| p.fl }
    (match r.op with
    | .load d n sgn =>
      if n = 16 then s.writeQuad d (BitVec.ofNat 128 p.v)
      else s.writeWord d (if sgn then sextBytes n p.v else wordOf p.v)
    | .loadCap d lc =>
      let c : CReg := { val := BitVec.ofNat 128 p.v, tag := p.tag && lc }
      s.writeCap d { c with tag := c.tag && decide (c.exp ≤ 43) }
    | .store _ _ => s
    | .storeCap _ => s
    | .lde d => (s.writeWord d (wordOf p.v)).acquire .device none false
    | .ldf d => (s.writeWord d (wordOf p.v)).acquire .device none false
    | .stf _ => s
    | .stx _ => s
    | .fec d => s.writeQuad d (BitVec.ofNat 128 (p.tag.toNat * 2 ^ 64 + p.v))
    | .feq d => s.writeWord d (wordOf p.v)
    | .atomic _ _ _ _ d sc ord _ =>
      let s := s.writeWord d (wordOf p.v)
      match ord with
      | .rlx => s
      | .rel => s
      | .acq => s.acquire sc none false
      | .acqrel => s.acquire sc none false
    | .csig _ d => s.writeWord d (wordOf p.v)
    | .strel _ sc => if sc == Scope.thread then s else s.setCur s.cur.clearSig
    | .ldacq d sc => (s.writeWord d (wordOf p.v)).acquire sc (some p.sig) p.sat
    | .sigmrg d =>
      let s := s.writeWord d (wordOf p.v)
      s.setCur { s.cur with inh := s.cur.inh ||| p.sig, isat := s.cur.isat || p.sat }
    | .sigrst => s).finish

/-- Invalidate the non-dirty bytes of the lines that `n` bytes at `x` touch, in the L1 of a core (R99, R130). -/
def State.dropLines (s : State) (c x n : Nat) : State :=
  s.setCore c ((s.core c).invalidate (fun y => decide (x / 64 ≤ y) && decide (y ≤ (x + n - 1) / 64)))
/-- STF, STX and the atomics on the global path insert their line (R121, R131). -/
def State.signAccess (s : State) (r : Req) : State :=
  match r.op with
  | .stf _ => s.signStore r.x
  | .stx _ => s.signStore r.x
  | .atomic _ _ _ _ _ _ _ _ => s.signStore r.x
  | _ => s
/-- The reply of an access performed at its home, its port or another module reaches the issuing thread: the core's own copy goes, unless
the access passed the L1 by, an access that has not trapped inserts its line, and the reply is delivered (R96, R99, R121, R123, R130). -/
def State.replied (s : State) (r : Req) (a : Nat) (p : Resp) : State :=
  let s := if s.cur.bypasses r.op then s else s.dropLines s.turn.core r.x r.op.size
  (if p.poison.isSome then s else s.signAccess r).deliver r a p

end Sys2Proof.Machine
end

