-- ==== Sys2Proof/Machine/Home.lean ====
section
/-!
DEFINITION. An access at its home slice, bank or port: conflict detection and undo logging (R149 to R152), host snoop filter
(R382), full/empty waiters (R100), and page faults (R330).
-/
namespace Sys2Proof.Machine

/-- The key of a line's access record: carved lines and HBM lines apart. -/
def lineKey (l : Loc) : Nat := l.addr / 64 * 2 + (if l.space = .carved then 1 else 0)
/-- The U of the last round result of a domain (R155); none when there was no round or no unfinished task. -/
def State.frontier (s : State) (dk : Nat) : Option VT := (s.domain dk).round.bind (fun r => r.u)
/-- Whether a virtual time is that of the domain's lowest-VT task, as its clusters know it (R160). -/
def State.isLowest (s : State) (dk : Nat) (vt : VT) : Bool := s.frontier dk == some vt
/-- Request the abort of a speculative run; TASK_ABORT performs it (R153). Each run is aborted at most once; a cancellation or
a discard outweighs a re-run (Table 7-8). -/
def State.requestAbort (s : State) (id : RunId) (m : AbortMode) : State :=
  match s.taskOf id with
  | none => s
  | some e =>
    let c := s.cluster id.cluster
    if c.aborts.any (fun a => a.1 == id.entry) then
      if m = .requeue then s
      else s.setCluster id.cluster { c with aborts := c.aborts.map (fun a => if a.1 = id.entry && a.2 == .requeue then (a.1, m) else a) }
    else if !e.spec then s
    else s.setCluster id.cluster { c with aborts := c.aborts ++ [(id.entry, m)] }

/-- A task record sets out for a cluster (R140). -/
def State.fly (s : State) (cl : Nat) (f : FlyRec) : State :=
  let s := s.ungate cl
  s.setCluster cl { s.cluster cl with flying := (s.cluster cl).flying ++ [f] }

/-- What conflict detection decides about an access (Table 7-6, R151). -/
inductive Conflict where
  | go
  | abort (ids : List RunId)
  | selfAbort
  | hold
  | probe
  deriving DecidableEq, Repr

/-- Records of a domain held by parked TENQWs (R145). -/
def State.heldRecords (s : State) (dk : Nat) : List FlyRec :=
  s.threads.filterMap (fun e => if e.2.domain = some dk then match e.2.wait with
    | some (.tenqHeld f) => some f
    | _ => none else none)
/-- A timestamp raised to that of the last frontier (R140). -/
def Domain.raiseTs (d : Domain) (ts : Word) : Word :=
  match d.round.bind (fun r => r.u) with
  | some u => if ts.toNat < u.ts.toNat then u.ts else ts
  | none => ts
/-- The virtual times of the unfinished tasks of a domain (R155). -/
def State.unfinished (s : State) (dk : Nat) : List VT :=
  let d := s.domain dk
  d.clusters.flatMap (fun k =>
    let c := s.cluster k
    (c.queue.filter (fun e => e.2.st != .finished && !e.2.detached)).map (fun e => e.2.vt)
      ++ c.blocks.flatMap (fun b => b.recs.map (fun r => r.2.1)) ++ c.flying.map (fun f => f.vt))
    ++ (s.heldRecords dk).map (fun f => f.vt) ++ d.ingress.map (fun r => ⟨d.raiseTs (wordOf (r.bytes.toNat % 2 ^ 64)), 0⟩)
/-- Whether a task of a virtual time has no unfinished task of its domain before it: the homes compare virtual times directly, and need no
round result for it (R160). -/
def State.comesFirst (s : State) (dk : Nat) (vt : VT) : Bool := (s.unfinished dk).all (fun v => !v.lt vt)
/-- Whether every task up to a virtual time has committed (R151). -/
def State.committedUpTo (s : State) (dk : Nat) (vt : VT) : Bool :=
  (s.unfinished dk).all vt.lt && (s.domain dk).clusters.all (fun k => (s.cluster k).queue.all (fun e => e.2.detached || vt.lt e.2.vt))

/-- Conflict detection for an access of thread `h` to a line's record (Table 7-6, R150, R151). A thread that is not
speculative comes before every uncommitted speculative task (R118). The lowest-VT task is never aborted: its write waits for the earlier
tasks that the record names, which have finished, and for the escalated readers up to ovfmin (R151, R160). -/
def conflict (s : State) (dk : Nat) (h : Thread) (lrec : LineRec) (w : Bool) : Conflict :=
  let mine := fun (a : Access) => h.task == some a.id
  let other := fun (a : Access) => !mine a && (s.taskOf a.id).any (fun e => h.spec || e.spec)
  let later := fun (a : Access) => !h.spec || h.vt.lt a.vt
  let wr := lrec.writer.toList.filter other
  let rd := if w then lrec.readers.filter other else []
  let all := wr ++ rd
  let lateOnes := all.filter later
  let early := all.filter (fun a => !later a)
  if w && !early.isEmpty then (if s.comesFirst dk h.vt then .hold else .selfAbort)
  else if !lateOnes.isEmpty then .abort (lateOnes.map (fun a => a.id))
  else if w then
    match lrec.ovf with
    | none => .go
    | some (lo, hi) =>
      if h.spec && lo.lt h.vt && !s.comesFirst dk h.vt then .selfAbort
      else if h.spec && lo.lt h.vt && !s.committedUpTo dk lo then .hold
      else if !h.spec || h.vt.lt hi then
        match lrec.probe with
        | some (id, vt, []) => if id = h.task.getD ⟨0, 0, 0⟩ && vt == h.vt then .go else .probe
        | _ => .probe
      else .go
  else .go

/-- Whether a place in a line's queue still stands for an access: of a thread that waits, a posted write, a fill or write-back not yet
performed, or an engine with requests in flight. -/
def State.standing (s : State) (o : HeldBy) : Bool :=
  match o with
  | .thread t => match (s.thread t).wait with
    | some (.home _) => true
    | some (.blockLine _) => true
    | some (.fetch _) => true
    | _ => false
  | .posted _ _ _ _ _ => true
  | .fill c y => NatSet.has (s.core c).fills y
  | .writeBack c y => (s.core c).wbq.any (fun w => w.line == y) || (Map.find (s.core c).l1 y).any (fun l => l.dirty != 0)
      || (s.cluster (clusterOf c)).retryWbs.any (fun p => p.1 == c && p.2.line == y)
  | .engine c => !(s.core c).inflight.isEmpty
  | .reload c => (s.core c).parity.isSome
/-- Whether nobody waits for a line at its home before `o` (R150), whose own place counts while it is being served. -/
def State.firstAt (s : State) (l : Loc) (o : HeldBy) : Bool :=
  match (s.cluster l.home).lineQueue.find? (fun w => w.key == lineKey l && (w.by_ == o || s.standing w.by_)) with
  | none => true
  | some w => w.by_ == o
/-- An access takes its place in a line's queue, once (R150). -/
def State.queueAt (s : State) (l : Loc) (o : HeldBy) : State :=
  let c := s.cluster l.home
  if c.lineQueue.any (fun w => w.key == lineKey l && w.by_ == o) then s
  else s.setCluster l.home { c with lineQueue := c.lineQueue.filter (fun w => s.standing w.by_) ++ [{ key := lineKey l, by_ := o }] }
/-- An access leaves a line's queue: it has been performed. -/
def State.unqueue (s : State) (l : Loc) (o : HeldBy) : State :=
  let c := s.cluster l.home
  if c.lineQueue.any (fun w => w.key == lineKey l && w.by_ == o) then
    s.setCluster l.home { c with lineQueue := c.lineQueue.filter (fun w => !(w.key == lineKey l && w.by_ == o)) }
  else s
/-- Whether a posted write of a thread has yet to be performed at its home (R152). -/
def State.hasPosted (s : State) (t : Tid) : Bool :=
  s.clusters.any (fun e => e.2.lineQueue.any (fun w => match w.by_ with
    | .posted u _ _ _ _ => u == t
    | .thread _ => false
    | .fill _ _ => false
    | .writeBack _ _ => false
    | .engine _ => false
    | .reload _ => false))

/-- The number of a thread's next posted write, so that two equal ones keep their order (R24, R152). -/
def State.nextPosted (s : State) (t : Tid) : Nat :=
  s.clusters.foldl (fun n e => e.2.lineQueue.foldl (fun n w => match w.by_ with
    | .posted u k _ _ _ => if u = t && decide (n ≤ k) then k + 1 else n
    | .thread _ => n
    | .fill _ _ => n
    | .writeBack _ _ => n
    | .engine _ => n
    | .reload _ => n) n) 0
/-- A line's record once the write that a probe was out for is performed. -/
def State.clearProbe (s : State) (l : Loc) : State :=
  let c := s.cluster l.home
  match Map.find c.lines (lineKey l) with
  | none => s
  | some r => if r.probe.isNone then s else s.setCluster l.home { c with lines := Map.set c.lines (lineKey l) { r with probe := none } }

/-- The address of the undo log of a commit entry (R146). -/
def State.undoVa (s : State) (dk cl e : Nat) : Nat :=
  let d := s.domain dk
  d.desc 80 8 + (d.indexOf cl * 512 + e) * 8192
/-- Write the record count of an undo log, with the reserved bytes after it zero (R5, R146). -/
def State.setUndoCount (s : State) (dk va n : Nat) : State := s.devWrite dk va 32 n
/-- Whether the line of a device page can be written for the undo log (R146). -/
def State.logLine (s : State) (dk x : Nat) : Bool :=
  match locate s (s.domain dk |>.clusterAt 0) dk x { w := true } true with
  | .at _ e => decide (pteType e.pte = 0)
  | _ => false
/-- The first line of record `i` of an undo log, or of its count, that cannot be written (R146). -/
def State.badLogLine (s : State) (dk va i : Nat) : Option Nat :=
  (va / 64 * 64 :: (rangeFrom ((va + 32 + 80 * i) / 64) ((va + 32 + 80 * i + 79) / 64 + 1)).map (fun y => 64 * y)).find? (fun x => !s.logLine dk x)

/-- What a home did with an access: performed it, keeps it in the line's queue, has no room to record it, takes it for irrevocable, or has
asked for the abort of its own task. -/
inductive HomeOut where
  | done (s : State) (p : Resp)
  | hold (s : State)
  | full (s : State)
  | irrevocable (s : State)
  | gone (s : State)

/-- A speculative access of a run in the record of its line (R149, R151): a write takes the writer entry and is recorded as a reader too; a
reader without room sets OVF. -/
def LineRec.note (lrec : LineRec) (me : Access) (x : Nat) (w : Bool) : LineRec :=
  let lrec := { lrec with va := x / 64 * 64, writer := if w then some me else lrec.writer }
  if lrec.readers.any (fun a => a.id == me.id) then lrec
  else if lrec.readers.length < 2 then { lrec with readers := lrec.readers ++ [me] }
  else { lrec with ovf := match lrec.ovf with
    | none => some (me.vt, me.vt)
    | some (lo, hi) => some (if me.vt.lt lo then me.vt else lo, if hi.lt me.vt then me.vt else hi) }
/-- Append the undo record of a line to a log (R146, R149). -/
def State.appendUndo (s : State) (dk va n : Nat) (l : Loc) (x : Nat) : State :=
  let m := s.store l.space
  let a := l.addr / 64 * 64
  let tags := (List.range 4).foldl (fun acc i => acc + (m.tag (a + 16 * i)).toNat * 2 ^ i) 0
  let s := s.devFields dk (va + 32 + 80 * n)
    ([(0, 8, x / 64 * 64), (8, 8, tags)] ++ (List.range 8).map (fun i => (16 + 8 * i, 8, m.read (a + 8 * i) 8)))
  s.setUndoCount dk va (n + 1)
/-- Record a speculative access (R149, R151); a first write appends an undo record. An error asks for the irrevocable path: the log is full,
or the line that it names cannot be written (R146, R152). -/
def State.record (s : State) (dk : Nat) (t : Tid) (l : Loc) (x : Nat) (w : Bool) : Except (Option Nat) State :=
  let h := s.thread t
  match h.task with
  | none => .ok s
  | some id =>
    let cl := s.cluster l.home
    let lrec := Map.get {} cl.lines (lineKey l)
    match (Map.find (s.cluster id.cluster).queue id.entry).bind (fun e => e.commit) with
    | none => .ok s
    | some ce =>
      let com := Map.get { entry := id.entry } (s.cluster id.cluster).commits ce
      let com := if w then com else { com with readSig := (readBits (x / 64)).foldl (fun a j => a ||| ((1 : BitVec 1024) <<< j)) com.readSig }
      let first := w && !(lrec.writer.map (fun a => a.id) == some id)
      let va := s.undoVa dk id.cluster ce
      if first && decide (102 ≤ com.undo) then .error none
      else match (if first then s.badLogLine dk va com.undo else none) with
        | some bad => .error (some bad)
        | none =>
          let s := if first then s.appendUndo dk va com.undo l x else s
          let com := if first then { com with undo := com.undo + 1 } else com
          let own := s.cluster id.cluster
          let s := s.setCluster id.cluster { own with commits := Map.set own.commits ce com }
          let cl := s.cluster l.home
          .ok (s.setCluster l.home { cl with lines := Map.set cl.lines (lineKey l) (lrec.note { vt := h.vt, id := id } x w) })

/-- Whether a home may serve a device access of a line that the host may hold: a write needs every filtered line back, a
read one held exclusively (R382). When it may not, BISnpInv is sent. -/
def State.snoopClear (s : State) (l : Loc) (w : Bool) : Bool × State :=
  if l.space = .hbm then
    match Map.find (s.cluster l.home).snoop (l.addr / 64) with
    | none => (true, s)
    | some m => if w || m = .e then (false, s.askBack l.home (l.addr / 64)) else (true, s)
  else (true, s)
/-- The same for each of the lines that an access touches. -/
def State.snoopLines (s : State) (ls : List (Loc × Nat)) (w : Bool) : Bool × State :=
  ls.foldl (fun (acc : Bool × State) p => let r := acc.2.snoopClear p.1 w; (acc.1 && r.1, r.2)) (true, s)

/-- What thread `t` publishes with a release (R124). -/
def State.publish (s : State) (t : Tid) : Publish :=
  let h := s.thread t
  { sig := h.own ||| h.inh, cnt := h.cnt, sat := h.isat, core := t.core }

/-- Whether two full/empty requests wait on the same word. -/
def sameWord (a b : Loc) : Bool := a.space == b.space && a.addr / 8 == b.addr / 8

/-- Serve the waiters of a word, first come first, until none can proceed (R100). -/
def State.serve (s : State) (l : Loc) : Nat → State
  | 0 => s
  | n + 1 =>
    let c := s.cluster l.home
    let can := fun (w : Waiter) => sameWord w.loc l && !(performOn (s.store l.space) false w.loc.addr w.r.op {}).2.waits
    match c.waiters.find? can with
    | none => s
    | some w =>
      let s := s.setCluster l.home { c with waiters := c.waiters.erase w }
      let p := performOn (s.store l.space) false w.loc.addr w.r.op (s.publish w.t)
      let s := s.setStore l.space p.1
      State.serve (s.as w.t (fun s => if l.space = .scratch then s.deliver w.r w.loc.addr p.2 else s.replied w.r w.loc.addr p.2)) l n

/-- Serve every waiter that a change of a word's state lets proceed. -/
def State.serveAll (s : State) (l : Loc) : State := s.serve l ((s.cluster l.home).waiters.length)

/-- Perform an access at its place without conflict detection: the memory changes in one step, and the waiters of the word
are served when its full/empty state changed. A write first captures the page (R359). -/
def State.performPlain (s : State) (t : Tid) (op : MemOp) (l : Loc) (e : Option TlbEntry) : State × Resp :=
  let s := match e with
    | some e => if op.isWrite then s.beforeWrite e else s
    | none => s
  let m := s.store l.space
  let p := performOn m l.isFlat l.addr op (s.publish t)
  let s := s.setStore l.space p.1
  (if m.isFull l.addr != p.1.isFull l.addr then s.serveAll l else s, p.2)

/-- The lines an access touches at its home, with their virtual addresses: a block has two (R123). -/
def linesOf (r : Req) (l : Loc) : List (Loc × Nat) :=
  if 64 < r.op.size then [(l, r.x), ({ l with addr := l.addr + 64 }, r.x + 64)] else [(l, r.x)]
/-- Whether a slice has no room for another line record: 32,768, of which 64 are for the lowest-VT task (R149, R160). -/
def State.recordsFull (s : State) (dk : Nat) (vt : VT) (l : Loc) : Bool :=
  decide (32768 - (if s.isLowest dk vt then 0 else 64) ≤ (s.cluster l.home).lines.length)
    && (Map.find (s.cluster l.home).lines (lineKey l)).isNone
/-- Send the probe for a line with OVF, once (R151). -/
def State.sendProbe (s : State) (dk : Nat) (h : Thread) (p : Loc × Nat) : State :=
  let c := s.cluster p.1.home
  let me : RunId := h.task.getD ⟨0, 0, 0⟩
  let lrec := Map.get {} c.lines (lineKey p.1)
  if lrec.probe.any (fun q => q.1 == me) then s
  else
    let lrec := { lrec with probe := some (me, h.vt, (s.domain dk).clusters), va := p.2 / 64 * 64 }
    s.setCluster p.1.home { c with lines := Map.set c.lines (lineKey p.1) lrec }
/-- Conflict detection of an access at the lines it touches: none when it may go on; else what becomes of it (R150, R151). An access that
must wait takes its place in the queue of every line. -/
def State.clearLines (s : State) (dk : Nat) (h : Thread) (o : HeldBy) (ls : List (Loc × Nat)) (w : Bool) : Option HomeOut :=
  let wait := fun (s : State) => some (HomeOut.hold (ls.foldl (fun acc p => acc.queueAt p.1 o) s))
  if ls.any (fun p => !s.firstAt p.1 o) then wait s
  else
    let check := fun (p : Loc × Nat) => conflict s dk h (Map.get {} (s.cluster p.1.home).lines (lineKey p.1)) w
    match ls.find? (fun p => check p != .go) with
    | none => none
    | some p => match check p with
      | .go => none
      | .hold => wait s
      | .selfAbort => match h.task with
        | some id => some (.gone (s.requestAbort id .requeue))
        | none => wait s
      | .abort ids => wait (ids.foldl (fun acc id => acc.requestAbort id .requeue) s)
      | .probe => wait (s.sendProbe dk h p)
/-- An access that goes on leaves the queues of its lines, and a write uses up the probe it waited for. -/
def State.leaveLines (s : State) (o : HeldBy) (ls : List (Loc × Nat)) (w : Bool) : State :=
  ls.foldl (fun (acc : State) p => (if w then acc.clearProbe p.1 else acc).unqueue p.1 o) s
/-- An access of thread `t` at its home: conflict detection for every access (R118, R150, R151), recording and undo logging
for a speculative one, then the access itself. `o` is its place in the queues of its lines. -/
def State.atHome (s : State) (t : Tid) (o : HeldBy) (r : Req) (l : Loc) (e : TlbEntry) : HomeOut :=
  let s := s.ungate l.home
  let h := s.thread t
  let w := r.op.isWrite
  let dk := e.dom
  let ls := linesOf r l
  let wait := fun (s : State) => HomeOut.hold (ls.foldl (fun acc p => acc.queueAt p.1 o) s)
  if !s.withHome (clusterOf t.core) l.home then wait s
  else match s.snoopLines ls w with
  | (false, s) => wait s
  | (true, s) => match s.clearLines dk h o ls w with
    | some out => out
    | none =>
      if h.spec && ls.any (fun p => s.recordsFull dk h.vt p.1) then .full s
      else
        match (if h.spec then ls.foldl (fun (acc : Except (Option Nat) State) p => acc.bind (fun s => s.record dk t p.1 p.2 w)) (.ok s) else .ok s) with
        | .error bad => .irrevocable (match bad with
          | some x => s.addMchk (some dk) (s.mchkOf t 13 x 0)
          | none => s)
        | .ok s' =>
          let p := (s'.leaveLines o ls w).performPlain t r.op l (some e)
          if p.1.needs = s'.needs then .done p.1 p.2 else wait (s.askNeeds p.1.needs)

/-- Whether a home lets an access of a thread that is not speculative, or of a unit, go on; aborts it needs are requested, and it takes its place
in the line's queue meanwhile (R118, R150, R382). -/
def State.homeClear (s : State) (dk : Nat) (o : HeldBy) (l : Loc) (x : Nat) (w : Bool) : Bool × State :=
  match (s.ungate l.home).snoopClear l w with
  | (false, s) => (false, s)
  | (true, s) => match s.clearLines dk {} o [(l, x)] w with
    | some (.hold s) => (false, s)
    | some (.gone s) => (false, s)
    | some _ => (false, s)
    | none => (true, s.leaveLines o [(l, x)] w)

/-- The token of a fault entry (Table 15-5). -/
def faultToken (cl entry : Nat) : Nat := entry * 1024 + cl

/-- Write the request record of a fault entry to its domain's ring, unless that is full or its lines are the host's, when a later round does it
(R330, R382). -/
def State.postFault (s : State) (cl k : Nat) : State :=
  let c := s.cluster cl
  match Map.find c.faults k with
  | none => s
  | some f =>
    let base := (s.domain f.dom).ctxa.toNat
    let prod := (s.domRead f.dom base 8).getD 0
    let cons := (s.domRead f.dom (base + 8) 8).getD 0
    if f.posted || decide ((prod + 2 ^ 64 - cons) % 2 ^ 64 = 256) then s
    else
      let s' := s.devFields f.dom (base + 0x1000 + 32 * (prod % 256))
        [(0, 8, f.va), (8, 2, f.core), (10, 1, f.slot), (11, 1, f.kind), (12, 1, f.reason), (13, 3, 0), (16, 8, faultToken cl k), (24, 8, 0)]
      let s' := (s'.devWrite f.dom base 8 (prod + 1)).devNeeds f.dom (base + 8) 8 false
      let c := s'.cluster cl
      s.settled (s'.setCluster cl { c with faults := Map.set c.faults k { f with posted := true } })

/-- Whether a fault entry is that of the page which holds an address of a domain (R330). -/
def FaultEntry.covers (f : FaultEntry) (dk x : Nat) : Bool := f.dom == dk && decide (f.page ≤ x) && decide (x < f.page + f.size)
/-- The fault entry of a port for the page of an address. -/
def State.faultOf (s : State) (cl dk x : Nat) : Option (Nat × FaultEntry) := (s.cluster cl).faults.find? (fun e => e.2.covers dk x)
/-- A new fault entry of a port, which owes a request record, or a PRI page request for a host page (R330, R378). -/
def State.openFault (s : State) (cl k : Nat) (f : FaultEntry) : State :=
  let c := s.cluster cl
  let s := s.setCluster cl { c with faults := Map.set c.faults k { f with posted := f.ats } }
  let bit := fun i => decide (f.kind / 2 ^ i % 2 = 1)
  if f.ats then
    { s with hostOut := s.hostOut ++ [.pageRequest (s.domain f.dom).pasid (f.va / 4096 * 4096) (faultToken cl k) (bit 0) (bit 1) (bit 2)] }
  else s.postFault cl k
/-- A page fault of a core's engine (R287, R330): it takes a fault entry for the page, once. -/
def State.engineFault (s : State) (c dk x page size acc reason : Nat) (ats : Bool) : State :=
  let cl := clusterOf c
  if (s.faultOf cl dk x).isSome then s
  else match Map.firstFree (s.cluster cl).faults 64 with
    | none => s
    | some i => s.openFault cl i { page := page, size := size, dom := dk, core := c, slot := 0xFF, kind := acc, reason := reason, ats := ats, va := x / 64 * 64 }
/-- A page fault of thread `t` at virtual address `x` (R330): the access attaches to the page's fault entry, or takes a free
one; without a free entry the port tries again every 256 cycles. `acc` holds the access bits of Table 15-5. -/
def State.pageFault (s : State) (t : Tid) (dk x page size acc reason : Nat) (ats : Bool) : State :=
  let cl := clusterOf t.core
  let c := s.cluster cl
  let h := s.thread t
  match s.faultOf cl dk x with
  | some (k, f) =>
    (s.setCluster cl { c with faults := Map.set c.faults k { f with waiters := f.waiters ++ [t] } }).setThread t
      { h with status := .parked (.fault cl k) }
  | none =>
    match Map.firstFree c.faults 64 with
    | none => s.setThread t { h with status := .parked (.faultFull x) }
    | some k =>
      (s.setThread t { h with status := .parked (.fault cl k) }).openFault cl k
        { page := page, size := size, dom := dk, waiters := [t], core := t.core, slot := t.slot, kind := acc, reason := reason, ats := ats
          va := x / 64 * 64 }

/-- Whether an address lies in the range of an invalidation (R379). -/
def Invalidation.covers (v : Invalidation) (x : Nat) : Bool := decide (v.va ≤ x) && decide (x < v.va + v.size)
/-- Whether a host physical address lies in an entry that a port has dropped. -/
def Invalidation.holds (v : Invalidation) (cl hpa : Nat) : Bool :=
  v.dropped.any (fun e => e.1 == cl && decide (e.2.hpa ≤ hpa) && decide (hpa < e.2.hpa + e.2.size))
/-- The clusters of the domains with a PASID. -/
def State.pasidClusters (s : State) (pasid : Nat) : List Nat := (s.domains.filter (fun e => e.2.pasid == pasid)).flatMap (fun e => e.2.clusters)
/-- The virtual address of an access that a thread waits for and that has been translated. -/
def Wait.translatedVa : Wait → Option Nat
  | .fetch line => some (64 * line)
  | .host r => some r.x
  | .fabric r _ _ => some r.x
  | .blockLine x => some x
  | .blockPeer x _ _ => some x
  | _ => none
/-- The accesses in flight that an invalidation of a range finds translated (R379): the fills and the instructions of threads, with the INSTRET
before them, and the engines' reads at other modules. -/
def State.inFlight (s : State) (v : Invalidation) : Invalidation :=
  let cls := s.pasidClusters v.pasid
  let cores := s.cores.filter (fun e => cls.contains (clusterOf e.1))
  { v with
    fills := cores.flatMap (fun e => (e.2.fills.filter (fun y => v.covers (64 * y))).map (fun y => (e.1, y)))
    threads := s.threads.filterMap (fun e => if cls.contains (clusterOf (tidOf e.1).core) && (e.2.wait.bind Wait.translatedVa).any v.covers then
      some (tidOf e.1, (e.2.instret - (match e.2.wait with
        | some (.fetch _) => 0
        | _ => 1)).toNat) else none)
    engines := cores.flatMap (fun e => e.2.inflight.filterMap (fun q => if q.2.asked.any v.covers then some (e.1, q.1) else none)) }
/-- Those of an invalidation's accesses that have yet to complete. -/
def State.stillInFlight (s : State) (v : Invalidation) : Invalidation :=
  { v with
    fills := v.fills.filter (fun p => NatSet.has (s.core p.1).fills p.2)
    threads := v.threads.filter (fun p =>
      let h := s.thread p.1
      (h.status == .running || (h.wait.bind Wait.translatedVa).isSome) && (h.instret.toNat == p.2 || (h.instret - 1).toNat == p.2))
    engines := v.engines.filter (fun p => (Map.find (s.core p.1).inflight p.2).any (fun q => q.asked.any v.covers)) }
/-- Whether an access translated by dropped entries has yet to complete, by the host or by another module (R379). -/
def State.stillUsed (s : State) (v : Invalidation) : Bool :=
  (s.pasidClusters v.pasid).any (fun k => (s.cluster k).hostReqs.any (fun q => v.holds k q.hpa) || (s.cluster k).peerReqs.any (fun q => v.covers q.va))
    || !(s.stillInFlight v).fills.isEmpty || !(s.stillInFlight v).threads.isEmpty || !(s.stillInFlight v).engines.isEmpty
/-- The Invalidation Completions that are due are sent (R379). -/
def State.settleAts (s : State) : State :=
  let due := s.invalidations.filter (fun v => !s.stillUsed v)
  { s with
    invalidations := (s.invalidations.filter (fun v => s.stillUsed v)).map s.stillInFlight
    hostOut := s.hostOut ++ due.map (fun (v : Invalidation) => HostMsg.invalidationCompletion v.pasid v.va v.size) }

/-- The uncommitted speculative writer of a line and its undo record (R119): the line's last committed value. -/
def State.committed (s : State) (home a : Nat) : Option Nat :=
  match (Map.find (s.cluster home).lines (lineKey { space := .hbm, addr := a, home := home })).bind (fun r => r.writer.map (fun w => (w.id, r.va))) with
  | none => none
  | some (id, va) => match (s.taskOf id).bind (fun e => if e.spec then e.commit else none), s.domainOf id.cluster with
    | some ce, some dk =>
      let base := s.undoVa dk id.cluster ce
      ((List.range ((s.domRead dk base 2).getD 0)).find? (fun i => s.domRead dk (base + 32 + 80 * i) 8 == some va)).map (fun i =>
        (List.range 8).foldl (fun (n : Nat) j => n + (s.domRead dk (base + 48 + 80 * i + 8 * j) 8).getD 0 * 2 ^ (64 * j)) 0)
    | _, _ => none
/-- Whether a run's read signature hits a line number (R149). -/
def CommitEntry.reads (e : CommitEntry) (y : Nat) : Bool := (readBits y).all e.readSig.getLsbD
/-- The speculative tasks that a write from outside aborts (R119): those that the line's record names, and with OVF those whose read
signature hits it. -/
def State.outsideVictims (s : State) (home a : Nat) : List RunId :=
  match Map.find (s.cluster home).lines (lineKey { space := .hbm, addr := a, home := home }) with
  | none => []
  | some r =>
    let named := (r.readers ++ r.writer.toList).map (fun x => x.id)
    let far := match r.ovf, s.domainOf home with
      | some _, some dk => (s.domain dk).clusters.flatMap (fun k => (s.cluster k).queue.filterMap (fun e =>
          if e.2.spec && (e.2.commit.bind (Map.find (s.cluster k).commits)).any (fun c => c.reads (r.va / 64)) then
            some (⟨k, e.1, e.2.run.toNat⟩ : RunId) else none))
      | _, _ => []
    (named ++ far).filter (fun id => (s.taskOf id).any (fun e => e.spec))
/-- The memory that a read from outside finds at its home: lines that an uncommitted speculative task has written as they were before (R119). -/
def State.outsideView (s : State) (home a n : Nat) : Store :=
  (linesIn a n).foldl (fun (m : Store) y => match s.committed home (64 * y) with
    | some v => m.write (64 * y) 64 v
    | none => m) s.hbm
/-- Whether an access from a port through its own module's aperture, which is a CXL.mem access (R383), may be performed at a line: the host
gives it back, and a write waits for the aborts of the tasks that it conflicts with (R119, R382). -/
def State.flatClear (s : State) (l : Loc) (w : Bool) : Bool × State :=
  match (s.ungate l.home).snoopClear l w with
  | (false, s) => (false, s)
  | (true, s) =>
    let ids := if w then s.outsideVictims l.home (l.addr / 64 * 64) else []
    (ids.isEmpty, ids.foldl (fun (acc : State) id => acc.requestAbort id .requeue) s)

/-- Access bits of Table 15-5: what the access needs by R328. -/
def accBits (op : MemOp) : Nat := op.needsR.toNat + 2 * op.isWrite.toNat

end Sys2Proof.Machine
end

