-- ==== Sys2Proof/Machine/Cache.lean ====
section
/-!
DEFINITION. The L1 data cache, its write-back queue and fills (R92 to R96), and the way of every access: scratch path,
L1, home, host port (R84 to R91, R99, R130, R380).
-/
namespace Sys2Proof.Machine

/-- Bytes of an L1 line. -/
def L1Line.read (l : L1Line) (o n : Nat) : Nat := l.data.toNat / 2 ^ (8 * o) % 2 ^ (8 * n)
/-- A line's data with the bytes of `mask` taken from `v`. -/
def mergeBytes (old v : BitVec 512) (mask : BitVec 64) : BitVec 512 :=
  (List.range 64).foldl (fun a i =>
    if mask.getLsbD i then (a &&& ~~~((0xFF : BitVec 512) <<< (8 * i))) ||| (((v >>> (8 * i)) &&& 0xFF) <<< (8 * i)) else a) old
/-- A line with `n` bytes stored at offset `o` by a slot (R93, R94): valid, dirty and writer bits set, the granules' tags
cleared, a whole word's poison mark cleared. -/
def L1Line.store (l : L1Line) (o n v slot : Nat) (tag : Option Bool) : L1Line :=
  let mask := byteMask o n
  let g := (1 : BitVec 4) <<< (o / 16)
  { l with
    data := mergeBytes l.data (BitVec.ofNat 512 (v * 2 ^ (8 * o))) mask
    valid := l.valid ||| mask
    dirty := l.dirty ||| mask
    writers := l.writers ||| ((1 : BitVec 16) <<< slot)
    tags := match tag with
      | some true => l.tags ||| g
      | _ => l.tags &&& ~~~g
    poison := if n < 8 then l.poison else l.poison &&& ~~~(BitVec.ofNat 8 ((2 ^ (n / 8) - 1) * 2 ^ (o / 8)))
    bad := if n < 8 then l.bad else l.bad &&& ~~~(BitVec.ofNat 8 ((2 ^ (n / 8) - 1) * 2 ^ (o / 8))) }
/-- A word that a line writes poisoned (R289): marked in the line, and so written at the home. -/
def L1Line.spoil (l : L1Line) (w : Nat) : L1Line :=
  { l with poison := l.poison ||| ((1 : BitVec 8) <<< w), bad := l.bad ||| ((1 : BitVec 8) <<< w) }
/-- Whether an L1 line holds every byte of a read (R93). -/
def L1Line.hits (l : L1Line) (o n : Nat) : Bool := byteMask o n &&& l.valid == byteMask o n
/-- The lowest word of a read that an L1 line marks poisoned, as an offset. -/
def L1Line.poisoned (l : L1Line) (o n : Nat) : Option Nat :=
  ((List.range 8).find? (fun w => l.poison.getLsbD w && decide (8 * w < o + n) && decide (o < 8 * w + 8))).map (fun w => 8 * w)

/-- The dirty bytes of a line as a number and a mask, word by word. -/
def wordMask (m : BitVec 64) (w : Nat) : Nat := m.toNat / 2 ^ (8 * w) % 256
/-- The home merges a write-back's dirty bytes (R95, R106): a part of a poisoned word is not written; a whole word clears its
poison, and a word that failed in the L1 is written poisoned (Table 15-7). The granules written take the line's tags, and none on a host page or
at a fabric address, where a write-back carries no tag and a store clears that of the home (R94, R102). -/
def mergeLine (m : Store) (flat : Bool) (a : Nat) (l : L1Line) : Store :=
  (List.range 8).foldl (fun (m : Store) w =>
    let k := wordMask l.dirty w
    if k = 0 || (NatSet.has m.poison ((a + 8 * w) / 8) && k != 255) then m
    else
      let m := m.writeMasked (a + 8 * w) 8 (l.read (8 * w) 8) k
      let m := m.setPoison (a + 8 * w) (l.bad.getLsbD w)
      m.setTag (a + 8 * w) (!flat && l.tags.getLsbD (w / 2))) m
/-- The poisoned words that a write-back covers in part (R106), as addresses in the line at virtual address `x`. -/
def partialLine (m : Store) (a x : Nat) (l : L1Line) : List Nat :=
  ((List.range 8).filter (fun w => wordMask l.dirty w != 0 && wordMask l.dirty w != 255 && NatSet.has m.poison ((a + 8 * w) / 8))).map
    (fun w => x + 8 * w)

/-- How a write-back ended: performed, kept at the head of its queue, or taken by the port. -/
inductive WbOut where
  | done (s : State)
  | stays (s : State)

/-- A write-back whose page faults is held in the page's fault entry, at most 64 at a port together with those that wait there after a
wake (R332); else it stays where it is. -/
def State.holdWriteBack (s : State) (c dk x page size reason : Nat) (ats : Bool) (w : WriteBack) : WbOut :=
  let cl := clusterOf c
  let k := s.cluster cl
  if 64 ≤ (k.faults.map (fun e => e.2.held.length)).foldl (· + ·) 0 + k.retryWbs.length then .stays s
  else match s.faultOf cl dk x with
    | some (i, f) => .done (s.setCluster cl { k with faults := Map.set k.faults i { f with held := f.held ++ [(c, w)] } })
    | none => match Map.firstFree k.faults 64 with
      | none => .stays s
      | some i =>
        .done (s.openFault cl i
          { page := page, size := size, dom := dk, held := [(c, w)], core := c, slot := 0xFF, kind := 2, reason := reason, ats := ats, va := x })

/-- Whether a fault entry of the port holds an older write-back of a line of a core (R332), which later ones join. -/
def State.heldAtPort (s : State) (c line : Nat) : Bool :=
  (s.cluster (clusterOf c)).faults.any (fun e => e.2.held.any (fun p => p.1 == c && p.2.line == line))
/-- A write-back of core `c` reaches its port and its home (R95, R112, R332): a page fault holds it in a fault entry, a page
without W, or another module that refuses it, discards it with an MCHK of kind 11, a host page and another module's memory take it on the way
and acknowledge it later (R119, R383), otherwise the home merges it. -/
def State.writeBackOne (s : State) (c : Nat) (w : WriteBack) : WbOut :=
  let cl := clusterOf c
  match s.domainOfCore c with
  | none => .done s
  | some dk =>
    let x := w.line * 64
    if s.heldAtPort c w.line then s.holdWriteBack c dk x x 0 0 false w
    else match locate s cl dk x { w := true } true with
    | .pageFault reason page size =>
      if reason = 2 then .done (s.addMchk (some dk) { kind := 11, addr := x, core := c, cycle := (s.core c).cycle })
      else s.holdWriteBack c dk x page size reason false w
    | .hostFault reason page size => s.holdWriteBack c dk x page size reason (!(s.cluster cl).priStopped) w
    | .atsMiss => .stays (s.askTranslation cl dk x)
    | .noD => .done s
    | .peer dev addr =>
      if decide (hbmTop ≤ addr) || (s.routeTo dev).isNone then
        .done (s.addMchk (some dk) { kind := 11, addr := x, core := c, cycle := (s.core c).cycle })
      else
        let k := s.cluster cl
        let s := s.setCluster cl { k with peerReqs := k.peerReqs ++ [.write c w dev] }
        .done { s with hostOut := s.hostOut ++ [.peerWrite dev (addr / 64 * 64) w.l.data w.l.dirty w.l.bad (if w.l.pre then .pre else .writeBack)] }
    | .at l e =>
      if l.space = .host then
        let k := s.cluster cl
        let s := s.setCluster cl { k with hostReqs := k.hostReqs ++ [.write c w l.addr] }
        .done { s with hostOut := s.hostOut ++ [if !k.atsOn then .untranslated (s.domain dk).pasid x true
          else if w.l.dirty = BitVec.allOnes 64 then .itoMWr l.addr w.l.data w.l.bad else .rdOwn l.addr] }
      else
        if !s.behind cl l.home false then .stays s
        else match (if l.flat then s.flatClear l true else s.homeClear dk (.writeBack c w.line) l x true) with
          | (false, s) => .stays s
          | (true, s0) =>
            let s := if l.flat then s0.outsideMark l.addr else (s0.tlbKeep cl e).beforeWrite e
            if s.needs ≠ s0.needs then .stays (s0.askNeeds s.needs) else
            let bad := partialLine (s.store l.space) l.addr x w.l
            let s := s.setStore l.space (mergeLine (s.store l.space) l.isFlat l.addr w.l)
            let s := s.logPacket cl l.home false (.writeBack c w)
            -- the acknowledgement of a home that has recorded stays behind its marker (R356)
            let s := if s.behind l.home cl false then s else s.setCore c { s.core c with late := (s.core c).late ++ [(w, l.home)] }
            .done (s.partialMchks (some dk) { kind := 2, addr := x, core := c, cycle := (s.core c).cycle } bad)

/-- A PRE line is written back (R360): its home applies the dirty bytes to the snapshot copy of the page and to the live frame. One that a page
fault holds, or that another module takes, stays PRE. -/
def State.writeBackPre (s : State) (c : Nat) (w : WriteBack) : WbOut :=
  let x := w.line * 64
  match (s.domainOfCore c).map (fun dk => locate s (clusterOf c) dk x { w := true } true) with
  | some (.at l e) =>
    if l.space = .host then s.writeBackOne c w
    else if !s.behind (clusterOf c) l.home false then .stays s
    else
      let page := if l.flat then (s.leafOf l.addr).map (fun p => (p, l.addr - pteFrame p.pte)) else some (e, x - e.va)
      let s := match page with
        | some (p, off) => s.patchCopy p off (fun m => mergeLine m l.isFlat 0 w.l)
        | none => s
      s.writeBackOne c { w with l := { w.l with pre := false } }
  | _ => s.writeBackOne c w

/-- A write-back is performed or taken by its port, with the page's capture where the line is PRE (R95, R360). -/
def State.writeBackNow (s : State) (c : Nat) (w : WriteBack) : WbOut := if w.l.pre then s.writeBackPre c w else s.writeBackOne c w
/-- A write-back leaves its core, unless an older one of the line waits at the port after a wake (R332). -/
def State.writeBackLine (s : State) (c : Nat) (w : WriteBack) : WbOut :=
  if (s.cluster (clusterOf c)).retryWbs.any (fun p => p.1 == c && p.2.line == w.line) then .stays s else s.writeBackNow c w
/-- The queued write-backs of a line leave the queue of a core in their order; false when one of them must stay. -/
def State.flushQueued (s : State) (c line : Nat) : Nat → Bool × State
  | 0 => (true, s)
  | n + 1 =>
    let co := s.core c
    match co.wbq.find? (fun w => w.line == line) with
    | none => (true, s)
    | some w => match (s.setCore c { co with wbq := co.wbq.erase w }).writeBackLine c w with
      | .done s => State.flushQueued s c line n
      | .stays s => (false, s.setCore c { s.core c with wbq := co.wbq })
/-- Every write-back that a core owes for a line leaves it, in order: queued ones first, then the L1's dirty bytes (R99, R113).
False when one of them cannot leave yet, which then stays where it is. -/
def State.flushLine (s : State) (c line : Nat) : Bool × State :=
  match s.flushQueued c line 9 with
  | (false, s) => (false, s)
  | (true, s) => match Map.find (s.core c).l1 line with
    | none => (true, s)
    | some l =>
      if l.dirty = 0 then (true, s)
      else match s.writeBackLine c ⟨line, l⟩ with
        | .done s => (true, s.setCore c { s.core c with l1 := Map.set (s.core c).l1 line l.cleaned })
        | .stays s => (false, s)
/-- Whether a write-back of a line by a core has yet to be acknowledged. -/
def State.owes (s : State) (c line : Nat) : Bool := (s.owed c).any (fun w => w.line == line)

/-- Make room for a line in its set of four ways (R92): a victim with dirty bytes enters the write-back queue. None while
that queue is full (R94). -/
def State.roomFor (s : State) (c line : Nat) : Option State :=
  let co := s.core c
  let set := co.l1.filter (fun e => e.1 % 64 == line % 64)
  if (Map.find co.l1 line).isSome || decide (set.length < 4) then some s
  else match set[Config.victimWay s.freeCount % set.length]? with
    | none => some s
    | some (y, l) =>
      let s := s.bumpFree
      if l.dirty = 0 then some (s.setCore c { co with l1 := Map.del co.l1 y })
      else if 8 ≤ co.wbq.length then none
      else some (s.setCore c { co with l1 := Map.del co.l1 y, wbq := co.wbq ++ [⟨y, l⟩] })

/-- A line as its home sends it to an L1: data, tags and poison (R93, R102). -/
def lineAt (m : Store) (flat : Bool) (a : Nat) : L1Line :=
  let a := a / 64 * 64
  { data := BitVec.ofNat 512 (m.read a 64), valid := BitVec.allOnes 64
    tags := if flat then 0 else BitVec.ofNat 4 ((List.range 4).foldl (fun t i => t + (m.tag (a + 16 * i)).toNat * 2 ^ i) 0)
    poison := BitVec.ofNat 8 ((List.range 8).foldl (fun t i => t + (NatSet.has m.poison (a / 8 + i)).toNat * 2 ^ i) 0) }
/-- The memory that a port reads a line from: at a fabric address of its own module what a host access finds there (R383). -/
def State.seenAt (s : State) (l : Loc) : Store := if l.flat && l.space == .hbm then s.outsideView l.home (l.addr / 64 * 64) 64 else s.store l.space
/-- A returning line fills every byte that is not dirty (R93). A word that failed in the L1 while some of its bytes were dirty keeps its poison
mark, of which the spec says nothing: DESIGN CHOICE, log entry 56. -/
def L1Line.fill (l f : L1Line) : L1Line :=
  let full := (List.range 8).foldl (fun (a : BitVec 8) w => if wordMask l.dirty w = 255 then a ||| ((1 : BitVec 8) <<< w) else a) 0
  let touched := (List.range 4).foldl (fun (a : BitVec 4) g => if l.dirty.toNat / 2 ^ (16 * g) % 2 ^ 16 = 0 then a else a ||| ((1 : BitVec 4) <<< g)) 0
  { l with
    data := mergeBytes f.data l.data l.dirty
    valid := BitVec.allOnes 64
    tags := (f.tags &&& ~~~touched) ||| (l.tags &&& touched)
    poison := (f.poison &&& ~~~full) ||| (l.poison &&& full) ||| l.bad }

/-- A line that another module sends, as the event brings it (R383). -/
def EventArgs.line64 (e : EventArgs) : Option ILine := e.data.map (fun v => { data := v, poison := e.value.setWidth 8 })
/-- A line as an L1 holds it when it comes from another module: without tags (R102). -/
def ILine.asL1 (l : ILine) : L1Line := { data := l.data, valid := BitVec.allOnes 64, poison := l.poison }
/-- The threads of a core that wait for an L1 line. -/
def State.lineWaiters (s : State) (c line : Nat) : List (Tid × Req) :=
  (List.range 16).filterMap (fun i => match (s.thread ⟨c, i⟩).wait with
    | some (.load r) => if r.x / 64 = line then some (⟨c, i⟩, r) else none
    | _ => none)
/-- A line cannot be had: its fill ends, and the threads that wait for it issue again (R18), or take CONTAINED with the fabric address, where
another module refuses the line of fabric address `x` (R383). -/
def State.dropFill (s : State) (c line : Nat) (refused : Option Nat) : State :=
  (s.lineWaiters c line).foldl (fun (acc : State) p => match refused with
    | some x => acc.as p.1 (fun s => (s.setCur { s.cur with status := .running }).raise ⟨.contained, x / 64 * 64 + p.2.x % 64⟩)
    | none => acc.retry p.1)
    (s.setCore c { s.core c with fills := NatSet.del (s.core c).fills line })
/-- The request for a line that another module has answered, or that nobody waits for any more, is forgotten. -/
def State.dropPeer (s : State) (cl : Nat) (q : PeerReq) : State :=
  let k := s.cluster cl
  s.setCluster cl { k with peerReqs := k.peerReqs.filter (fun p => p != q) }
/-- A line enters the L1 of a core, if its set has room (R92, R93). -/
def State.takeLine (s : State) (c line : Nat) (f : L1Line) : Option State :=
  (s.roomFor c line).map (fun s =>
    let co := s.core c
    s.setCore c { co with l1 := Map.set co.l1 line ((Map.get ({} : L1Line) co.l1 line).fill f), fills := NatSet.del co.fills line })
/-- A line returns to the L1 of a core (R93). The state does not change when the line cannot return yet: a write-back of it by this
core has not been acknowledged (R113), its home holds it behind an abort, or the host or another module has not answered. A line
that faults or cannot be had wakes the threads that wait for it, which issue again; other threads' wish for it is dropped (R103). -/
def State.fillLine (s : State) (c line : Nat) : State :=
  let cl := clusterOf c
  if s.owes c line then s
  else match s.domainOfCore c with
    | none => s.dropFill c line none
    | some dk =>
      match locateOld s cl dk (line * 64) { r := true } true (fun v => v.fills.contains (c, line)) with
      | .at l e =>
        if l.space != .host && !s.withHome cl l.home then s
        else match (if l.space = .host then s.hostRead cl dk (line * 64) l.addr else if l.flat then s.flatClear l false
          else s.homeClear dk (.fill c line) l (line * 64) false) with
        | (false, s) => s
        | (true, s') => ((s'.takeLine c line (lineAt (s'.seenAt l) l.isFlat l.addr)).map (fun s => s.tlbKeep cl e)).getD s
      | .atsMiss => s.askTranslation cl dk (line * 64)
      | .peer dev addr =>
        if decide (hbmTop ≤ addr) || (s.routeTo dev).isNone then s.dropFill c line (some (s.fabricAddr dev addr))
        else
          let q := PeerReq.line c line dev addr
          let k := s.cluster cl
          if !k.peerReqs.contains q then
            { s.setCluster cl { k with peerReqs := k.peerReqs ++ [q] } with hostOut := s.hostOut ++ [.peerRead dev (addr / 64 * 64)] }
          else if !s.ev.peer then s
          else if s.ev.full then (s.dropPeer cl q).dropFill c line (some (s.fabricAddr dev addr))
          else match s.ev.line64 with
            | none => s
            | some f => ((s.dropPeer cl q).takeLine c line f.asL1).getD s
      | _ => s.dropFill c line none

/-- A load reads the L1 (R93): none on a miss. -/
def State.l1Load (s : State) (c : Nat) (r : Req) : Option Resp :=
  match Map.find (s.core c).l1 (r.x / 64) with
  | none => none
  | some l =>
    let o := r.x % 64
    let n := r.op.size
    if l.hits o n then
      some { v := l.read o n, tag := l.tags.getLsbD (o / 16), poison := (l.poisoned o n).map (fun w => r.x / 64 * 64 + w) }
    else none

/-- CAPPERM on the base register of an access (R84, R102). -/
def State.refuse (s : State) (r : Req) : State := s.raise ⟨.capPerm, r.base.val⟩

/-- Whether an address lies in carved storage that a capability without D may not reach (R96). -/
def State.carvedNoD (s : State) (cl dk x : Nat) (permD : Bool) : Bool :=
  !permD && (match translate s cl dk x with
    | .ok e => decide (pteType e.pte = 2)
    | .error _ => false)
/-- Add a waiter at the bank or home of an access that must wait, or say that the list is full (R100). -/
def State.addWaiter (s : State) (t : Tid) (r : Req) (l : Loc) : Option State :=
  let k := s.cluster l.home
  let same := k.waiters.filter (fun w => if l.space = .scratch
    then w.loc.space == .scratch && scratchCore w.loc.addr == scratchCore l.addr && scratchBank w.loc.addr == scratchBank l.addr
    else w.loc.space != .scratch)
  let cap := if l.space = .scratch then 16 else 4096
  if cap ≤ same.length then none
  else some ((s.setCluster l.home { k with waiters := k.waiters ++ [{ t := t, r := r, loc := l }] }).setThread t
    { s.thread t with status := .parked (.waiter r) })

/-- A scratch access is performed at its bank and replied to (R86, R89, R99). -/
def State.bankAccess (s : State) (r : Req) (o : Nat) : State :=
  let l : Loc := { space := .scratch, addr := o, home := clusterOf (scratchCore o) }
  let p := performOn s.scratch false o r.op (s.publish s.turn)
  if p.2.waits then
    match s.addWaiter s.turn r l with
    | some s => s
    | none => s.forfeit
  else
    let q := s.performPlain s.turn r.op l none
    q.1.deliver r o q.2

/-- Whether a bank request is lost: the mark left by OMEGA_REQUEST or LINE_PORT_PRIORITY, which the loss uses up (R86 to R88). -/
def State.bankLost (s : State) (o : Nat) : Option State :=
  let c := scratchCore o
  let co := s.core c
  let b := (1 : BitVec 8) <<< (scratchBank o)
  if c = s.turn.core then
    if co.ownLost &&& b = 0 then none else some (s.setCore c { co with ownLost := co.ownLost &&& ~~~b })
  else
    if co.omegaLost &&& b = 0 then none else some (s.setCore c { co with omegaLost := co.omegaLost &&& ~~~b })

/-- The checks of a scratch access at its issue (R84): the target's domain and containment. -/
def State.scratchCheck (s : State) (r : Req) (o : Nat) : Option TrapVal :=
  if !(s.domainAt s.turn.core).holds (clusterOf (scratchCore o)) then some ⟨.capPerm, r.base.val⟩
  else if (s.core (scratchCore o)).contained then some ⟨.contained, r.x⟩
  else none

/-- An access routed to the scratch path (R84 to R91). -/
def State.scratchAccess (s : State) (r : Req) (o : Nat) (rx : Bool) : State :=
  let k := fun (s : State) => s.checked (s.scratchCheck r o) (fun s =>
    if rx then
      if 4 ≤ s.cur.rx.length then s.forfeit
      else
        let h := { s.cur with rx := s.cur.rx ++ [{ r := r, cluster := clusterOf (scratchCore o) }] }
        let h := match r.op with
          | .load d _ _ => if d = 0 then h else { h with absent := h.absent ||| ((1 : BitVec 32) <<< d.val) }
          | _ => h
        (s.setCur h).finish
    else if clusterOf (scratchCore o) = clusterOf s.turn.core then
      match s.bankLost o with
      | some s => s.forfeit
      | none => if r.op.isWrite && s.uncopied o then s.forfeit else s.bankAccess r o
    else s.park (.mesh r))
  if s.inOwnFrame o r.op.size then k s else s.irrevocably k

/-- A page fault, an ATS request or a refusal of the issuing thread's access (R330, R377, R383, R96). -/
def State.notHere (s : State) (dk : Nat) (r : Req) (w : Where) : State :=
  match w with
  | .at _ _ => s
  | .pageFault reason page size => s.pageFault s.turn dk r.x page size (accBits r.op) reason false
  | .hostFault reason page size =>
    s.pageFault s.turn dk r.x page size (accBits r.op) reason (!(s.cluster (clusterOf s.turn.core)).priStopped)
  | .noD => s.refuse r
  | .atsMiss =>
    (s.park .ats).askTranslation (clusterOf s.turn.core) dk r.x
  | .peer dev addr =>
    if decide (hbmTop ≤ addr) || (s.routeTo dev).isNone then s.raise ⟨.contained, s.fabricAddr dev addr⟩
    else { s.park (.fabric r dev addr) with hostOut := s.hostOut ++ [.peerAccess dev addr r (s.publish s.turn)] }

/-- A core's L1 takes a line to store into (R94): a PRE line is written back first (R360), and a new line needs room. -/
def State.claimLine (s : State) (c line : Nat) : Option State :=
  match Map.find (s.core c).l1 line with
  | some l => if l.pre then
      match s.writeBackLine c ⟨line, l⟩ with
      | .done s => (s.setCore c { s.core c with l1 := Map.set (s.core c).l1 line l.cleaned }).roomFor c line
      | .stays _ => none
    else s.roomFor c line
  | none => s.roomFor c line
/-- A store into the L1 (R94). -/
def State.l1Store (s : State) (r : Req) (n v : Nat) (tag : Option Bool) : State :=
  let c := s.turn.core
  let line := r.x / 64
  match s.claimLine c line with
  | none => s.park .writeQueue
  | some s =>
    let co := s.core c
    let l := (Map.get ({} : L1Line) co.l1 line).store (r.x % 64) n v s.turn.slot tag
    ((s.setCore c { co with l1 := Map.set co.l1 line l }).signStore r.x).finish

/-- What the home did with an access of the issuing thread (R100, R150 to R152): a store of a speculative task is posted, and the thread goes on
while its home holds it. -/
def State.homeDone (r : Req) (l : Loc) : HomeOut → State
  | .hold s => if s.cur.bypasses r.op && r.op.isWrite then (s.setCur { s.cur with status := .running }).finish else s.park (.home r)
  | .full s => s.park (.home r)
  | .gone s => s.park (.home r)
  | .irrevocable s => s.parkWaiting .irrevocable
  | .done s p =>
    if p.waits then
      match s.addWaiter s.turn r l with
      | some s => s
      | none => s.park (.waiterFull r)
    else s.replied r l.addr p

/-- The host lines that an access at a host page touches. -/
def hostLinesOf (r : Req) (l : Loc) : List Nat := (linesOf r l).map (fun p => p.1.addr / 64)
/-- The words on host pages and of other modules read as full and stay so: LDE and STF are refused (R102). -/
def MemOp.needsFullBit : MemOp → Bool
  | .lde _ => true
  | .stf _ => true
  | _ => false
/-- An access performed at the cluster port, on a host page (R123, R130, R377, R380): a write takes ownership of its lines first, a read
has them in S or E; with ATS clear the access is an untranslated request, which the host answers. -/
def State.portAccess (s : State) (dk : Nat) (r : Req) (l : Loc) : State :=
  let cl := clusterOf s.turn.core
  let k := s.cluster cl
  let ys := hostLinesOf r l
  if k.atsOn && r.op.isWrite then
    let more := ys.drop 1
    let s := s.setCluster cl { k with hostReqs := k.hostReqs ++ more.map HostReq.ownLine ++ [.own s.turn r l.addr] }
    { s.park (.host r) with hostOut := s.hostOut ++ (more ++ [l.addr / 64]).map (fun y => .rdOwn (64 * y)) }
  else if !k.atsOn then
    let more := ys.drop 1
    let s := s.setCluster cl { k with hostReqs := k.hostReqs ++ more.map HostReq.plain ++ [.plainAccess s.turn r l.addr] }
    { s.park (.host r) with hostOut := s.hostOut ++ [.untranslated (s.domain dk).pasid r.x r.op.isWrite] }
  else
    let need := ys.filter (fun y => (Map.find k.hostLines y).isNone)
    if !need.isEmpty then (need.foldl (fun (acc : State) y => acc.askShared cl (64 * y)) s).park (.host r)
    else
      let p := s.performPlain s.turn r.op l none
      p.1.replied r l.addr p.2
/-- An access of the issuing thread through its own module's aperture: a CXL.mem access from the port, at the home that FHOME names (R381,
R383). Its words are full and have no tags (R102). -/
def State.ownAccess (s : State) (r : Req) (l : Loc) : State :=
  let w := r.op.isWrite
  match (linesOf r l).foldl (fun (acc : Bool × State) p => let q := acc.2.flatClear p.1 w; (acc.1 && q.1, q.2)) (true, s) with
  | (false, s) => s.park (.home r)
  | (true, s) =>
    let s' := if w then s.outsideMark l.addr else s
    if s'.needs ≠ s.needs then (s.askNeeds s'.needs).park (.home r)
    else
      let p := performOn (if w then s'.hbm else s'.outsideView l.home l.addr r.op.size) true l.addr r.op (s'.publish s'.turn)
      (if w then { s' with hbm := p.1 } else s').replied r l.addr p.2
/-- Where an access of the issuing thread is performed once the core's own dirty bytes of its lines have left (R96, R99, R102, R123, R130,
R383): at its home, at the port, or by another module. On a host page it is irrevocable (Table 7-7). -/
def State.placeAccess (s : State) (dk : Nat) (r : Req) : State :=
  let onHost := fun (k : State → State) => if r.op.needsFullBit then s.refuse r else if s.cur.spec then s.parkWaiting .irrevocable else k s
  match locateOld s (clusterOf s.turn.core) dk r.x { r := r.op.needsR, w := r.op.isWrite } r.permD (fun v => v.threads.any (fun p => p.1 == s.turn)) with
  | .at l e =>
    if l.space = .host then onHost (fun s => s.portAccess dk r l)
    else if l.flat then onHost (fun s => s.ownAccess r l)
    else
      State.homeDone r l (s.atHome s.turn
        (if s.cur.bypasses r.op && r.op.isWrite then .posted s.turn (s.nextPosted s.turn) r l e else .thread s.turn) r l e)
  | .peer dev addr => onHost (fun s => s.notHere dk r (.peer dev addr))
  | w => s.notHere dk r w
/-- A synchronising access, an atomic or a speculative access on the global path. Before it leaves, the core's own dirty bytes of its lines are
written back and acknowledged, unless it passes the L1 by (R96, R99, R102, R123, R130). -/
def State.homeAccess (s : State) (r : Req) : State :=
  let c := s.turn.core
  match s.domainOfCore c with
  | none => s.refuse r
  | some dk =>
    if s.cur.bypasses r.op then s.placeAccess dk r
    else
      let ys := if 64 < r.op.size then [r.x / 64, r.x / 64 + 1] else [r.x / 64]
      let q := ys.foldl (fun (acc : Bool × State) y => let f := acc.2.flushLine c y; (acc.1 && f.1, f.2)) (true, s)
      if q.1 && !ys.any (q.2.owes c) then q.2.placeAccess dk r else q.2.park (.ackMem r)

/-- A load or store of a thread that is not speculative, through the L1 (R93, R94). -/
def State.l1Access (s : State) (r : Req) : State :=
  let c := s.turn.core
  match s.domainOfCore c with
  | none => s.refuse r
  | some dk =>
    if s.carvedNoD (clusterOf c) dk r.x r.permD then s.refuse r
    else match r.op with
      | .store n v => s.l1Store r n v none
      | .storeCap v => s.l1Store r 16 v.val.toNat (some v.tag)
      | _ =>
        match s.l1Load c r with
        | some p => s.deliver r r.x p
        | none =>
          let miss := (s.setCore c { s.core c with fills := NatSet.ins (s.core c).fills (r.x / 64) }).park (.load r)
          match locate s (clusterOf c) dk r.x { r := true } r.permD with
          | .at _ _ => miss
          | .peer dev addr =>
            if decide (hbmTop ≤ addr) || (s.routeTo dev).isNone then s.raise ⟨.contained, s.fabricAddr dev addr⟩ else miss
          | w => s.notHere dk r w

/-- The route of an access (R84): scratch path, or the L1, or the home. -/
def State.access (s : State) (r : Req) (rx : Bool) : State :=
  match scratchOf (s.domainAt s.turn.core) r.x with
  | some o => s.scratchAccess r o rx
  | none =>
    if r.op.ordinary && !s.cur.spec then s.l1Access r
    else s.homeAccess r

/-- Whether the issuing thread has taken, or holds, a trap in `s'` that it had not in `s`, other than POISON; a nested one ends it (R47 to
R49). -/
def State.raisedOver (s s' : State) : Bool :=
  let h := s.cur
  let h' := s'.thread s.turn
  decide (s.turn.slot ≠ 15) && (match h'.wait with
    | some (.heldTrap e _) => e.cause != .poison
    | some (.tendAcks true) => h.intrap && h'.tval != wordOf Cause.poison.code
    | _ => h'.traps != h.traps && h'.causeCode != BitVec.ofNat 6 Cause.poison.code)
/-- A register's pending POISON is taken at the instruction that issues, unless a cause that comes first in R48 is raised by what the rest of
it, `out`, would be (R48, R91). -/
def State.poisonAt (s : State) (r : Nat) (e : TrapVal) (out : Out) : Out :=
  let taken := Host.Outcome.next ((s.setCur { s.cur with poisonPend := Map.del s.cur.poisonPend r }).raise e)
  match out with
  | .next s' => if s.raisedOver s' then out else taken
  | .fault _ => taken
  | .refused _ => taken
/-- The same for the rest of an instruction, given as a change of state. -/
def State.poisonOr (s : State) (r : Nat) (e : TrapVal) (s' : State) : State :=
  if s.raisedOver s' then s' else (s.setCur { s.cur with poisonPend := Map.del s.cur.poisonPend r }).raise e
/-- The next memory access, full/empty access or cache-control instruction that is not `.rx`, and every other drain point,
forfeits while `.rx` accesses are outstanding, and takes the POISON of one that has landed: one register's at a time, the lowest first, behind
the other causes of the instruction (R48, R91). -/
def State.drained (s : State) (k : State → State) : State :=
  if !s.cur.rx.isEmpty then s.forfeit
  else match s.cur.poisonPend with
    | (r, e) :: _ => s.poisonOr r e (k s)
    | [] => k s

/-- Take the first line's worth that a block instruction of the issuing thread needs of line `x / 64` (log entry 25): from the L1 where it
holds the `n` bytes at `x`, else from its home, merged with the L1's dirty bytes. `error` holds the state in which the thread waits, or has
trapped. -/
def State.blockLine (s : State) (dk x n : Nat) (base : RegNum) (permD : Bool) : Except State (L1Line × State) :=
  let c := s.turn.core
  let cl := clusterOf c
  let y := x / 64
  let own := if s.cur.spec then none else Map.find (s.core c).l1 y
  let fill := fun (f : L1Line) => (own.map (fun l => l.fill f)).getD f
  let r : Req := { op := .load 0 n false, x := x, base := base, permD := permD }
  if s.carvedNoD cl dk x permD then .error (s.refuse r)
  else if own.any (fun l => l.hits (x % 64) n) then .ok (own.getD {}, s)
  else if !s.cur.spec && s.owes c y then .error (s.park (.blockLine x))
  else match locateOld s cl dk x { r := true } permD (fun v => v.threads.any (fun p => p.1 == s.turn)) with
    | .at l e =>
      let f := lineAt (s.seenAt l) l.isFlat l.addr
      if l.isFlat && s.cur.spec then .error (s.parkWaiting .irrevocable)
      else if l.space != .host && !s.withHome cl l.home then .error (s.park (.blockLine x))
      else if l.space = .host then
        match s.hostRead cl dk x l.addr with
        | (true, s) => .ok (fill f, s)
        | (false, s) => .error (s.park (.blockLine x))
      else if s.cur.spec then
        match s.atHome s.turn (.thread s.turn) r l e with
        | .done s _ => .ok (fill f, s)
        | .hold s => .error (s.park (.blockLine x))
        | .full s => .error (s.park (.blockLine x))
        | .gone s => .error (s.park (.blockLine x))
        | .irrevocable s => .error (s.parkWaiting .irrevocable)
      else match (if l.flat then s.flatClear l false else s.homeClear dk (.thread s.turn) l x false) with
        | (true, s) => .ok (fill f, s.tlbKeep cl e)
        | (false, s) => .error (s.park (.blockLine x))
    | .peer dev addr =>
      if s.cur.spec then .error (s.parkWaiting .irrevocable)
      else match Map.find s.cur.blockBuf y with
        | some f => .ok (fill f.asL1, s)
        | none =>
          if decide (hbmTop ≤ addr) || (s.routeTo dev).isNone then .error (s.raise ⟨.contained, s.fabricAddr dev addr⟩)
          else .error { s.park (.blockPeer x dev addr) with hostOut := s.hostOut ++ [.peerRead dev (addr / 64 * 64)] }
    | w => .error (s.notHere dk r w)
/-- The checks of a block's bytes in scratch: each core that they lie in is checked, at its first byte (R84, R246). -/
def State.partsCheck (s : State) (x n : Nat) (base : RegNum) (permD : Bool) (o : Nat) : Option TrapVal :=
  let parts := (rangeFrom (o / 0x8000) ((o + n - 1) / 0x8000 + 1)).map (fun k => if o < 0x8000 * k then 0x8000 * k else o)
  parts.findSome? (fun p => s.scratchCheck { op := .load 0 8 false, x := x + (p - o), base := base, permD := permD } p)
/-- The checks of a block read that need none of its data (R48, R84, R96). -/
def State.blockRefused (s : State) (x n : Nat) (base : RegNum) (permD : Bool) : Option TrapVal :=
  match scratchOf (s.domainAt s.turn.core) x with
  | some o => s.partsCheck x n base permD o
  | none => match s.domainOfCore s.turn.core with
    | none => some ⟨.capPerm, base.val⟩
    | some dk =>
      if (rangeFrom (x / 64) ((x + n - 1) / 64 + 1)).any (fun y => s.carvedNoD (clusterOf s.turn.core) dk (max x (y * 64)) permD) then
        some ⟨.capPerm, base.val⟩
      else none
/-- A read of `n` bytes by the issuing core for an instruction that reads a block by its path (R167, R214, R298): from scratch,
or line by line through the L1's valid bytes and the home: the bytes, the tags of the granules and the lowest poisoned word. -/
def State.blockRead (s : State) (x n : Nat) (base : RegNum) (permD : Bool) : Except State (Nat × List Bool × Option Nat × State) :=
  match scratchOf (s.domainAt s.turn.core) x with
  | some o =>
    match s.partsCheck x n base permD o with
    | some e => .error (s.raise e)
    | none => .ok (s.scratch.read o n, (granulesOf o n).map (NatSet.has s.scratch.tags), (s.scratch.poisoned o n).map (fun w => x + w - o), s)
  | none =>
    match s.domainOfCore s.turn.core with
    | none => .error (s.raise ⟨.capPerm, base.val⟩)
    | some dk =>
      (rangeFrom (x / 64) ((x + n - 1) / 64 + 1)).foldl (fun acc y =>
        match acc with
        | .error e => .error e
        | .ok (v, tags, poison, s) =>
          let lo := max x (y * 64)
          let hi := min (x + n) (y * 64 + 64)
          match s.blockLine dk lo (hi - lo) base permD with
          | .error e => .error e
          | .ok (l, s) =>
            .ok (v + l.read (lo - y * 64) (hi - lo) * 2 ^ (8 * (lo - x)),
              tags ++ (rangeFrom (lo / 16) ((hi - 1) / 16 + 1)).map (fun g => l.tags.getLsbD (g % 4)),
              if poison.isSome then poison else (l.poisoned (lo - y * 64) (hi - lo)).map (fun w => y * 64 + w), s)) (.ok (0, [], none, s))

end Sys2Proof.Machine
end

