-- ==== Sys2Proof/Machine/CacheControl.lean ====
section
/-!
DEFINITION. Cache control (major 0x16): PREF, CFLU, CINV, DISC, LLCK and LULK (R103 to R105).
-/
namespace Sys2Proof.Machine

/-- The longest range that is checked as a whole (R103). -/
def rangeMax : Nat := 1048576
/-- The checks of a cache-control instruction but PREF: tag, seal, permission, bounds of the range and its length (R103). -/
def checkRange (c : CReg) (tv len : Nat) (perms : List Nat) : Option TrapVal :=
  match checkTag c tv false perms with
  | some e => some e
  | none => if !c.inBounds c.addr len || decide (rangeMax < len) then some ⟨.capBnd, c.addr⟩ else none
/-- Whether a line lies in a list of consecutive lines. -/
def inLines (ls : List Nat) (y : Nat) : Bool :=
  match ls with
  | [] => false
  | a :: _ => decide (a ≤ y) && decide (y < a + ls.length)

/-- Whether a core holds no dirty byte of the lines from `lo` to `hi - 1` and every write-back of them has been acknowledged. -/
def State.rangeClean (s : State) (c lo hi : Nat) : Bool :=
  let inr := fun (y : Nat) => decide (lo ≤ y) && decide (y < hi)
  (s.core c).l1.all (fun e => !inr e.1 || e.2.dirty == 0) && (s.owed c).all (fun w => !inr w.line)

/-- CFLU and CINV once the write-backs are acknowledged: CINV invalidates the lines (Table 5-5). -/
def State.rangeEnd (s : State) (inv : Bool) (lo hi : Nat) : State :=
  (if inv then s.setCore s.turn.core ((s.core s.turn.core).invalidate (fun y => decide (lo ≤ y) && decide (y < hi))) else s).finish
/-- CFLU and CINV: the dirty lines of the range enter the write-back queue; the thread parks until all are acknowledged
(Table 5-5). -/
def State.flushRange (s : State) (inv : Bool) (lo hi : Nat) : State :=
  let c := s.turn.core
  if s.rangeClean c lo hi then s.rangeEnd inv lo hi
  else (s.setCore c ((s.core c).drain (fun e => decide (lo ≤ e.1) && decide (e.1 < hi)))).park (.release (.cacheRange inv lo hi))

/-- A cache-control instruction: irrevocable in a speculative task (Table 7-7), a no-op on scratch after its checks (R103). -/
def State.cacheOp (s : State) (a : RegNum) (len : Nat) (perms : List Nat) (scratch k : State → State) : State :=
  s.drained (fun s => s.checked (checkRange (s.reg a) a.val len perms) (fun s => s.irrevocably (fun s =>
    if (scratchOf (s.domainAt s.turn.core) (s.reg a).addr).isSome then scratch s else k s)))

/-- Whether a global line lies in carved storage, which only a capability with D reaches (R96). -/
def State.carvedLine (s : State) (c y : Nat) : Bool :=
  match s.domainOfCore c with
  | none => false
  | some dk => match translate s (clusterOf c) dk (64 * y) with
    | .ok e => decide (pteType e.pte = 2)
    | .error _ => false
/-- PREF (R103): the lines of the range within bounds are requested; a line that faults is dropped. -/
def execPref (a b : RegNum) (s : State) : Out := .next (
  s.drained (fun s => s.checked (checkTag (s.reg a) a.val false []) (fun s => s.irrevocably (fun s =>
    let c := s.reg a
    if (scratchOf (s.domainAt s.turn.core) c.addr).isSome then s.finish
    else
      let k := s.turn.core
      let want := (linesIn c.addr (min (s.word b).toNat rangeMax)).filter (fun y => c.inBounds (64 * y) 64
        && (c.has permD || !s.carvedLine k y)
        && ((Map.find (s.core k).l1 y).map (fun l => l.valid == BitVec.allOnes 64)) != some true)
      (s.setCore k { s.core k with fills := want.foldl NatSet.ins (s.core k).fills }).finish))))
/-- CFLU (R103). -/
def execCflu (a b : RegNum) (s : State) : Out := .next (
  let x := (s.reg a).addr
  let n := (s.word b).toNat
  s.cacheOp a n [] State.finish (fun s => s.flushRange false (x / 64) (if n = 0 then x / 64 else (x + n - 1) / 64 + 1)))
/-- CINV (R103). -/
def execCinv (a b : RegNum) (s : State) : Out := .next (
  let x := (s.reg a).addr
  let n := (s.word b).toNat
  s.cacheOp a n [permS] State.finish (fun s => s.flushRange true (x / 64) (if n = 0 then x / 64 else (x + n - 1) / 64 + 1)))
/-- DISC (R104): queued write-backs and L1 copies of the whole lines go; the lines at the edges are written back. -/
def execDisc (a b : RegNum) (s : State) : Out := .next (
  let x := (s.reg a).addr
  let n := (s.word b).toNat
  s.cacheOp a n [permS] State.finish (fun s =>
    let lo := (x + 63) / 64
    let hi := (x + n) / 64
    let whole := fun (y : Nat) => decide (lo ≤ y) && decide (y < hi)
    let c := s.turn.core
    let co := s.core c
    let s := s.setCore c { co with wbq := co.wbq.filter (fun w => !whole w.line), l1 := co.l1.filter (fun e => !whole e.1) }
    s.flushRange false (x / 64) (if n = 0 then x / 64 else (x + n - 1) / 64 + 1)))

/-- The slice lines of a range, each with its home: lines of HBM. Lines of carved, host and other modules' pages have no slice line and are
passed over (log entry 43). A page that is not mapped parks the thread (R96), in the state given. -/
def State.sliceLines (s : State) (a : RegNum) (ls : List Nat) : Except State (List (Nat × Nat)) :=
  match s.domainOfCore s.turn.core with
  | none => .error (s.refuse { op := .load 0 8 false, x := (s.reg a).addr, base := a, permD := true })
  | some dk =>
    ls.foldl (fun acc y => acc.bind (fun r =>
      match translate s (clusterOf s.turn.core) dk (64 * y) with
      | .ok e => .ok (if pteType e.pte = 0 then r ++ [(pteHome e.pte, (pteFrame e.pte + (64 * y - e.va)) / 64)] else r)
      | .error reason => .error (s.pageFault s.turn dk (64 * y) (64 * y / 4096 * 4096) 4096 1 reason false))) (.ok [])
/-- The set of a line in its slice of 2,048 sets of 16 ways (log entry 20). -/
def sliceSet (line : Nat) : Nat := line % 2048
/-- LLCK (R105): all lines of the range are pinned, or none; where both the quota and a set's limit would be passed, d takes LQUOTA (log
entry 43). -/
def execLlck (d a b : RegNum) (s : State) : Out := .next (
  s.cacheOp a (s.word b).toNat [] (fun s => (s.writeWord d 0).finish) (fun s =>
    match s.sliceLines a (linesIn (s.reg a).addr (s.word b).toNat) with
    | .error s => s
    | .ok ls =>
      let dk := (s.domainOfCore s.turn.core).getD 0
      let dom := s.domain dk
      let quota := dom.desc 92 4
      let new := (ls.filter (fun p => !NatSet.has (s.cluster p.1).pinned p.2)).eraseDups
      let held := (dom.clusters.map (fun c => (s.cluster c).pinned.length)).foldl (· + ·) 0
      if quota < held + new.length then (s.writeWord d 1).finish
      else
        let s' := new.foldl (fun acc p => acc.setCluster p.1 { acc.cluster p.1 with pinned := NatSet.ins (acc.cluster p.1).pinned p.2 }) s
        let full := new.any (fun p => decide (12 < ((s'.cluster p.1).pinned.filter (fun y => sliceSet y == sliceSet p.2)).length))
        if full then (s.writeWord d 2).finish else (s'.writeWord d 0).finish))
/-- LULK (R105). -/
def execLulk (d a b : RegNum) (s : State) : Out := .next (
  s.cacheOp a (s.word b).toNat [] (fun s => (s.writeWord d 0).finish) (fun s =>
    match s.sliceLines a (linesIn (s.reg a).addr (s.word b).toNat) with
    | .error s => s
    | .ok ls =>
      ((ls.foldl (fun (acc : State) p => acc.setCluster p.1 { acc.cluster p.1 with pinned := NatSet.del (acc.cluster p.1).pinned p.2 }) s).writeWord d 0).finish))

end Sys2Proof.Machine
end

