-- ==== Sys2Proof/WellFormed.lean ====
section
/-!
DEFINITION. Well-formed instructions: the restrictions of the opcode chapters that the types of `Instr` do not already state.
-/
namespace Sys2Proof

/-- Floating types have no natural variant and no saturating mode (R34, R221). -/
def VType.isFloat : VType → Bool
  | .f32 => true
  | .f16 => true
  | .bf16 => true
  | .i8 => false
  | .i16 => false
  | .i32 => false
  | .i64 => false

/-- The number of lanes of a type (Table 10-1). -/
def VType.lanes : VType → Nat
  | .f32 => 4
  | .f16 => 8
  | .bf16 => 8
  | .i8 => 16
  | .i16 => 8
  | .i32 => 4
  | .i64 => 2

/-- The natural variant is for integer types only (R34). -/
def natOk (t : VType) (nat : Bool) : Bool := !(nat && t.isFloat)

/-- The mode of a floating VADD, VSUB or VMUL is zero (R221). -/
def satOk (t : VType) (m : SatMode) : Bool := !(t.isFloat && m != .wrap)

/-- UN and OR are floating predicates (R34). -/
def predOk (t : VType) (p : Pred) : Bool := t.isFloat || !(p == .un || p == .ord)

/-- A lane number lies below the number of lanes (R227). -/
def laneOk (t : VType) (lane : Fin 32) : Bool := decide (lane.val < t.lanes)

/-- CSRS and CSRC do not exist for TEPC and TVEC (R323). -/
def maskCsrOk (c : Csr) : Bool := !(c == .tepc || c == .tvec)

/-- The rows of the opcode table that have no word: the events. -/
def Instr.isEvent : Instr → Bool
  | .repeatWordIssue => true
  | .instructionFill => true
  | .dataArrival => true
  | .lineFill => true
  | .writeBack => true
  | .omegaRequest => true
  | .meshScratchRequest => true
  | .rxAccessPerform => true
  | .linePortPriority => true
  | .feWaiterResend => true
  | .faultEntryRetry => true
  | .wakeMessage => true
  | .taskRecordArrival => true
  | .taskRefill => true
  | .taskDispatch => true
  | .homeSpeculativeAccess => true
  | .ovfProbe => true
  | .taskAbort => true
  | .belvedereSample => true
  | .roundResult => true
  | .irrevocablePass => true
  | .barrierCycle => true
  | .barrierWake => true
  | .electPostArrival => true
  | .rputDelivery => true
  | .tableBuild => true
  | .matrixOpStart => true
  | .matrixOpComplete => true
  | .macroParityError => true
  | .mcmdArrival => true
  | .mcmdAck => true
  | .chainOpenArrival => true
  | .chainCloseArrival => true
  | .trellisRowArrival => true
  | .trellisAckArrival => true
  | .resumeNotice => true
  | .refusalReadyTimeout => true
  | .transferStart => true
  | .chunkArrival => true
  | .chunkRedelivery => true
  | .landingHandlerStart => true
  | .handlerTimeout => true
  | .transferCompletion => true
  | .multicastJoin => true
  | .multicastSend => true
  | .streamRouteTimeout => true
  | .flowPacketArrival => true
  | .escapeTimeout => true
  | .retryResend => true
  | .prmtArrival => true
  | .rsumArrival => true
  | .spillQueueRetry => true
  | .mchkDelivery => true
  | .memoryError => true
  | .selfTestComplete => true
  | .snapshotMarker => true
  | .scratchSegmentCopy => true
  | .snapshotSweep => true
  | .preWriteBack => true
  | .snapshotCompletionNotice => true
  | .snapshotAbortNotice => true
  | .ingressRecordWrite => true
  | .ingressEnqueue => true
  | .partialClear => true
  | .hostMemRead => true
  | .hostMemWrite => true
  | .snpData => true
  | .snpInv => true
  | .snpCur => true
  | .translationCompletion => true
  | .atsInvalidationRequest => true
  | .priSuccess => true
  | .priInvalidRequest => true
  | .priResponseFailure => true
  | .peerAccess => true
  | .linkLaneFailure => true
  | .routeWrite => true
  | .lattolWrite => true
  | .barRegisterWrite => true
  | .thWrite => true
  | .lcmdReboot => true
  | .powerStateEvaluate => true
  | .wakeEvent => true
  | .powerWindow => true
  | .thermalReading => true
  | .slotDisable => true
  | .slotEnable => true
  | .thermalRankingUpdate => true
  | .powerOn => true
  | .bringUpWatchdog => true
  | .camOperationEnd => true
  | .homeAcknowledgement => true
  | .hostCompletion => true
  | .backInvalidateResponse => true
  | .priEnable => true
  | .streamRouteHeld => true
  | .contextMessageArrival => true
  | .transferSourceRead => true
  | .snapshotCompletionReport => true
  | .bringUpStepEnd => true
  | .faleusPortUp => true
  | .powerLoss => true
  | _ => false

/-- Whether an instruction is one that some word encodes (R36); an event has no word and no restriction. -/
def Instr.wf : Instr → Bool
  | .vadd _ _ _ t m => satOk t m
  | .vsub _ _ _ t m => satOk t m
  | .vmul _ _ _ t m => satOk t m
  | .vdot _ _ _ _ t => t == .f16 || t == .bf16 || t == .i8 || t == .i16
  | .vmin _ _ _ t n => natOk t n
  | .vmax _ _ _ t n => natOk t n
  | .vabs _ _ t n => natOk t n
  | .vneg _ _ t n => natOk t n
  | .vreda _ _ _ t n => natOk t n
  | .vredm _ _ _ t n => natOk t n
  | .vcmp _ _ _ t p n => natOk t n && predOk t p
  | .vsplt _ _ t l => laneOk t l
  | .vins _ _ t l => laneOk t l
  | .vextSigned _ _ t l => laneOk t l && !t.isFloat
  | .vextNatural _ _ t l => laneOk t l
  | .csrs _ c _ => maskCsrOk c
  | .csrc _ c _ => maskCsrOk c
  | _ => true

end Sys2Proof
end

