-- ==== Sys2Proof/Decode.lean ====
section
/-!
DEFINITION. Decoding: the words of Tables 2-1 to 2-3 read into instructions, and the encoder that writes them.
-/
namespace Sys2Proof

/-- What a word is: an instruction, or UNDEF, or RSVD (R36, steps 2 and 3). -/
inductive Decoded where
  | instr (i : Instr)
  | undef
  | rsvd
  deriving DecidableEq, Repr

/-- The register number at bit `lo` (Table 2-1). -/
def reg5 (w lo : Nat) : Fin 32 := Fin.ofNat 32 (fld w lo 5)

/-- `i`, or RSVD when a reserved field, given as (lowest bit, length), is not zero (R36, step 3). -/
def whenZero (w : Nat) (fields : List (Nat × Nat)) (i : Instr) : Decoded :=
  if fields.all (fun f => fld w f.1 f.2 == 0) then .instr i else .rsvd

/-- Go on with a field's meaning, or UNDEF when its value is unassigned (R36, step 2). -/
def orUndef {α : Type} (o : Option α) (k : α → Decoded) : Decoded :=
  match o with
  | some x => k x
  | none => .undef

/-- A selector below `n`. -/
def finOfNat (n : Nat) (x : Nat) : Option (Fin n) := if h : x < n then some ⟨x, h⟩ else none

/-- A handler number 1–7, as 0–6 (R284). -/
def nzOfNat (x : Nat) : Option (Fin 7) := if x = 0 then none else finOfNat 7 (x - 1)

/-- Whether a type code is a floating type (R34). -/
def vtFloat (t : Nat) : Bool := t == 0 || t == 1 || t == 2

/-- The lanes of a type code (Table 10-1). -/
def vtLanes (t : Nat) : Nat :=
  match t with
  | 0 => 4
  | 1 => 8
  | 2 => 8
  | 4 => 16
  | 5 => 8
  | 6 => 4
  | 7 => 2
  | _ => 0

/-- The `Scope` that a code names. -/
def Scope.ofCode : Nat → Option Scope
  | 0 => some .thread
  | 1 => some .core
  | 2 => some .cluster
  | 3 => some .device
  | 4 => some .system
  | _ => none

/-- The `AOrder` that a code names. -/
def AOrder.ofCode : Nat → Option AOrder
  | 0 => some .rlx
  | 1 => some .acq
  | 2 => some .rel
  | 3 => some .acqrel
  | _ => none

/-- The `Dir` that a code names. -/
def Dir.ofCode : Nat → Option Dir
  | 0 => some .e
  | 1 => some .w
  | 2 => some .s
  | 3 => some .n
  | _ => none

/-- The `VType` that a code names. -/
def VType.ofCode : Nat → Option VType
  | 0 => some .f32
  | 1 => some .f16
  | 2 => some .bf16
  | 4 => some .i8
  | 5 => some .i16
  | 6 => some .i32
  | 7 => some .i64
  | _ => none

/-- The `FType` that a code names. -/
def FType.ofCode : Nat → Option FType
  | 0 => some .f32
  | 1 => some .f16
  | 2 => some .bf16
  | _ => none

/-- The `SatMode` that a code names. -/
def SatMode.ofCode : Nat → Option SatMode
  | 0 => some .wrap
  | 1 => some .satS
  | 2 => some .satN
  | _ => none

/-- The `Pred` that a code names. -/
def Pred.ofCode : Nat → Option Pred
  | 0 => some .eq
  | 1 => some .ne
  | 2 => some .lt
  | 3 => some .le
  | 4 => some .gt
  | 5 => some .ge
  | 6 => some .un
  | 7 => some .ord
  | _ => none

/-- The `NumType` that a code names. -/
def NumType.ofCode : Nat → Option NumType
  | 0 => some .f32
  | 1 => some .f16
  | 2 => some .bf16
  | 3 => some .s8
  | 4 => some .s16
  | 5 => some .s32
  | 6 => some .s64
  | 7 => some .n8
  | 8 => some .n16
  | 9 => some .n32
  | 10 => some .n64
  | _ => none

/-- The `Csr` that a code names. -/
def Csr.ofCode : Nat → Option Csr
  | 0 => some .tstat
  | 1 => some .rmode
  | 2 => some .tcause
  | 3 => some .tval
  | 4 => some .tepc
  | 5 => some .tvec
  | 6 => some .tstamp
  | 7 => some .ttie
  | 8 => some .thint
  | 9 => some .grnk
  | 10 => some .gsiz
  | 11 => some .fmta
  | 12 => some .fmtb
  | 13 => some .fmto
  | 14 => some .sca
  | 15 => some .scb
  | 16 => some .fflags
  | 17 => some .cycle
  | 18 => some .instret
  | 256 => some .geom
  | 257 => some .anch
  | 258 => some .spcf
  | 259 => some .mstat
  | 260 => some .xstat
  | 261 => some .lhbase
  | 262 => some .tilebase
  | 512 => some .clid
  | 513 => some .portcfg
  | 514 => some .spillq
  | 768 => some .ddesc
  | 769 => some .lwin
  | 770 => some .ptroot
  | 771 => some .spilla
  | 772 => some .ctxa
  | 773 => some .snapa
  | 774 => some .thermt
  | 775 => some .lattol
  | _ => none

/-- The type of VDOT: f32, i32 and i64 are unassigned there (R220). -/
def VType.dotOfCode : Nat → Option VType
  | 1 => some .f16
  | 2 => some .bf16
  | 4 => some .i8
  | 5 => some .i16
  | _ => none

/-- Major 0x01 (Table 2-3). -/
def decodeMajor01 (w : Nat) : Decoded :=
  match fld w 0 6 with
  | 0 => whenZero w [(6, 5)] (.add (reg5 w 21) (reg5 w 16) (reg5 w 11))
  | 1 => whenZero w [(6, 5)] (.sub (reg5 w 21) (reg5 w 16) (reg5 w 11))
  | 2 => whenZero w [(6, 5)] (.mul (reg5 w 21) (reg5 w 16) (reg5 w 11))
  | 3 => whenZero w [(6, 5)] (.mulh (reg5 w 21) (reg5 w 16) (reg5 w 11))
  | 4 => whenZero w [(6, 5)] (.mulhn (reg5 w 21) (reg5 w 16) (reg5 w 11))
  | 5 => whenZero w [(6, 5)] (.div (reg5 w 21) (reg5 w 16) (reg5 w 11))
  | 6 => whenZero w [(6, 5)] (.divn (reg5 w 21) (reg5 w 16) (reg5 w 11))
  | 7 => whenZero w [(6, 5)] (.rem (reg5 w 21) (reg5 w 16) (reg5 w 11))
  | 8 => whenZero w [(6, 5)] (.remn (reg5 w 21) (reg5 w 16) (reg5 w 11))
  | 9 => whenZero w [(6, 5)] (.and (reg5 w 21) (reg5 w 16) (reg5 w 11))
  | 10 => whenZero w [(6, 5)] (.or (reg5 w 21) (reg5 w 16) (reg5 w 11))
  | 11 => whenZero w [(6, 5)] (.xor (reg5 w 21) (reg5 w 16) (reg5 w 11))
  | 12 => whenZero w [(6, 5)] (.andn (reg5 w 21) (reg5 w 16) (reg5 w 11))
  | 13 => whenZero w [(6, 5)] (.shl (reg5 w 21) (reg5 w 16) (reg5 w 11))
  | 14 => whenZero w [(6, 5)] (.shr (reg5 w 21) (reg5 w 16) (reg5 w 11))
  | 15 => whenZero w [(6, 5)] (.sha (reg5 w 21) (reg5 w 16) (reg5 w 11))
  | 16 => whenZero w [(6, 5)] (.rotr (reg5 w 21) (reg5 w 16) (reg5 w 11))
  | 17 => whenZero w [(11, 5), (6, 5)] (.clz (reg5 w 21) (reg5 w 16))
  | 18 => whenZero w [(11, 5), (6, 5)] (.ctz (reg5 w 21) (reg5 w 16))
  | 19 => whenZero w [(11, 5), (6, 5)] (.popc (reg5 w 21) (reg5 w 16))
  | 20 => whenZero w [(6, 5)] (.min (reg5 w 21) (reg5 w 16) (reg5 w 11))
  | 21 => whenZero w [(6, 5)] (.max (reg5 w 21) (reg5 w 16) (reg5 w 11))
  | 22 => whenZero w [(6, 5)] (.minn (reg5 w 21) (reg5 w 16) (reg5 w 11))
  | 23 => whenZero w [(6, 5)] (.maxn (reg5 w 21) (reg5 w 16) (reg5 w 11))
  | 24 => whenZero w [(6, 5)] (.seq (reg5 w 21) (reg5 w 16) (reg5 w 11))
  | 25 => whenZero w [(6, 5)] (.sne (reg5 w 21) (reg5 w 16) (reg5 w 11))
  | 26 => whenZero w [(6, 5)] (.slt (reg5 w 21) (reg5 w 16) (reg5 w 11))
  | 27 => whenZero w [(6, 5)] (.sltn (reg5 w 21) (reg5 w 16) (reg5 w 11))
  | 28 => whenZero w [(6, 5)] (.sle (reg5 w 21) (reg5 w 16) (reg5 w 11))
  | 29 => whenZero w [(6, 5)] (.slen (reg5 w 21) (reg5 w 16) (reg5 w 11))
  | 30 => .instr (.sel (reg5 w 21) (reg5 w 16) (reg5 w 11) (reg5 w 6))
  | 31 => whenZero w [(6, 5)] (.extb (reg5 w 21) (reg5 w 16) (reg5 w 11))
  | 32 => whenZero w [(6, 5)] (.extbn (reg5 w 21) (reg5 w 16) (reg5 w 11))
  | 33 => whenZero w [(6, 5)] (.insb (reg5 w 21) (reg5 w 16) (reg5 w 11))
  | _ => .undef

/-- Major 0x02 (Table 2-3). -/
def decodeMajor02 (w : Nat) : Decoded :=
  .instr (.addi (reg5 w 21) (reg5 w 16) (BitVec.ofNat 16 (fld w 0 16)))

/-- Major 0x03 (Table 2-3). -/
def decodeMajor03 (w : Nat) : Decoded :=
  .instr (.andi (reg5 w 21) (reg5 w 16) (BitVec.ofNat 16 (fld w 0 16)))

/-- Major 0x04 (Table 2-3). -/
def decodeMajor04 (w : Nat) : Decoded :=
  .instr (.ori (reg5 w 21) (reg5 w 16) (BitVec.ofNat 16 (fld w 0 16)))

/-- Major 0x05 (Table 2-3). -/
def decodeMajor05 (w : Nat) : Decoded :=
  .instr (.xori (reg5 w 21) (reg5 w 16) (BitVec.ofNat 16 (fld w 0 16)))

/-- Major 0x06 (Table 2-3). -/
def decodeMajor06 (w : Nat) : Decoded :=
  .instr (.slti (reg5 w 21) (reg5 w 16) (BitVec.ofNat 16 (fld w 0 16)))

/-- Major 0x07 (Table 2-3). -/
def decodeMajor07 (w : Nat) : Decoded :=
  match fld w 6 2 with
  | 0 => whenZero w [(8, 8)] (.shli (reg5 w 21) (reg5 w 16) (Fin.ofNat 64 (fld w 0 6)))
  | 1 => whenZero w [(8, 8)] (.shri (reg5 w 21) (reg5 w 16) (Fin.ofNat 64 (fld w 0 6)))
  | 2 => whenZero w [(8, 8)] (.shai (reg5 w 21) (reg5 w 16) (Fin.ofNat 64 (fld w 0 6)))
  | _ => .undef

/-- Major 0x08 (Table 2-3). -/
def decodeMajor08 (w : Nat) : Decoded :=
  match fld w 16 5 with
  | 0 => .instr (.lih (reg5 w 21) (BitVec.ofNat 16 (fld w 0 16)))
  | 1 => .instr (.lihh (reg5 w 21) (BitVec.ofNat 16 (fld w 0 16)))
  | _ => .undef

/-- Major 0x09 (Table 2-3). -/
def decodeMajor09 (w : Nat) : Decoded :=
  match fld w 0 6 with
  | 0 => whenZero w [(11, 5), (6, 5)] (.cgadr (reg5 w 21) (reg5 w 16))
  | 1 => whenZero w [(6, 5)] (.csadr (reg5 w 21) (reg5 w 16) (reg5 w 11))
  | 2 => whenZero w [(6, 5)] (.cinc (reg5 w 21) (reg5 w 16) (reg5 w 11))
  | 3 => whenZero w [(6, 5)] (.cbnd (reg5 w 21) (reg5 w 16) (reg5 w 11))
  | 4 => whenZero w [(6, 5)] (.cbndx (reg5 w 21) (reg5 w 16) (reg5 w 11))
  | 5 => whenZero w [(6, 5)] (.candp (reg5 w 21) (reg5 w 16) (reg5 w 11))
  | 6 => whenZero w [(6, 5)] (.cseal (reg5 w 21) (reg5 w 16) (reg5 w 11))
  | 7 => whenZero w [(6, 5)] (.cunsl (reg5 w 21) (reg5 w 16) (reg5 w 11))
  | 8 => whenZero w [(11, 5), (6, 5)] (.cgbas (reg5 w 21) (reg5 w 16))
  | 9 => whenZero w [(11, 5), (6, 5)] (.cglen (reg5 w 21) (reg5 w 16))
  | 10 => whenZero w [(11, 5), (6, 5)] (.cgprm (reg5 w 21) (reg5 w 16))
  | 11 => whenZero w [(11, 5), (6, 5)] (.cgtyp (reg5 w 21) (reg5 w 16))
  | 12 => whenZero w [(11, 5), (6, 5)] (.cgtag (reg5 w 21) (reg5 w 16))
  | 13 => whenZero w [(11, 5), (6, 5)] (.cclrt (reg5 w 21) (reg5 w 16))
  | 14 => whenZero w [(11, 5), (6, 5)] (.cmov (reg5 w 21) (reg5 w 16))
  | 15 => whenZero w [(6, 5)] (.csub (reg5 w 21) (reg5 w 16) (reg5 w 11))
  | 16 => whenZero w [(6, 5)] (.ctsub (reg5 w 21) (reg5 w 16) (reg5 w 11))
  | 17 => whenZero w [(21, 5), (11, 5), (6, 5)] (.cjr (reg5 w 16))
  | 18 => whenZero w [(11, 5), (6, 5)] (.cjlr (reg5 w 21) (reg5 w 16))
  | 19 => whenZero w [(11, 5), (6, 5)] (.csent (reg5 w 21) (reg5 w 16))
  | _ => .undef

/-- Major 0x0A (Table 2-3). -/
def decodeMajor0A (w : Nat) : Decoded :=
  .instr (.cinci (reg5 w 21) (reg5 w 16) (BitVec.ofNat 16 (fld w 0 16)))

/-- Major 0x0B (Table 2-3). -/
def decodeMajor0B (w : Nat) : Decoded :=
  match fld w 12 4 with
  | 0 => .instr (.beq (reg5 w 21) (reg5 w 16) (BitVec.ofNat 12 (fld w 0 12)))
  | 1 => .instr (.bne (reg5 w 21) (reg5 w 16) (BitVec.ofNat 12 (fld w 0 12)))
  | 2 => .instr (.blt (reg5 w 21) (reg5 w 16) (BitVec.ofNat 12 (fld w 0 12)))
  | 3 => .instr (.bge (reg5 w 21) (reg5 w 16) (BitVec.ofNat 12 (fld w 0 12)))
  | 4 => .instr (.bltn (reg5 w 21) (reg5 w 16) (BitVec.ofNat 12 (fld w 0 12)))
  | 5 => .instr (.bgen (reg5 w 21) (reg5 w 16) (BitVec.ofNat 12 (fld w 0 12)))
  | _ => .undef

/-- Major 0x0C (Table 2-3). -/
def decodeMajor0C (w : Nat) : Decoded :=
  match fld w 18 3 with
  | 0 => .instr (.bez (reg5 w 21) (BitVec.ofNat 18 (fld w 0 18)))
  | 1 => .instr (.bnz (reg5 w 21) (BitVec.ofNat 18 (fld w 0 18)))
  | 2 => .instr (.blz (reg5 w 21) (BitVec.ofNat 18 (fld w 0 18)))
  | 3 => .instr (.bgz (reg5 w 21) (BitVec.ofNat 18 (fld w 0 18)))
  | 4 => .instr (.blez (reg5 w 21) (BitVec.ofNat 18 (fld w 0 18)))
  | 5 => .instr (.bgez (reg5 w 21) (BitVec.ofNat 18 (fld w 0 18)))
  | _ => .undef

/-- Major 0x0D (Table 2-3). -/
def decodeMajor0D (w : Nat) : Decoded :=
  .instr (.j (BitVec.ofNat 26 (fld w 0 26)))

/-- Major 0x0E (Table 2-3). -/
def decodeMajor0E (w : Nat) : Decoded :=
  .instr (.jl (BitVec.ofNat 26 (fld w 0 26)))

/-- Major 0x0F (Table 2-3). -/
def decodeMajor0F (w : Nat) : Decoded :=
  match fld w 0 1 with
  | 0 => whenZero w [(21, 5), (11, 5), (1, 10)] (.jr (reg5 w 16))
  | 1 => whenZero w [(11, 5), (1, 10)] (.jlr (reg5 w 21) (reg5 w 16))
  | _ => .undef

/-- Major 0x10 (Table 2-3). -/
def decodeMajor10 (w : Nat) : Decoded :=
  match fld w 13 3 with
  | 0 => whenZero w [(12, 1)] (.ldS8 (reg5 w 21) (reg5 w 16) (BitVec.ofNat 11 (fld w 0 11)) (fld w 11 1 != 0))
  | 1 => whenZero w [(12, 1)] (.ldS16 (reg5 w 21) (reg5 w 16) (BitVec.ofNat 11 (fld w 0 11)) (fld w 11 1 != 0))
  | 2 => whenZero w [(12, 1)] (.ldS32 (reg5 w 21) (reg5 w 16) (BitVec.ofNat 11 (fld w 0 11)) (fld w 11 1 != 0))
  | 3 => whenZero w [(12, 1)] (.ldS64 (reg5 w 21) (reg5 w 16) (BitVec.ofNat 11 (fld w 0 11)) (fld w 11 1 != 0))
  | 4 => whenZero w [(12, 1)] (.ldN8 (reg5 w 21) (reg5 w 16) (BitVec.ofNat 11 (fld w 0 11)) (fld w 11 1 != 0))
  | 5 => whenZero w [(12, 1)] (.ldN16 (reg5 w 21) (reg5 w 16) (BitVec.ofNat 11 (fld w 0 11)) (fld w 11 1 != 0))
  | 6 => whenZero w [(12, 1)] (.ldN32 (reg5 w 21) (reg5 w 16) (BitVec.ofNat 11 (fld w 0 11)) (fld w 11 1 != 0))
  | 7 => whenZero w [(12, 1)] (.ldQ128 (reg5 w 21) (reg5 w 16) (BitVec.ofNat 11 (fld w 0 11)) (fld w 11 1 != 0))
  | _ => .undef

/-- Major 0x11 (Table 2-3). -/
def decodeMajor11 (w : Nat) : Decoded :=
  match fld w 13 3 with
  | 0 => whenZero w [(12, 1)] (.st8 (reg5 w 21) (reg5 w 16) (BitVec.ofNat 11 (fld w 0 11)) (fld w 11 1 != 0))
  | 1 => whenZero w [(12, 1)] (.st16 (reg5 w 21) (reg5 w 16) (BitVec.ofNat 11 (fld w 0 11)) (fld w 11 1 != 0))
  | 2 => whenZero w [(12, 1)] (.st32 (reg5 w 21) (reg5 w 16) (BitVec.ofNat 11 (fld w 0 11)) (fld w 11 1 != 0))
  | 3 => whenZero w [(12, 1)] (.st64 (reg5 w 21) (reg5 w 16) (BitVec.ofNat 11 (fld w 0 11)) (fld w 11 1 != 0))
  | 7 => whenZero w [(12, 1)] (.stQ128 (reg5 w 21) (reg5 w 16) (BitVec.ofNat 11 (fld w 0 11)) (fld w 11 1 != 0))
  | _ => .undef

/-- Major 0x12 (Table 2-3). -/
def decodeMajor12 (w : Nat) : Decoded :=
  match fld w 13 3 with
  | 0 => whenZero w [(11, 2)] (.ldc (reg5 w 21) (reg5 w 16) (BitVec.ofNat 11 (fld w 0 11)))
  | 1 => whenZero w [(11, 2)] (.stc (reg5 w 21) (reg5 w 16) (BitVec.ofNat 11 (fld w 0 11)))
  | _ => .undef

/-- Major 0x13 (Table 2-3). -/
def decodeMajor13 (w : Nat) : Decoded :=
  match fld w 13 3 with
  | 0 => whenZero w [(11, 2)] (.lde (reg5 w 21) (reg5 w 16) (BitVec.ofNat 11 (fld w 0 11)))
  | 1 => whenZero w [(11, 2)] (.ldf (reg5 w 21) (reg5 w 16) (BitVec.ofNat 11 (fld w 0 11)))
  | 2 => whenZero w [(11, 2)] (.stf (reg5 w 21) (reg5 w 16) (BitVec.ofNat 11 (fld w 0 11)))
  | 3 => whenZero w [(11, 2)] (.stx (reg5 w 21) (reg5 w 16) (BitVec.ofNat 11 (fld w 0 11)))
  | 4 => whenZero w [(11, 2)] (.fec (reg5 w 21) (reg5 w 16) (BitVec.ofNat 11 (fld w 0 11)))
  | 5 => whenZero w [(11, 2)] (.feq (reg5 w 21) (reg5 w 16) (BitVec.ofNat 11 (fld w 0 11)))
  | _ => .undef

/-- Major 0x14 (Table 2-3). -/
def decodeMajor14 (w : Nat) : Decoded :=
  match fld w 0 4 with
  | 0 => orUndef (Scope.ofCode (fld w 5 3)) fun sc => orUndef (AOrder.ofCode (fld w 8 2)) fun ord => whenZero w [(10, 1)] (.aadd (reg5 w 21) (reg5 w 16) (reg5 w 11) (fld w 4 1 != 0) sc ord)
  | 1 => orUndef (Scope.ofCode (fld w 5 3)) fun sc => orUndef (AOrder.ofCode (fld w 8 2)) fun ord => whenZero w [(10, 1)] (.aand (reg5 w 21) (reg5 w 16) (reg5 w 11) (fld w 4 1 != 0) sc ord)
  | 2 => orUndef (Scope.ofCode (fld w 5 3)) fun sc => orUndef (AOrder.ofCode (fld w 8 2)) fun ord => whenZero w [(10, 1)] (.aor (reg5 w 21) (reg5 w 16) (reg5 w 11) (fld w 4 1 != 0) sc ord)
  | 3 => orUndef (Scope.ofCode (fld w 5 3)) fun sc => orUndef (AOrder.ofCode (fld w 8 2)) fun ord => whenZero w [(10, 1)] (.axor (reg5 w 21) (reg5 w 16) (reg5 w 11) (fld w 4 1 != 0) sc ord)
  | 4 => orUndef (Scope.ofCode (fld w 5 3)) fun sc => orUndef (AOrder.ofCode (fld w 8 2)) fun ord => whenZero w [(10, 1)] (.amin (reg5 w 21) (reg5 w 16) (reg5 w 11) (fld w 4 1 != 0) sc ord)
  | 5 => orUndef (Scope.ofCode (fld w 5 3)) fun sc => orUndef (AOrder.ofCode (fld w 8 2)) fun ord => whenZero w [(10, 1)] (.amax (reg5 w 21) (reg5 w 16) (reg5 w 11) (fld w 4 1 != 0) sc ord)
  | 6 => orUndef (Scope.ofCode (fld w 5 3)) fun sc => orUndef (AOrder.ofCode (fld w 8 2)) fun ord => whenZero w [(10, 1)] (.aminn (reg5 w 21) (reg5 w 16) (reg5 w 11) (fld w 4 1 != 0) sc ord)
  | 7 => orUndef (Scope.ofCode (fld w 5 3)) fun sc => orUndef (AOrder.ofCode (fld w 8 2)) fun ord => whenZero w [(10, 1)] (.amaxn (reg5 w 21) (reg5 w 16) (reg5 w 11) (fld w 4 1 != 0) sc ord)
  | 8 => orUndef (Scope.ofCode (fld w 5 3)) fun sc => orUndef (AOrder.ofCode (fld w 8 2)) fun ord => whenZero w [(10, 1)] (.aswp (reg5 w 21) (reg5 w 16) (reg5 w 11) (fld w 4 1 != 0) sc ord)
  | 9 => orUndef (Scope.ofCode (fld w 5 3)) fun sc => orUndef (AOrder.ofCode (fld w 8 2)) fun ord => whenZero w [(10, 1)] (.acas (reg5 w 21) (reg5 w 16) (reg5 w 11) (fld w 4 1 != 0) sc ord)
  | 10 => if fld w 4 1 = 1 then .undef else orUndef (Scope.ofCode (fld w 5 3)) fun sc => orUndef (AOrder.ofCode (fld w 8 2)) fun ord => whenZero w [(10, 1)] (.afadd (reg5 w 21) (reg5 w 16) (reg5 w 11) sc ord)
  | _ => .undef

/-- Major 0x15 (Table 2-3). -/
def decodeMajor15 (w : Nat) : Decoded :=
  match fld w 0 3 with
  | 0 => orUndef (Scope.ofCode (fld w 3 3)) fun sc => whenZero w [(21, 5), (16, 5), (11, 5), (10, 1)] (.fence (BitVec.ofNat 4 (fld w 6 4)) sc)
  | 1 => orUndef (Scope.ofCode (fld w 3 3)) fun sc => whenZero w [(11, 5), (6, 5)] (.strel (reg5 w 21) (reg5 w 16) sc)
  | 2 => orUndef (Scope.ofCode (fld w 3 3)) fun sc => whenZero w [(11, 5), (6, 5)] (.ldacq (reg5 w 21) (reg5 w 16) sc)
  | 3 => orUndef (Scope.ofCode (fld w 3 3)) fun sc => whenZero w [(21, 5), (11, 5), (6, 5)] (.sigrst (reg5 w 16) sc)
  | 4 => orUndef (Scope.ofCode (fld w 3 3)) fun sc => whenZero w [(11, 5), (6, 5)] (.sigmrg (reg5 w 21) (reg5 w 16) sc)
  | _ => .undef

/-- Major 0x16 (Table 2-3). -/
def decodeMajor16 (w : Nat) : Decoded :=
  match fld w 0 3 with
  | 0 => whenZero w [(21, 5), (3, 8)] (.pref (reg5 w 16) (reg5 w 11))
  | 1 => whenZero w [(21, 5), (3, 8)] (.cflu (reg5 w 16) (reg5 w 11))
  | 2 => whenZero w [(21, 5), (3, 8)] (.cinv (reg5 w 16) (reg5 w 11))
  | 3 => whenZero w [(21, 5), (3, 8)] (.disc (reg5 w 16) (reg5 w 11))
  | 4 => whenZero w [(3, 8)] (.llck (reg5 w 21) (reg5 w 16) (reg5 w 11))
  | 5 => whenZero w [(3, 8)] (.lulk (reg5 w 21) (reg5 w 16) (reg5 w 11))
  | _ => .undef

/-- Major 0x18 (Table 2-3). -/
def decodeMajor18 (w : Nat) : Decoded :=
  match fld w 0 4 with
  | 0 => whenZero w [(4, 7)] (.tenq (reg5 w 21) (reg5 w 16) (reg5 w 11))
  | 1 => whenZero w [(4, 7)] (.tenqw (reg5 w 21) (reg5 w 16) (reg5 w 11))
  | 2 => whenZero w [(21, 5), (16, 5), (11, 5), (4, 7)] (.tend)
  | 3 => whenZero w [(21, 5), (11, 5), (4, 7)] (.tabt (reg5 w 16))
  | 4 => whenZero w [(21, 5), (16, 5), (11, 5), (4, 7)] (.tirv)
  | 5 => orUndef (finOfNat 2 (fld w 16 5)) fun sel => whenZero w [(11, 5), (4, 7)] (.tvt (reg5 w 21) sel)
  | 6 => whenZero w [(4, 7)] (.csig (reg5 w 21) (reg5 w 16) (reg5 w 11))
  | _ => .undef

/-- Major 0x19 (Table 2-3). -/
def decodeMajor19 (w : Nat) : Decoded :=
  match fld w 0 4 with
  | 0 => whenZero w [(16, 5), (11, 5), (4, 7)] (.garr (reg5 w 21))
  | 1 => whenZero w [(16, 5), (11, 5), (4, 7)] (.gwait (reg5 w 21))
  | 2 => whenZero w [(16, 5), (11, 5), (4, 7)] (.gsync (reg5 w 21))
  | 3 => whenZero w [(21, 5), (11, 5), (4, 7)] (.gexp (reg5 w 16))
  | 4 => orUndef (finOfNat 5 (fld w 16 5)) fun sel => whenZero w [(11, 5), (4, 7)] (.grank (reg5 w 21) sel)
  | _ => .undef

/-- Major 0x1A (Table 2-3). -/
def decodeMajor1A (w : Nat) : Decoded :=
  match fld w 6 5 with
  | 0 => orUndef (finOfNat 15 (fld w 2 4)) fun slot => orUndef (Dir.ofCode (fld w 0 2)) fun dir => .instr (.rput (reg5 w 21) (reg5 w 16) (reg5 w 11) slot dir)
  | 1 => whenZero w [(16, 5), (11, 5), (0, 6)] (.rtake (reg5 w 21))
  | 2 => whenZero w [(11, 5), (0, 6)] (.rpres (reg5 w 21) (reg5 w 16))
  | _ => .undef

/-- Major 0x20, selector 6: the second selector (Table 2-3). -/
def decodeMajor20Sel6 (w : Nat) : Decoded :=
  match fld w 6 3 with
  | 0 => orUndef (VType.ofCode (fld w 3 3)) fun t => if vtFloat (fld w 3 3) && fld w 9 1 != 0 then .rsvd else whenZero w [(10, 1)] (.vmin (reg5 w 21) (reg5 w 16) (reg5 w 11) t (fld w 9 1 != 0))
  | 1 => orUndef (VType.ofCode (fld w 3 3)) fun t => if vtFloat (fld w 3 3) && fld w 9 1 != 0 then .rsvd else whenZero w [(10, 1)] (.vmax (reg5 w 21) (reg5 w 16) (reg5 w 11) t (fld w 9 1 != 0))
  | 2 => orUndef (VType.ofCode (fld w 3 3)) fun t => if vtFloat (fld w 3 3) && fld w 9 1 != 0 then .rsvd else whenZero w [(11, 5), (10, 1)] (.vabs (reg5 w 21) (reg5 w 16) t (fld w 9 1 != 0))
  | 3 => orUndef (VType.ofCode (fld w 3 3)) fun t => if vtFloat (fld w 3 3) && fld w 9 1 != 0 then .rsvd else whenZero w [(11, 5), (10, 1)] (.vneg (reg5 w 21) (reg5 w 16) t (fld w 9 1 != 0))
  | 4 => orUndef (FType.ofCode (fld w 3 3)) fun t => whenZero w [(9, 2)] (.vdiv (reg5 w 21) (reg5 w 16) (reg5 w 11) t)
  | 5 => orUndef (FType.ofCode (fld w 3 3)) fun t => whenZero w [(11, 5), (9, 2)] (.vrsq (reg5 w 21) (reg5 w 16) t)
  | 6 => orUndef (VType.ofCode (fld w 3 3)) fun t => if vtFloat (fld w 3 3) && fld w 9 1 != 0 then .rsvd else whenZero w [(10, 1)] (.vreda (reg5 w 21) (reg5 w 16) (reg5 w 11) t (fld w 9 1 != 0))
  | 7 => orUndef (VType.ofCode (fld w 3 3)) fun t => if vtFloat (fld w 3 3) && fld w 9 1 != 0 then .rsvd else whenZero w [(10, 1)] (.vredm (reg5 w 21) (reg5 w 16) (reg5 w 11) t (fld w 9 1 != 0))
  | _ => .undef

/-- Major 0x20 (Table 2-3). -/
def decodeMajor20 (w : Nat) : Decoded :=
  match fld w 0 3 with
  | 0 => orUndef (VType.ofCode (fld w 3 3)) fun t => orUndef (SatMode.ofCode (fld w 6 2)) fun mode => if vtFloat (fld w 3 3) && fld w 6 2 != 0 then .rsvd else whenZero w [(8, 3)] (.vadd (reg5 w 21) (reg5 w 16) (reg5 w 11) t mode)
  | 1 => orUndef (VType.ofCode (fld w 3 3)) fun t => orUndef (SatMode.ofCode (fld w 6 2)) fun mode => if vtFloat (fld w 3 3) && fld w 6 2 != 0 then .rsvd else whenZero w [(8, 3)] (.vsub (reg5 w 21) (reg5 w 16) (reg5 w 11) t mode)
  | 2 => orUndef (VType.ofCode (fld w 3 3)) fun t => orUndef (SatMode.ofCode (fld w 6 2)) fun mode => if vtFloat (fld w 3 3) && fld w 6 2 != 0 then .rsvd else whenZero w [(8, 3)] (.vmul (reg5 w 21) (reg5 w 16) (reg5 w 11) t mode)
  | 3 => orUndef (VType.ofCode (fld w 3 3)) fun t => .instr (.vfma (reg5 w 21) (reg5 w 16) (reg5 w 11) (reg5 w 6) t)
  | 4 => orUndef (VType.ofCode (fld w 3 3)) fun t => .instr (.vfms (reg5 w 21) (reg5 w 16) (reg5 w 11) (reg5 w 6) t)
  | 5 => orUndef (VType.dotOfCode (fld w 3 3)) fun t => .instr (.vdot (reg5 w 21) (reg5 w 16) (reg5 w 11) (reg5 w 6) t)
  | 6 => decodeMajor20Sel6 w
  | 7 => if fld w 6 3 ≥ 6 ∧ vtFloat (fld w 3 3) = false then .undef else orUndef (VType.ofCode (fld w 3 3)) fun t => orUndef (Pred.ofCode (fld w 6 3)) fun p => if vtFloat (fld w 3 3) && fld w 9 1 != 0 then .rsvd else whenZero w [(10, 1)] (.vcmp (reg5 w 21) (reg5 w 16) (reg5 w 11) t p (fld w 9 1 != 0))
  | _ => .undef

/-- Major 0x21, selector 5: the second selector (Table 2-3). -/
def decodeMajor21Sel5 (w : Nat) : Decoded :=
  match fld w 6 2 with
  | 0 => orUndef (VType.ofCode (fld w 3 3)) fun t => whenZero w [(8, 3)] (.vshl (reg5 w 21) (reg5 w 16) (reg5 w 11) t)
  | 1 => orUndef (VType.ofCode (fld w 3 3)) fun t => whenZero w [(8, 3)] (.vshr (reg5 w 21) (reg5 w 16) (reg5 w 11) t)
  | 2 => orUndef (VType.ofCode (fld w 3 3)) fun t => whenZero w [(8, 3)] (.vsha (reg5 w 21) (reg5 w 16) (reg5 w 11) t)
  | _ => .undef

/-- Major 0x21, selector 7: the second selector (Table 2-3). -/
def decodeMajor21Sel7 (w : Nat) : Decoded :=
  match fld w 11 5 with
  | 0 => orUndef (VType.ofCode (fld w 3 3)) fun t => if fld w 6 5 ≥ vtLanes (fld w 3 3) then .rsvd else .instr (.vins (reg5 w 21) (reg5 w 16) t (reg5 w 6))
  | 1 => orUndef (VType.ofCode (fld w 3 3)) fun t => if fld w 6 5 ≥ vtLanes (fld w 3 3) || vtFloat (fld w 3 3) then .rsvd else .instr (.vextSigned (reg5 w 21) (reg5 w 16) t (reg5 w 6))
  | 2 => orUndef (VType.ofCode (fld w 3 3)) fun t => if fld w 6 5 ≥ vtLanes (fld w 3 3) then .rsvd else .instr (.vextNatural (reg5 w 21) (reg5 w 16) t (reg5 w 6))
  | _ => .undef

/-- Major 0x21 (Table 2-3). -/
def decodeMajor21 (w : Nat) : Decoded :=
  match fld w 0 3 with
  | 0 => whenZero w [(6, 5), (3, 3)] (.vand (reg5 w 21) (reg5 w 16) (reg5 w 11))
  | 1 => whenZero w [(6, 5), (3, 3)] (.vor (reg5 w 21) (reg5 w 16) (reg5 w 11))
  | 2 => whenZero w [(6, 5), (3, 3)] (.vxor (reg5 w 21) (reg5 w 16) (reg5 w 11))
  | 3 => whenZero w [(3, 3)] (.vsel (reg5 w 21) (reg5 w 16) (reg5 w 11) (reg5 w 6))
  | 4 => whenZero w [(3, 3)] (.vperm (reg5 w 21) (reg5 w 16) (reg5 w 11) (reg5 w 6))
  | 5 => decodeMajor21Sel5 w
  | 6 => orUndef (VType.ofCode (fld w 3 3)) fun t => if fld w 6 5 ≥ vtLanes (fld w 3 3) then .rsvd else whenZero w [(11, 5)] (.vsplt (reg5 w 21) (reg5 w 16) t (reg5 w 6))
  | 7 => decodeMajor21Sel7 w
  | _ => .undef

/-- Major 0x22, selector 3: the second selector (Table 2-3). -/
def decodeMajor22Sel3 (w : Nat) : Decoded :=
  match fld w 6 2 with
  | 0 => orUndef (FType.ofCode (fld w 3 3)) fun t => whenZero w [(8, 3)] (.vscl (reg5 w 21) (reg5 w 16) (reg5 w 11) t)
  | 1 => orUndef (FType.ofCode (fld w 3 3)) fun t => whenZero w [(8, 3)] (.vsclE8m0 (reg5 w 21) (reg5 w 16) (reg5 w 11) t)
  | 2 => orUndef (FType.ofCode (fld w 3 3)) fun t => whenZero w [(11, 5), (8, 3)] (.vsclSca (reg5 w 21) (reg5 w 16) t)
  | 3 => orUndef (FType.ofCode (fld w 3 3)) fun t => whenZero w [(11, 5), (8, 3)] (.vsclScb (reg5 w 21) (reg5 w 16) t)
  | _ => .undef

/-- Major 0x22 (Table 2-3). -/
def decodeMajor22 (w : Nat) : Decoded :=
  match fld w 0 3 with
  | 0 => orUndef (NumType.ofCode (fld w 11 5)) fun dt => orUndef (NumType.ofCode (fld w 6 5)) fun st => whenZero w [(3, 3)] (.vcvt (reg5 w 21) (reg5 w 16) dt st)
  | 1 => orUndef (FType.ofCode (fld w 3 3)) fun t => whenZero w [(11, 5), (9, 2)] (.vdec (reg5 w 21) (reg5 w 16) t (Fin.ofNat 4 (fld w 6 2)) (fld w 8 1 != 0))
  | 2 => orUndef (FType.ofCode (fld w 3 3)) fun t => whenZero w [(11, 5), (9, 2)] (.venc (reg5 w 21) (reg5 w 16) t (Fin.ofNat 4 (fld w 6 2)) (fld w 8 1 != 0))
  | 3 => decodeMajor22Sel3 w
  | 4 => orUndef (FType.ofCode (fld w 3 3)) fun t => whenZero w [(11, 5), (6, 5)] (.fcls (reg5 w 21) (reg5 w 16) t)
  | _ => .undef

/-- Major 0x23, selector 1: the second selector (Table 2-3). -/
def decodeMajor23Sel1 (w : Nat) : Decoded :=
  match fld w 16 5 with
  | 31 => whenZero w [(11, 5), (2, 4)] (.tbcfQuery (reg5 w 21) (Fin.ofNat 4 (fld w 0 2)))
  | _ => orUndef (finOfNat 5 (fld w 16 5)) fun k => whenZero w [(11, 5), (2, 4)] (.tbcf (reg5 w 21) k (Fin.ofNat 4 (fld w 0 2)))

/-- Major 0x23 (Table 2-3). -/
def decodeMajor23 (w : Nat) : Decoded :=
  match fld w 6 5 with
  | 0 => whenZero w [(11, 5), (2, 4)] (.tbld (reg5 w 21) (reg5 w 16) (Fin.ofNat 4 (fld w 0 2)))
  | 1 => decodeMajor23Sel1 w
  | _ => .undef

/-- Major 0x28, selector 0: the second selector (Table 2-3). -/
def decodeMajor28Sel0 (w : Nat) : Decoded :=
  match fld w 5 1 with
  | 0 => whenZero w [(21, 5), (0, 5)] (.mldb (reg5 w 16) (reg5 w 11))
  | 1 => whenZero w [(21, 5), (16, 5), (11, 5)] (.mldbTile (reg5 w 0))
  | _ => .undef

/-- Major 0x28 (Table 2-3). -/
def decodeMajor28 (w : Nat) : Decoded :=
  match fld w 6 5 with
  | 0 => decodeMajor28Sel0 w
  | 1 => whenZero w [(11, 5), (0, 6)] (.mgeo (reg5 w 21) (reg5 w 16))
  | 2 => whenZero w [(11, 5), (0, 6)] (.manc (reg5 w 21) (reg5 w 16))
  | 3 => whenZero w [(25, 1), (15, 1), (5, 1)] (.mmv (Fin.ofNat 16 (fld w 21 4)) (reg5 w 16) (Fin.ofNat 16 (fld w 11 4)) (reg5 w 0))
  | 4 => whenZero w [(25, 1), (15, 1), (5, 1)] (.mmvs (Fin.ofNat 16 (fld w 21 4)) (reg5 w 16) (Fin.ofNat 16 (fld w 11 4)) (reg5 w 0))
  | 5 => whenZero w [(25, 1), (16, 5), (15, 1)] (.mrd (reg5 w 0) (Fin.ofNat 16 (fld w 21 4)) (Fin.ofNat 16 (fld w 11 4)) (fld w 5 1 != 0))
  | 6 => whenZero w [(25, 1), (16, 5), (15, 1), (0, 6)] (.mclr (Fin.ofNat 16 (fld w 21 4)) (Fin.ofNat 16 (fld w 11 4)))
  | 7 => whenZero w [(0, 6)] (.mcmd (reg5 w 21) (reg5 w 16) (reg5 w 11))
  | 8 => whenZero w [(16, 5), (4, 2)] (.msta (reg5 w 21) (Fin.ofNat 16 (fld w 0 4)) (reg5 w 11))
  | 9 => whenZero w [(21, 5), (16, 5), (11, 5), (0, 6)] (.msync)
  | _ => .undef

/-- Major 0x29, selector 2: the second selector (Table 2-3). -/
def decodeMajor29Sel2 (w : Nat) : Decoded :=
  match fld w 0 1 with
  | 0 => whenZero w [(11, 5), (1, 5)] (.adrn (reg5 w 21) (reg5 w 16))
  | 1 => whenZero w [(11, 5), (1, 5)] (.adrnNw (reg5 w 21) (reg5 w 16))
  | _ => .undef

/-- Major 0x29, selector 4: the second selector (Table 2-3). -/
def decodeMajor29Sel4 (w : Nat) : Decoded :=
  match fld w 0 2 with
  | 0 => whenZero w [(16, 5), (11, 5), (2, 4)] (.arsn (reg5 w 21))
  | 1 => whenZero w [(16, 5), (11, 5), (2, 4)] (.arsnNw (reg5 w 21))
  | 2 => whenZero w [(16, 5), (11, 5), (2, 4)] (.arsnDrop (reg5 w 21))
  | _ => .undef

/-- Major 0x29, selector 5: the second selector (Table 2-3). -/
def decodeMajor29Sel5 (w : Nat) : Decoded :=
  match fld w 0 3 with
  | 0 => whenZero w [(16, 5), (11, 5), (3, 3)] (.astaOutbox (reg5 w 21))
  | 1 => whenZero w [(11, 5), (3, 3)] (.astaChain (reg5 w 21) (reg5 w 16))
  | _ => .undef

/-- Major 0x29 (Table 2-3). -/
def decodeMajor29 (w : Nat) : Decoded :=
  match fld w 6 5 with
  | 0 => whenZero w [(1, 5)] (.achn (reg5 w 21) (reg5 w 16) (reg5 w 11) (fld w 0 1 != 0))
  | 1 => whenZero w [(25, 1), (5, 1)] (.asnd (Fin.ofNat 16 (fld w 21 4)) (Fin.ofNat 16 (fld w 0 4)) (reg5 w 16) (reg5 w 11) (fld w 4 1 != 0))
  | 2 => decodeMajor29Sel2 w
  | 3 => whenZero w [(11, 5), (0, 6)] (.acls (reg5 w 21) (reg5 w 16))
  | 4 => decodeMajor29Sel4 w
  | 5 => decodeMajor29Sel5 w
  | _ => .undef

/-- Major 0x2C (Table 2-3). -/
def decodeMajor2C (w : Nat) : Decoded :=
  match fld w 6 5 with
  | 0 => whenZero w [(5, 1)] (.xfer (reg5 w 21) (reg5 w 16) (reg5 w 11) (reg5 w 0))
  | 1 => whenZero w [(5, 1)] (.xferb (reg5 w 21) (reg5 w 16) (reg5 w 11) (reg5 w 0))
  | 2 => whenZero w [(5, 1)] (.getx (reg5 w 21) (reg5 w 16) (reg5 w 11) (reg5 w 0))
  | 3 => whenZero w [(5, 1)] (.putx (reg5 w 21) (reg5 w 16) (reg5 w 11) (reg5 w 0))
  | 4 => whenZero w [(11, 5), (3, 3)] (.cwait (reg5 w 21) (Fin.ofNat 8 (fld w 0 3)) (reg5 w 16))
  | 5 => whenZero w [(16, 5), (11, 5), (4, 2)] (.crd (reg5 w 21) (Fin.ofNat 8 (fld w 0 3)) (fld w 3 1 != 0))
  | 6 => orUndef (nzOfNat (fld w 0 3)) fun k => whenZero w [(21, 5), (11, 5), (3, 3)] (.lhnd (reg5 w 16) k)
  | 7 => whenZero w [(21, 5), (16, 5), (11, 5), (0, 6)] (.lret)
  | _ => .undef

/-- Major 0x2D, selector 1: the second selector (Table 2-3). -/
def decodeMajor2DSel1 (w : Nat) : Decoded :=
  match fld w 11 5 with
  | 0 => whenZero w [(16, 5), (5, 1)] (.tlstQuery (reg5 w 21) (reg5 w 0))
  | 1 => whenZero w [(16, 5), (5, 1)] (.tlstReady (reg5 w 21) (reg5 w 0))
  | 2 => whenZero w [(16, 5), (5, 1)] (.tlstEmpty (reg5 w 21) (reg5 w 0))
  | _ => .undef

/-- Major 0x2D (Table 2-3). -/
def decodeMajor2D (w : Nat) : Decoded :=
  match fld w 6 5 with
  | 0 => whenZero w [(21, 5)] (.tldef (reg5 w 0) (reg5 w 16) (reg5 w 11) (fld w 5 1 != 0))
  | 1 => decodeMajor2DSel1 w
  | 2 => whenZero w [(21, 5), (16, 5), (11, 5), (5, 1)] (.tlrel (reg5 w 0))
  | _ => .undef

/-- Major 0x2E (Table 2-3). -/
def decodeMajor2E (w : Nat) : Decoded :=
  match fld w 6 5 with
  | 0 => whenZero w [(16, 5), (5, 1)] (.caml (reg5 w 21) (reg5 w 0) (reg5 w 11))
  | 1 => whenZero w [(5, 1)] (.camp (reg5 w 21) (reg5 w 0) (reg5 w 16) (reg5 w 11))
  | 2 => whenZero w [(11, 5), (0, 6)] (.camc (reg5 w 21) (reg5 w 16))
  | 3 => whenZero w [(5, 1)] (.getr (reg5 w 21) (reg5 w 16) (reg5 w 11) (reg5 w 0))
  | 4 => whenZero w [(11, 5), (0, 6)] (.spcf (reg5 w 21) (reg5 w 16))
  | _ => .undef

/-- Major 0x2F (Table 2-3). -/
def decodeMajor2F (w : Nat) : Decoded :=
  match fld w 6 5 with
  | 0 => whenZero w [(0, 6)] (.subj (reg5 w 21) (reg5 w 16) (reg5 w 11))
  | 1 => whenZero w [(16, 5), (0, 6)] (.subl (reg5 w 21) (reg5 w 11))
  | 2 => whenZero w [(0, 6)] (.sopn (reg5 w 21) (reg5 w 16) (reg5 w 11))
  | 3 => whenZero w [(1, 5)] (.ssnd (reg5 w 21) (fld w 0 1 != 0) (reg5 w 16) (reg5 w 11))
  | 4 => whenZero w [(16, 5), (11, 5), (1, 5)] (.scls (reg5 w 21) (fld w 0 1 != 0))
  | _ => .undef

/-- Major 0x30, selector 6: the second selector (Table 2-3). -/
def decodeMajor30Sel6 (w : Nat) : Decoded :=
  match fld w 4 2 with
  | 0 => orUndef (finOfNat 12 (fld w 6 4)) fun size => whenZero w [(21, 5), (10, 6)] (.tlbiPg (reg5 w 16) size)
  | 1 => whenZero w [(21, 5), (16, 5), (6, 10)] (.tlbiAll)
  | 2 => whenZero w [(21, 5), (6, 10)] (.tlbiWake (reg5 w 16))
  | _ => .undef

/-- Major 0x30, selector 10: the second selector (Table 2-3). -/
def decodeMajor30Sel10 (w : Nat) : Decoded :=
  match fld w 4 2 with
  | 0 => whenZero w [(6, 10)] (.cntnContain (reg5 w 21) (reg5 w 16))
  | 1 => whenZero w [(6, 10)] (.cntnRelease (reg5 w 21) (reg5 w 16))
  | 2 => whenZero w [(6, 10)] (.cntnQuery (reg5 w 21) (reg5 w 16))
  | _ => .undef

/-- Major 0x30, selector 11: the second selector (Table 2-3). -/
def decodeMajor30Sel11 (w : Nat) : Decoded :=
  match fld w 4 2 with
  | 0 => whenZero w [(6, 10)] (.dupc (reg5 w 21) (reg5 w 16))
  | 1 => whenZero w [(6, 10)] (.dupcClear (reg5 w 21) (reg5 w 16))
  | _ => .undef

/-- Major 0x30 (Table 2-3). -/
def decodeMajor30 (w : Nat) : Decoded :=
  match fld w 0 4 with
  | 0 => whenZero w [(21, 5), (16, 5)] (.sysc (BitVec.ofNat 12 (fld w 4 12)))
  | 1 => whenZero w [(21, 5)] (.trap (reg5 w 16) (BitVec.ofNat 12 (fld w 4 12)))
  | 2 => whenZero w [(21, 5), (16, 5)] (.brk (BitVec.ofNat 12 (fld w 4 12)))
  | 3 => whenZero w [(21, 5), (16, 5), (4, 12)] (.eret)
  | 4 => whenZero w [(4, 12)] (.prmt (reg5 w 21) (reg5 w 16))
  | 5 => whenZero w [(4, 12)] (.rsum (reg5 w 21) (reg5 w 16))
  | 6 => decodeMajor30Sel6 w
  | 7 => whenZero w [(14, 2)] (.pmig (reg5 w 21) (reg5 w 16) (BitVec.ofNat 10 (fld w 4 10)))
  | 8 => whenZero w [(16, 5), (4, 12)] (.halt (reg5 w 21))
  | 9 => whenZero w [(21, 5), (16, 5), (4, 12)] (.fencei)
  | 10 => decodeMajor30Sel10 w
  | 11 => decodeMajor30Sel11 w
  | _ => .undef

/-- Major 0x31 (Table 2-3). -/
def decodeMajor31 (w : Nat) : Decoded :=
  match fld w 0 4 with
  | 0 => orUndef (Csr.ofCode (fld w 4 12)) fun csr => whenZero w [(16, 5)] (.csrr (reg5 w 21) csr)
  | 1 => orUndef (Csr.ofCode (fld w 4 12)) fun csr => .instr (.csrw (reg5 w 21) csr (reg5 w 16))
  | 2 => if fld w 4 12 = 4 ∨ fld w 4 12 = 5 then .undef else orUndef (Csr.ofCode (fld w 4 12)) fun csr => .instr (.csrs (reg5 w 21) csr (reg5 w 16))
  | 3 => if fld w 4 12 = 4 ∨ fld w 4 12 = 5 then .undef else orUndef (Csr.ofCode (fld w 4 12)) fun csr => .instr (.csrc (reg5 w 21) csr (reg5 w 16))
  | _ => .undef

/-- Major 0x32 (Table 2-3). -/
def decodeMajor32 (w : Nat) : Decoded :=
  match fld w 0 4 with
  | 0 => whenZero w [(5, 11)] (.snap (reg5 w 21) (reg5 w 16) (fld w 4 1 != 0))
  | 1 => whenZero w [(4, 12)] (.snpw (reg5 w 21) (reg5 w 16))
  | 2 => whenZero w [(4, 12)] (.snpq (reg5 w 21) (reg5 w 16))
  | 3 => whenZero w [(4, 12)] (.rbck (reg5 w 21) (reg5 w 16))
  | _ => .undef

/-- Major 0x3F (Table 2-3). -/
def decodeMajor3F (w : Nat) : Decoded :=
  match fld w 23 3 with
  | 0 => .instr (.rpt (Fin.ofNat 16 (fld w 19 4)) (Fin.ofNat 128 (fld w 12 7)) (BitVec.ofNat 3 (fld w 9 3)) (BitVec.ofNat 3 (fld w 6 3)) (BitVec.ofNat 3 (fld w 3 3)) (BitVec.ofNat 3 (fld w 0 3)))
  | 1 => whenZero w [(0, 23)] (.elect)
  | _ => .undef

/-- The instruction that a 32-bit word is, or why it is none: UNDEF before RSVD (R36, steps 2 and 3). -/
def decode (w : Nat) : Decoded :=
  match fld w 26 6 with
  | 0x01 => decodeMajor01 w
  | 0x02 => decodeMajor02 w
  | 0x03 => decodeMajor03 w
  | 0x04 => decodeMajor04 w
  | 0x05 => decodeMajor05 w
  | 0x06 => decodeMajor06 w
  | 0x07 => decodeMajor07 w
  | 0x08 => decodeMajor08 w
  | 0x09 => decodeMajor09 w
  | 0x0A => decodeMajor0A w
  | 0x0B => decodeMajor0B w
  | 0x0C => decodeMajor0C w
  | 0x0D => decodeMajor0D w
  | 0x0E => decodeMajor0E w
  | 0x0F => decodeMajor0F w
  | 0x10 => decodeMajor10 w
  | 0x11 => decodeMajor11 w
  | 0x12 => decodeMajor12 w
  | 0x13 => decodeMajor13 w
  | 0x14 => decodeMajor14 w
  | 0x15 => decodeMajor15 w
  | 0x16 => decodeMajor16 w
  | 0x18 => decodeMajor18 w
  | 0x19 => decodeMajor19 w
  | 0x1A => decodeMajor1A w
  | 0x20 => decodeMajor20 w
  | 0x21 => decodeMajor21 w
  | 0x22 => decodeMajor22 w
  | 0x23 => decodeMajor23 w
  | 0x28 => decodeMajor28 w
  | 0x29 => decodeMajor29 w
  | 0x2C => decodeMajor2C w
  | 0x2D => decodeMajor2D w
  | 0x2E => decodeMajor2E w
  | 0x2F => decodeMajor2F w
  | 0x30 => decodeMajor30 w
  | 0x31 => decodeMajor31 w
  | 0x32 => decodeMajor32 w
  | 0x3F => decodeMajor3F w
  | _ => .undef

/-- A word: the fixed bits of its row and each field's value at its lowest bit (Table 2-1). -/
def packWord (base : Nat) (fields : List (Nat × Nat)) : Nat := fields.foldr (fun f acc => f.1 * 2 ^ f.2 + acc) base

/-- The word of an instruction, as a natural number, written from the layouts of Table 2-1; 0 for an event, which has none. -/
def encodeNat : Instr → Nat
  | .add d a b => packWord 0x04000000 [(d.val, 21), (a.val, 16), (b.val, 11)]
  | .sub d a b => packWord 0x04000001 [(d.val, 21), (a.val, 16), (b.val, 11)]
  | .mul d a b => packWord 0x04000002 [(d.val, 21), (a.val, 16), (b.val, 11)]
  | .mulh d a b => packWord 0x04000003 [(d.val, 21), (a.val, 16), (b.val, 11)]
  | .mulhn d a b => packWord 0x04000004 [(d.val, 21), (a.val, 16), (b.val, 11)]
  | .div d a b => packWord 0x04000005 [(d.val, 21), (a.val, 16), (b.val, 11)]
  | .divn d a b => packWord 0x04000006 [(d.val, 21), (a.val, 16), (b.val, 11)]
  | .rem d a b => packWord 0x04000007 [(d.val, 21), (a.val, 16), (b.val, 11)]
  | .remn d a b => packWord 0x04000008 [(d.val, 21), (a.val, 16), (b.val, 11)]
  | .and d a b => packWord 0x04000009 [(d.val, 21), (a.val, 16), (b.val, 11)]
  | .or d a b => packWord 0x0400000A [(d.val, 21), (a.val, 16), (b.val, 11)]
  | .xor d a b => packWord 0x0400000B [(d.val, 21), (a.val, 16), (b.val, 11)]
  | .andn d a b => packWord 0x0400000C [(d.val, 21), (a.val, 16), (b.val, 11)]
  | .shl d a b => packWord 0x0400000D [(d.val, 21), (a.val, 16), (b.val, 11)]
  | .shr d a b => packWord 0x0400000E [(d.val, 21), (a.val, 16), (b.val, 11)]
  | .sha d a b => packWord 0x0400000F [(d.val, 21), (a.val, 16), (b.val, 11)]
  | .rotr d a b => packWord 0x04000010 [(d.val, 21), (a.val, 16), (b.val, 11)]
  | .clz d a => packWord 0x04000011 [(d.val, 21), (a.val, 16)]
  | .ctz d a => packWord 0x04000012 [(d.val, 21), (a.val, 16)]
  | .popc d a => packWord 0x04000013 [(d.val, 21), (a.val, 16)]
  | .min d a b => packWord 0x04000014 [(d.val, 21), (a.val, 16), (b.val, 11)]
  | .max d a b => packWord 0x04000015 [(d.val, 21), (a.val, 16), (b.val, 11)]
  | .minn d a b => packWord 0x04000016 [(d.val, 21), (a.val, 16), (b.val, 11)]
  | .maxn d a b => packWord 0x04000017 [(d.val, 21), (a.val, 16), (b.val, 11)]
  | .seq d a b => packWord 0x04000018 [(d.val, 21), (a.val, 16), (b.val, 11)]
  | .sne d a b => packWord 0x04000019 [(d.val, 21), (a.val, 16), (b.val, 11)]
  | .slt d a b => packWord 0x0400001A [(d.val, 21), (a.val, 16), (b.val, 11)]
  | .sltn d a b => packWord 0x0400001B [(d.val, 21), (a.val, 16), (b.val, 11)]
  | .sle d a b => packWord 0x0400001C [(d.val, 21), (a.val, 16), (b.val, 11)]
  | .slen d a b => packWord 0x0400001D [(d.val, 21), (a.val, 16), (b.val, 11)]
  | .sel d a b c => packWord 0x0400001E [(d.val, 21), (a.val, 16), (b.val, 11), (c.val, 6)]
  | .extb d a b => packWord 0x0400001F [(d.val, 21), (a.val, 16), (b.val, 11)]
  | .extbn d a b => packWord 0x04000020 [(d.val, 21), (a.val, 16), (b.val, 11)]
  | .insb d a b => packWord 0x04000021 [(d.val, 21), (a.val, 16), (b.val, 11)]
  | .addi d a imm => packWord 0x08000000 [(d.val, 21), (a.val, 16), (imm.toNat, 0)]
  | .andi d a imm => packWord 0x0C000000 [(d.val, 21), (a.val, 16), (imm.toNat, 0)]
  | .ori d a imm => packWord 0x10000000 [(d.val, 21), (a.val, 16), (imm.toNat, 0)]
  | .xori d a imm => packWord 0x14000000 [(d.val, 21), (a.val, 16), (imm.toNat, 0)]
  | .slti d a imm => packWord 0x18000000 [(d.val, 21), (a.val, 16), (imm.toNat, 0)]
  | .shli d a n => packWord 0x1C000000 [(d.val, 21), (a.val, 16), (n.val, 0)]
  | .shri d a n => packWord 0x1C000040 [(d.val, 21), (a.val, 16), (n.val, 0)]
  | .shai d a n => packWord 0x1C000080 [(d.val, 21), (a.val, 16), (n.val, 0)]
  | .lih d imm => packWord 0x20000000 [(d.val, 21), (imm.toNat, 0)]
  | .lihh d imm => packWord 0x20010000 [(d.val, 21), (imm.toNat, 0)]
  | .cgadr d a => packWord 0x24000000 [(d.val, 21), (a.val, 16)]
  | .csadr d a b => packWord 0x24000001 [(d.val, 21), (a.val, 16), (b.val, 11)]
  | .cinc d a b => packWord 0x24000002 [(d.val, 21), (a.val, 16), (b.val, 11)]
  | .cbnd d a b => packWord 0x24000003 [(d.val, 21), (a.val, 16), (b.val, 11)]
  | .cbndx d a b => packWord 0x24000004 [(d.val, 21), (a.val, 16), (b.val, 11)]
  | .candp d a b => packWord 0x24000005 [(d.val, 21), (a.val, 16), (b.val, 11)]
  | .cseal d a b => packWord 0x24000006 [(d.val, 21), (a.val, 16), (b.val, 11)]
  | .cunsl d a b => packWord 0x24000007 [(d.val, 21), (a.val, 16), (b.val, 11)]
  | .cgbas d a => packWord 0x24000008 [(d.val, 21), (a.val, 16)]
  | .cglen d a => packWord 0x24000009 [(d.val, 21), (a.val, 16)]
  | .cgprm d a => packWord 0x2400000A [(d.val, 21), (a.val, 16)]
  | .cgtyp d a => packWord 0x2400000B [(d.val, 21), (a.val, 16)]
  | .cgtag d a => packWord 0x2400000C [(d.val, 21), (a.val, 16)]
  | .cclrt d a => packWord 0x2400000D [(d.val, 21), (a.val, 16)]
  | .cmov d a => packWord 0x2400000E [(d.val, 21), (a.val, 16)]
  | .csub d a b => packWord 0x2400000F [(d.val, 21), (a.val, 16), (b.val, 11)]
  | .ctsub d a b => packWord 0x24000010 [(d.val, 21), (a.val, 16), (b.val, 11)]
  | .cjr a => packWord 0x24000011 [(a.val, 16)]
  | .cjlr d a => packWord 0x24000012 [(d.val, 21), (a.val, 16)]
  | .csent d a => packWord 0x24000013 [(d.val, 21), (a.val, 16)]
  | .cinci d a imm => packWord 0x28000000 [(d.val, 21), (a.val, 16), (imm.toNat, 0)]
  | .beq a b disp => packWord 0x2C000000 [(a.val, 21), (b.val, 16), (disp.toNat, 0)]
  | .bne a b disp => packWord 0x2C001000 [(a.val, 21), (b.val, 16), (disp.toNat, 0)]
  | .blt a b disp => packWord 0x2C002000 [(a.val, 21), (b.val, 16), (disp.toNat, 0)]
  | .bge a b disp => packWord 0x2C003000 [(a.val, 21), (b.val, 16), (disp.toNat, 0)]
  | .bltn a b disp => packWord 0x2C004000 [(a.val, 21), (b.val, 16), (disp.toNat, 0)]
  | .bgen a b disp => packWord 0x2C005000 [(a.val, 21), (b.val, 16), (disp.toNat, 0)]
  | .bez a disp => packWord 0x30000000 [(a.val, 21), (disp.toNat, 0)]
  | .bnz a disp => packWord 0x30040000 [(a.val, 21), (disp.toNat, 0)]
  | .blz a disp => packWord 0x30080000 [(a.val, 21), (disp.toNat, 0)]
  | .bgz a disp => packWord 0x300C0000 [(a.val, 21), (disp.toNat, 0)]
  | .blez a disp => packWord 0x30100000 [(a.val, 21), (disp.toNat, 0)]
  | .bgez a disp => packWord 0x30140000 [(a.val, 21), (disp.toNat, 0)]
  | .j disp => packWord 0x34000000 [(disp.toNat, 0)]
  | .jl disp => packWord 0x38000000 [(disp.toNat, 0)]
  | .jr a => packWord 0x3C000000 [(a.val, 16)]
  | .jlr d a => packWord 0x3C000001 [(d.val, 21), (a.val, 16)]
  | .ldS8 d base off rx => packWord 0x40000000 [(d.val, 21), (base.val, 16), (off.toNat, 0), (rx.toNat, 11)]
  | .ldS16 d base off rx => packWord 0x40002000 [(d.val, 21), (base.val, 16), (off.toNat, 0), (rx.toNat, 11)]
  | .ldS32 d base off rx => packWord 0x40004000 [(d.val, 21), (base.val, 16), (off.toNat, 0), (rx.toNat, 11)]
  | .ldS64 d base off rx => packWord 0x40006000 [(d.val, 21), (base.val, 16), (off.toNat, 0), (rx.toNat, 11)]
  | .ldN8 d base off rx => packWord 0x40008000 [(d.val, 21), (base.val, 16), (off.toNat, 0), (rx.toNat, 11)]
  | .ldN16 d base off rx => packWord 0x4000A000 [(d.val, 21), (base.val, 16), (off.toNat, 0), (rx.toNat, 11)]
  | .ldN32 d base off rx => packWord 0x4000C000 [(d.val, 21), (base.val, 16), (off.toNat, 0), (rx.toNat, 11)]
  | .ldQ128 d base off rx => packWord 0x4000E000 [(d.val, 21), (base.val, 16), (off.toNat, 0), (rx.toNat, 11)]
  | .st8 d base off rx => packWord 0x44000000 [(d.val, 21), (base.val, 16), (off.toNat, 0), (rx.toNat, 11)]
  | .st16 d base off rx => packWord 0x44002000 [(d.val, 21), (base.val, 16), (off.toNat, 0), (rx.toNat, 11)]
  | .st32 d base off rx => packWord 0x44004000 [(d.val, 21), (base.val, 16), (off.toNat, 0), (rx.toNat, 11)]
  | .st64 d base off rx => packWord 0x44006000 [(d.val, 21), (base.val, 16), (off.toNat, 0), (rx.toNat, 11)]
  | .stQ128 d base off rx => packWord 0x4400E000 [(d.val, 21), (base.val, 16), (off.toNat, 0), (rx.toNat, 11)]
  | .ldc d base off => packWord 0x48000000 [(d.val, 21), (base.val, 16), (off.toNat, 0)]
  | .stc d base off => packWord 0x48002000 [(d.val, 21), (base.val, 16), (off.toNat, 0)]
  | .lde d base off => packWord 0x4C000000 [(d.val, 21), (base.val, 16), (off.toNat, 0)]
  | .ldf d base off => packWord 0x4C002000 [(d.val, 21), (base.val, 16), (off.toNat, 0)]
  | .stf d base off => packWord 0x4C004000 [(d.val, 21), (base.val, 16), (off.toNat, 0)]
  | .stx d base off => packWord 0x4C006000 [(d.val, 21), (base.val, 16), (off.toNat, 0)]
  | .fec d base off => packWord 0x4C008000 [(d.val, 21), (base.val, 16), (off.toNat, 0)]
  | .feq d base off => packWord 0x4C00A000 [(d.val, 21), (base.val, 16), (off.toNat, 0)]
  | .aadd d a b w sc ord => packWord 0x50000000 [(d.val, 21), (a.val, 16), (b.val, 11), (w.toNat, 4), (sc.code, 5), (ord.code, 8)]
  | .aand d a b w sc ord => packWord 0x50000001 [(d.val, 21), (a.val, 16), (b.val, 11), (w.toNat, 4), (sc.code, 5), (ord.code, 8)]
  | .aor d a b w sc ord => packWord 0x50000002 [(d.val, 21), (a.val, 16), (b.val, 11), (w.toNat, 4), (sc.code, 5), (ord.code, 8)]
  | .axor d a b w sc ord => packWord 0x50000003 [(d.val, 21), (a.val, 16), (b.val, 11), (w.toNat, 4), (sc.code, 5), (ord.code, 8)]
  | .amin d a b w sc ord => packWord 0x50000004 [(d.val, 21), (a.val, 16), (b.val, 11), (w.toNat, 4), (sc.code, 5), (ord.code, 8)]
  | .amax d a b w sc ord => packWord 0x50000005 [(d.val, 21), (a.val, 16), (b.val, 11), (w.toNat, 4), (sc.code, 5), (ord.code, 8)]
  | .aminn d a b w sc ord => packWord 0x50000006 [(d.val, 21), (a.val, 16), (b.val, 11), (w.toNat, 4), (sc.code, 5), (ord.code, 8)]
  | .amaxn d a b w sc ord => packWord 0x50000007 [(d.val, 21), (a.val, 16), (b.val, 11), (w.toNat, 4), (sc.code, 5), (ord.code, 8)]
  | .aswp d a b w sc ord => packWord 0x50000008 [(d.val, 21), (a.val, 16), (b.val, 11), (w.toNat, 4), (sc.code, 5), (ord.code, 8)]
  | .acas d a b w sc ord => packWord 0x50000009 [(d.val, 21), (a.val, 16), (b.val, 11), (w.toNat, 4), (sc.code, 5), (ord.code, 8)]
  | .afadd d a b sc ord => packWord 0x5000000A [(d.val, 21), (a.val, 16), (b.val, 11), (sc.code, 5), (ord.code, 8)]
  | .fence sets sc => packWord 0x54000000 [(sets.toNat, 6), (sc.code, 3)]
  | .strel d a sc => packWord 0x54000001 [(d.val, 21), (a.val, 16), (sc.code, 3)]
  | .ldacq d a sc => packWord 0x54000002 [(d.val, 21), (a.val, 16), (sc.code, 3)]
  | .sigrst a sc => packWord 0x54000003 [(a.val, 16), (sc.code, 3)]
  | .sigmrg d a sc => packWord 0x54000004 [(d.val, 21), (a.val, 16), (sc.code, 3)]
  | .pref a b => packWord 0x58000000 [(a.val, 16), (b.val, 11)]
  | .cflu a b => packWord 0x58000001 [(a.val, 16), (b.val, 11)]
  | .cinv a b => packWord 0x58000002 [(a.val, 16), (b.val, 11)]
  | .disc a b => packWord 0x58000003 [(a.val, 16), (b.val, 11)]
  | .llck d a b => packWord 0x58000004 [(d.val, 21), (a.val, 16), (b.val, 11)]
  | .lulk d a b => packWord 0x58000005 [(d.val, 21), (a.val, 16), (b.val, 11)]
  | .tenq d a b => packWord 0x60000000 [(d.val, 21), (a.val, 16), (b.val, 11)]
  | .tenqw d a b => packWord 0x60000001 [(d.val, 21), (a.val, 16), (b.val, 11)]
  | .tend => 0x60000002
  | .tabt a => packWord 0x60000003 [(a.val, 16)]
  | .tirv => 0x60000004
  | .tvt d sel => packWord 0x60000005 [(d.val, 21), (sel.val, 16)]
  | .csig d a b => packWord 0x60000006 [(d.val, 21), (a.val, 16), (b.val, 11)]
  | .garr d => packWord 0x64000000 [(d.val, 21)]
  | .gwait d => packWord 0x64000001 [(d.val, 21)]
  | .gsync d => packWord 0x64000002 [(d.val, 21)]
  | .gexp a => packWord 0x64000003 [(a.val, 16)]
  | .grank d sel => packWord 0x64000004 [(d.val, 21), (sel.val, 16)]
  | .rput d a t slot dir => packWord 0x68000000 [(d.val, 21), (a.val, 16), (t.val, 11), (slot.val, 2), (dir.code, 0)]
  | .rtake d => packWord 0x68000040 [(d.val, 21)]
  | .rpres d a => packWord 0x68000080 [(d.val, 21), (a.val, 16)]
  | .vadd d a b t mode => packWord 0x80000000 [(d.val, 21), (a.val, 16), (b.val, 11), (t.code, 3), (mode.code, 6)]
  | .vsub d a b t mode => packWord 0x80000001 [(d.val, 21), (a.val, 16), (b.val, 11), (t.code, 3), (mode.code, 6)]
  | .vmul d a b t mode => packWord 0x80000002 [(d.val, 21), (a.val, 16), (b.val, 11), (t.code, 3), (mode.code, 6)]
  | .vfma d a b c t => packWord 0x80000003 [(d.val, 21), (a.val, 16), (b.val, 11), (c.val, 6), (t.code, 3)]
  | .vfms d a b c t => packWord 0x80000004 [(d.val, 21), (a.val, 16), (b.val, 11), (c.val, 6), (t.code, 3)]
  | .vdot d a b c t => packWord 0x80000005 [(d.val, 21), (a.val, 16), (b.val, 11), (c.val, 6), (t.code, 3)]
  | .vmin d a b t nat => packWord 0x80000006 [(d.val, 21), (a.val, 16), (b.val, 11), (t.code, 3), (nat.toNat, 9)]
  | .vmax d a b t nat => packWord 0x80000046 [(d.val, 21), (a.val, 16), (b.val, 11), (t.code, 3), (nat.toNat, 9)]
  | .vabs d a t nat => packWord 0x80000086 [(d.val, 21), (a.val, 16), (t.code, 3), (nat.toNat, 9)]
  | .vneg d a t nat => packWord 0x800000C6 [(d.val, 21), (a.val, 16), (t.code, 3), (nat.toNat, 9)]
  | .vdiv d a b t => packWord 0x80000106 [(d.val, 21), (a.val, 16), (b.val, 11), (t.code, 3)]
  | .vrsq d a t => packWord 0x80000146 [(d.val, 21), (a.val, 16), (t.code, 3)]
  | .vreda d a b t nat => packWord 0x80000186 [(d.val, 21), (a.val, 16), (b.val, 11), (t.code, 3), (nat.toNat, 9)]
  | .vredm d a b t nat => packWord 0x800001C6 [(d.val, 21), (a.val, 16), (b.val, 11), (t.code, 3), (nat.toNat, 9)]
  | .vcmp d a b t p nat => packWord 0x80000007 [(d.val, 21), (a.val, 16), (b.val, 11), (t.code, 3), (p.code, 6), (nat.toNat, 9)]
  | .vand d a b => packWord 0x84000000 [(d.val, 21), (a.val, 16), (b.val, 11)]
  | .vor d a b => packWord 0x84000001 [(d.val, 21), (a.val, 16), (b.val, 11)]
  | .vxor d a b => packWord 0x84000002 [(d.val, 21), (a.val, 16), (b.val, 11)]
  | .vsel d a b c => packWord 0x84000003 [(d.val, 21), (a.val, 16), (b.val, 11), (c.val, 6)]
  | .vperm d a b c => packWord 0x84000004 [(d.val, 21), (a.val, 16), (b.val, 11), (c.val, 6)]
  | .vshl d a b t => packWord 0x84000005 [(d.val, 21), (a.val, 16), (b.val, 11), (t.code, 3)]
  | .vshr d a b t => packWord 0x84000045 [(d.val, 21), (a.val, 16), (b.val, 11), (t.code, 3)]
  | .vsha d a b t => packWord 0x84000085 [(d.val, 21), (a.val, 16), (b.val, 11), (t.code, 3)]
  | .vsplt d a t lane => packWord 0x84000006 [(d.val, 21), (a.val, 16), (t.code, 3), (lane.val, 6)]
  | .vins d a t lane => packWord 0x84000007 [(d.val, 21), (a.val, 16), (t.code, 3), (lane.val, 6)]
  | .vextSigned d a t lane => packWord 0x84000807 [(d.val, 21), (a.val, 16), (t.code, 3), (lane.val, 6)]
  | .vextNatural d a t lane => packWord 0x84001007 [(d.val, 21), (a.val, 16), (t.code, 3), (lane.val, 6)]
  | .vcvt d a dt st => packWord 0x88000000 [(d.val, 21), (a.val, 16), (dt.code, 11), (st.code, 6)]
  | .vdec d a t tbl four => packWord 0x88000001 [(d.val, 21), (a.val, 16), (t.code, 3), (tbl.val, 6), (four.toNat, 8)]
  | .venc d a t tbl four => packWord 0x88000002 [(d.val, 21), (a.val, 16), (t.code, 3), (tbl.val, 6), (four.toNat, 8)]
  | .vscl d a b t => packWord 0x88000003 [(d.val, 21), (a.val, 16), (b.val, 11), (t.code, 3)]
  | .vsclE8m0 d a b t => packWord 0x88000043 [(d.val, 21), (a.val, 16), (b.val, 11), (t.code, 3)]
  | .vsclSca d a t => packWord 0x88000083 [(d.val, 21), (a.val, 16), (t.code, 3)]
  | .vsclScb d a t => packWord 0x880000C3 [(d.val, 21), (a.val, 16), (t.code, 3)]
  | .fcls d a t => packWord 0x88000004 [(d.val, 21), (a.val, 16), (t.code, 3)]
  | .tbld d a tbl => packWord 0x8C000000 [(d.val, 21), (a.val, 16), (tbl.val, 0)]
  | .tbcf d k tbl => packWord 0x8C000040 [(d.val, 21), (k.val, 16), (tbl.val, 0)]
  | .tbcfQuery d tbl => packWord 0x8C1F0040 [(d.val, 21), (tbl.val, 0)]
  | .mldb a b => packWord 0xA0000000 [(a.val, 16), (b.val, 11)]
  | .mldbTile tl => packWord 0xA0000020 [(tl.val, 0)]
  | .mgeo d a => packWord 0xA0000040 [(d.val, 21), (a.val, 16)]
  | .manc d a => packWord 0xA0000080 [(d.val, 21), (a.val, 16)]
  | .mmv f a m tl => packWord 0xA00000C0 [(f.val, 21), (a.val, 16), (m.val, 11), (tl.val, 0)]
  | .mmvs f a m tl => packWord 0xA0000100 [(f.val, 21), (a.val, 16), (m.val, 11), (tl.val, 0)]
  | .mrd tl f n clr => packWord 0xA0000140 [(tl.val, 0), (f.val, 21), (n.val, 11), (clr.toNat, 5)]
  | .mclr f n => packWord 0xA0000180 [(f.val, 21), (n.val, 11)]
  | .mcmd d a b => packWord 0xA00001C0 [(d.val, 21), (a.val, 16), (b.val, 11)]
  | .msta d f lane => packWord 0xA0000200 [(d.val, 21), (f.val, 0), (lane.val, 11)]
  | .msync => 0xA0000240
  | .achn d a b clr => packWord 0xA4000000 [(d.val, 21), (a.val, 16), (b.val, 11), (clr.toNat, 0)]
  | .asnd f n a b clr => packWord 0xA4000040 [(f.val, 21), (n.val, 0), (a.val, 16), (b.val, 11), (clr.toNat, 4)]
  | .adrn d a => packWord 0xA4000080 [(d.val, 21), (a.val, 16)]
  | .adrnNw d a => packWord 0xA4000081 [(d.val, 21), (a.val, 16)]
  | .acls d a => packWord 0xA40000C0 [(d.val, 21), (a.val, 16)]
  | .arsn d => packWord 0xA4000100 [(d.val, 21)]
  | .arsnNw d => packWord 0xA4000101 [(d.val, 21)]
  | .arsnDrop d => packWord 0xA4000102 [(d.val, 21)]
  | .astaOutbox d => packWord 0xA4000140 [(d.val, 21)]
  | .astaChain d a => packWord 0xA4000141 [(d.val, 21), (a.val, 16)]
  | .xfer d a b e => packWord 0xB0000000 [(d.val, 21), (a.val, 16), (b.val, 11), (e.val, 0)]
  | .xferb d a b e => packWord 0xB0000040 [(d.val, 21), (a.val, 16), (b.val, 11), (e.val, 0)]
  | .getx d a b e => packWord 0xB0000080 [(d.val, 21), (a.val, 16), (b.val, 11), (e.val, 0)]
  | .putx d a b e => packWord 0xB00000C0 [(d.val, 21), (a.val, 16), (b.val, 11), (e.val, 0)]
  | .cwait d cc a => packWord 0xB0000100 [(d.val, 21), (cc.val, 0), (a.val, 16)]
  | .crd d cc clr => packWord 0xB0000140 [(d.val, 21), (cc.val, 0), (clr.toNat, 3)]
  | .lhnd a k => packWord 0xB0000180 [(a.val, 16), (k.val + 1, 0)]
  | .lret => 0xB00001C0
  | .tldef tl a b rdy => packWord 0xB4000000 [(tl.val, 0), (a.val, 16), (b.val, 11), (rdy.toNat, 5)]
  | .tlstQuery d tl => packWord 0xB4000040 [(d.val, 21), (tl.val, 0)]
  | .tlstReady d tl => packWord 0xB4000840 [(d.val, 21), (tl.val, 0)]
  | .tlstEmpty d tl => packWord 0xB4001040 [(d.val, 21), (tl.val, 0)]
  | .tlrel tl => packWord 0xB4000080 [(tl.val, 0)]
  | .caml d tl b => packWord 0xB8000000 [(d.val, 21), (tl.val, 0), (b.val, 11)]
  | .camp d o p b => packWord 0xB8000040 [(d.val, 21), (o.val, 0), (p.val, 16), (b.val, 11)]
  | .camc d a => packWord 0xB8000080 [(d.val, 21), (a.val, 16)]
  | .getr d a b e => packWord 0xB80000C0 [(d.val, 21), (a.val, 16), (b.val, 11), (e.val, 0)]
  | .spcf d a => packWord 0xB8000100 [(d.val, 21), (a.val, 16)]
  | .subj d a b => packWord 0xBC000000 [(d.val, 21), (a.val, 16), (b.val, 11)]
  | .subl d b => packWord 0xBC000040 [(d.val, 21), (b.val, 11)]
  | .sopn d a b => packWord 0xBC000080 [(d.val, 21), (a.val, 16), (b.val, 11)]
  | .ssnd d p a b => packWord 0xBC0000C0 [(d.val, 21), (p.toNat, 0), (a.val, 16), (b.val, 11)]
  | .scls d p => packWord 0xBC000100 [(d.val, 21), (p.toNat, 0)]
  | .sysc imm => packWord 0xC0000000 [(imm.toNat, 4)]
  | .trap a imm => packWord 0xC0000001 [(a.val, 16), (imm.toNat, 4)]
  | .brk imm => packWord 0xC0000002 [(imm.toNat, 4)]
  | .eret => 0xC0000003
  | .prmt d a => packWord 0xC0000004 [(d.val, 21), (a.val, 16)]
  | .rsum d a => packWord 0xC0000005 [(d.val, 21), (a.val, 16)]
  | .tlbiPg a size => packWord 0xC0000006 [(a.val, 16), (size.val, 6)]
  | .tlbiAll => 0xC0000016
  | .tlbiWake a => packWord 0xC0000026 [(a.val, 16)]
  | .pmig d a home => packWord 0xC0000007 [(d.val, 21), (a.val, 16), (home.toNat, 4)]
  | .halt d => packWord 0xC0000008 [(d.val, 21)]
  | .fencei => 0xC0000009
  | .cntnContain d a => packWord 0xC000000A [(d.val, 21), (a.val, 16)]
  | .cntnRelease d a => packWord 0xC000001A [(d.val, 21), (a.val, 16)]
  | .cntnQuery d a => packWord 0xC000002A [(d.val, 21), (a.val, 16)]
  | .dupc d a => packWord 0xC000000B [(d.val, 21), (a.val, 16)]
  | .dupcClear d a => packWord 0xC000001B [(d.val, 21), (a.val, 16)]
  | .csrr d csr => packWord 0xC4000000 [(d.val, 21), (csr.code, 4)]
  | .csrw d csr a => packWord 0xC4000001 [(d.val, 21), (csr.code, 4), (a.val, 16)]
  | .csrs d csr a => packWord 0xC4000002 [(d.val, 21), (csr.code, 4), (a.val, 16)]
  | .csrc d csr a => packWord 0xC4000003 [(d.val, 21), (csr.code, 4), (a.val, 16)]
  | .snap d a full => packWord 0xC8000000 [(d.val, 21), (a.val, 16), (full.toNat, 4)]
  | .snpw d a => packWord 0xC8000001 [(d.val, 21), (a.val, 16)]
  | .snpq d a => packWord 0xC8000002 [(d.val, 21), (a.val, 16)]
  | .rbck d a => packWord 0xC8000003 [(d.val, 21), (a.val, 16)]
  | .rpt l n sd sa sb sc => packWord 0xFC000000 [(l.val, 19), (n.val, 12), (sd.toNat, 9), (sa.toNat, 6), (sb.toNat, 3), (sc.toNat, 0)]
  | .elect => 0xFC800000
  | .repeatWordIssue => 0
  | .instructionFill => 0
  | .dataArrival => 0
  | .lineFill => 0
  | .writeBack => 0
  | .omegaRequest => 0
  | .meshScratchRequest => 0
  | .rxAccessPerform => 0
  | .linePortPriority => 0
  | .feWaiterResend => 0
  | .faultEntryRetry => 0
  | .wakeMessage => 0
  | .taskRecordArrival => 0
  | .taskRefill => 0
  | .taskDispatch => 0
  | .homeSpeculativeAccess => 0
  | .ovfProbe => 0
  | .taskAbort => 0
  | .belvedereSample => 0
  | .roundResult => 0
  | .irrevocablePass => 0
  | .barrierCycle => 0
  | .barrierWake => 0
  | .electPostArrival => 0
  | .rputDelivery => 0
  | .tableBuild => 0
  | .matrixOpStart => 0
  | .matrixOpComplete => 0
  | .macroParityError => 0
  | .mcmdArrival => 0
  | .mcmdAck => 0
  | .chainOpenArrival => 0
  | .chainCloseArrival => 0
  | .trellisRowArrival => 0
  | .trellisAckArrival => 0
  | .resumeNotice => 0
  | .refusalReadyTimeout => 0
  | .transferStart => 0
  | .chunkArrival => 0
  | .chunkRedelivery => 0
  | .landingHandlerStart => 0
  | .handlerTimeout => 0
  | .transferCompletion => 0
  | .multicastJoin => 0
  | .multicastSend => 0
  | .streamRouteTimeout => 0
  | .flowPacketArrival => 0
  | .escapeTimeout => 0
  | .retryResend => 0
  | .prmtArrival => 0
  | .rsumArrival => 0
  | .spillQueueRetry => 0
  | .mchkDelivery => 0
  | .memoryError => 0
  | .selfTestComplete => 0
  | .snapshotMarker => 0
  | .scratchSegmentCopy => 0
  | .snapshotSweep => 0
  | .preWriteBack => 0
  | .snapshotCompletionNotice => 0
  | .snapshotAbortNotice => 0
  | .ingressRecordWrite => 0
  | .ingressEnqueue => 0
  | .partialClear => 0
  | .hostMemRead => 0
  | .hostMemWrite => 0
  | .snpData => 0
  | .snpInv => 0
  | .snpCur => 0
  | .translationCompletion => 0
  | .atsInvalidationRequest => 0
  | .priSuccess => 0
  | .priInvalidRequest => 0
  | .priResponseFailure => 0
  | .peerAccess => 0
  | .linkLaneFailure => 0
  | .routeWrite => 0
  | .lattolWrite => 0
  | .barRegisterWrite => 0
  | .thWrite => 0
  | .lcmdReboot => 0
  | .powerStateEvaluate => 0
  | .wakeEvent => 0
  | .powerWindow => 0
  | .thermalReading => 0
  | .slotDisable => 0
  | .slotEnable => 0
  | .thermalRankingUpdate => 0
  | .powerOn => 0
  | .bringUpWatchdog => 0
  | .camOperationEnd => 0
  | .homeAcknowledgement => 0
  | .hostCompletion => 0
  | .backInvalidateResponse => 0
  | .priEnable => 0
  | .streamRouteHeld => 0
  | .contextMessageArrival => 0
  | .transferSourceRead => 0
  | .snapshotCompletionReport => 0
  | .bringUpStepEnd => 0
  | .faleusPortUp => 0
  | .powerLoss => 0

/-- The 32-bit word of an instruction (R26). -/
def encode (i : Instr) : BitVec 32 := BitVec.ofNat 32 (encodeNat i)

/-- What decoding gives when it gives an instruction. -/
def Decoded.toOption : Decoded → Option Instr
  | .instr i => some i
  | .undef => none
  | .rsvd => none

/-- The instruction the decoder reads from a word of `nbits` bits whose bits are `w`. -/
def decodeTableWord (_nbits w : Nat) : Option Instr := (decode (w % 2 ^ 32)).toOption

end Sys2Proof
end

