-- ==== Sys2Proof/Machine/DecodeTables.lean ====
section
/-!
DEFINITION. Decode tables: the ROM images, the summary word, decoding a code and encoding a value (R194 to R197, R202 to R205).
-/
namespace Sys2Proof.Machine

/-- The D19 code of an exact value (R195): every NaN is 0x3_FE00. -/
def d19Of (v : FVal) : Nat := (fmtD19.ofVal 0 v).1
/-- The value of a D19 code; its NaNs are quiet (R195). -/
def d19Val (c : Nat) : FVal :=
  let v := fmtD19.decode c
  if v.isNan then .nan false else v

/-- The value of an E4M3 code (Table 9-1). -/
def e4m3Val (c : Nat) : FVal :=
  let neg := decide (128 ≤ c)
  let e := c / 8 % 16
  let f := c % 8
  if c % 128 = 0x7F then .nan false
  else if e = 0 then .fin neg f (-9) else .fin neg (8 + f) (e - 10)
/-- The value of an E5M2 code (Table 9-1); its NaNs are quiet (R195). -/
def e5m2Val (c : Nat) : FVal :=
  let neg := decide (128 ≤ c)
  let e := c / 4 % 32
  let f := c % 4
  if e = 31 then (if f = 0 then .inf neg else .nan false)
  else if e = 0 then .fin neg f (-16) else .fin neg (4 + f) (e - 17)
/-- The value of an E2M1 code (Table 9-1). -/
def e2m1Val (c : Nat) : FVal :=
  let neg := decide (8 ≤ c % 16)
  let e := c / 2 % 4
  let f := c % 2
  if e = 0 then .fin neg f (-1) else .fin neg (2 + f) (e - 2)
/-- The value of an integer. -/
def intVal (v : Int) : FVal := .fin (decide (v < 0)) v.natAbs 0

/-- ROM image k (Table 9-3). -/
def romTable : Nat → Table
  | 0 => (List.range 256).map (fun c => (c, d19Of (e4m3Val c)))
  | 1 => (List.range 256).map (fun c => (c, d19Of (e5m2Val c)))
  | 2 => (List.range 256).map (fun c => (c, d19Of (intVal (if c < 128 then (c : Int) else (c : Int) - 256))))
  | 3 => (List.range 256).map (fun c => (c, d19Of (intVal c)))
  | _ => (List.range 16).map (fun c => (c, d19Of (e2m1Val c)))
/-- The image a core reset loads into table n (R203). -/
def resetTable : Nat → Table
  | 0 => romTable 0
  | 1 => romTable 1
  | 2 => romTable 2
  | _ => romTable 4
/-- Table n of a core. -/
def Core.table (c : Core) (n : Nat) : Table := (Map.find c.tables n).getD (resetTable n)
/-- The entries of a table as values, those below 16 in 4-bit mode (R205). -/
def Table.entries (t : Table) (four : Bool) : List (Nat × FVal) :=
  (t.filter (fun e => !four || decide (e.1 < 16))).map (fun e => (e.1, d19Val e.2))
/-- The lowest code for which `p` holds. -/
def codeWhere (es : List (Nat × FVal)) (p : FVal → Bool) : Option Nat := (es.find? (fun e => p e.2)).map Prod.fst
/-- Below, with −0 equal to +0. -/
def FVal.below (a b : FVal) : Bool := a.lt b && !FVal.eq a b
/-- Whether a value is finite. -/
def FVal.isFin : FVal → Bool
  | .nan _ => false
  | .inf _ => false
  | .fin _ _ _ => true
/-- The extreme entry of a list: the first for which no other lies further out. -/
def extremeOf (es : List (Nat × FVal)) (max : Bool) : Option (Nat × FVal) :=
  es.foldl (fun acc e => match acc with
    | none => some e
    | some b => if (if max then b.2.below e.2 else e.2.below b.2) then some e else acc) none
/-- A set bit of the summary word with its code. -/
def summaryCode (c : Option Nat) (lo flag : Nat) : Nat :=
  match c with
  | some k => k * 2 ^ lo + 2 ^ flag
  | none => 0
/-- The summary word (R204). -/
def Table.summary (t : Table) : Word :=
  let es := t.entries false
  let fin := es.filter (fun e => e.2.isFin)
  let code := fun (o : Option (Nat × FVal)) => (o.map Prod.fst).getD 0
  BitVec.ofNat 64 ((es.filter (fun e => !e.2.isNan)).length * 2 ^ 48 + code (extremeOf fin false) * 2 ^ 40 + code (extremeOf fin true) * 2 ^ 32
    + summaryCode (codeWhere es (FVal.isInf true)) 24 10 + summaryCode (codeWhere es (FVal.isInf false)) 16 9
    + summaryCode (codeWhere es FVal.isNan) 0 8)

/-- An out-of-range encode (Table 9-4). A zero counts as positive or negative by its sign (log entry 46). -/
def outrange (es : List (Nat × FVal)) (v : FVal) (satn : Bool) : Nat × FFlags :=
  let fin := es.filter (fun e => e.2.isFin)
  let nan := codeWhere es FVal.isNan
  match extremeOf fin (!v.sign) with
  | none => (nan.getD 0, flagNV)
  | some x =>
    if v.isFin then
      if satn then (x.1, flagNX)
      else (((codeWhere es (FVal.isInf v.sign)).orElse (fun _ => nan)).getD x.1, flagOF ||| flagNX)
    else (if satn then x.1 else nan.getD x.1, flagNV)
/-- The distance between two finite values in units of 2^q. -/
def FVal.gap (q : Int) (a b : FVal) : Nat := (a.count q - b.count q).natAbs
/-- The magnitude of a finite value in units of 2^q. -/
def FVal.size (q : Int) (a : FVal) : Nat := (a.count q).natAbs
/-- The one of two entries that is picked (R205): `lo` is below the value and `hi` above it. -/
def pickEntry (rm : Nat) (v : FVal) (lo hi : Nat × FVal) : Nat × FVal :=
  let q := hi.2.minExp (lo.2.minExp (v.minExp 0))
  let lower := if lo.1 < hi.1 then lo else hi
  let byKey := fun (a b : Nat) => if a < b then lo else if b < a then hi else lower
  let dl := FVal.gap q v lo.2
  let dh := FVal.gap q v hi.2
  match rm with
  | 1 => byKey (lo.2.size q) (hi.2.size q)
  | 2 => hi
  | 3 => lo
  | 0 => if dl < dh then lo else if dh < dl then hi
    else if lo.1 % 2 = 0 && hi.1 % 2 = 1 then lo else if hi.1 % 2 = 0 && lo.1 % 2 = 1 then hi else lower
  | _ => if dl < dh then lo else if dh < dl then hi else byKey (hi.2.size q) (lo.2.size q)
/-- Encoding a value into a table (R205): the code and the flags. -/
def Table.encode (t : Table) (four : Bool) (rm : Nat) (satn : Bool) (v : FVal) : Nat × FFlags :=
  let es := t.entries four
  let fin := es.filter (fun e => e.2.isFin)
  let zeroCode := (codeWhere fin FVal.isZero).getD 0
  if v.isNan then
    let fl := flagIf v.isSig flagNV
    match codeWhere es FVal.isNan with
    | some c => (c, fl)
    | none => (zeroCode, flagNV)
  else match (if v.isFin then none else codeWhere es (FVal.isInf v.sign)) with
  | some c => (c, 0)
  | none =>
    if v.isZero && fin.any (fun e => e.2.isZero) then
      ((codeWhere fin (fun x => x.isZero && x.sign == v.sign)).getD zeroCode, 0)
    else
      let above := fin.filter (fun e => v.below e.2)
      let below := fin.filter (fun e => e.2.below v)
      if !v.isFin then outrange es v satn
      else match codeWhere fin (FVal.eq v) with
      | some c => (c, 0)
      | none =>
        match extremeOf below true, extremeOf above false with
        | some lo, some hi =>
          let p := pickEntry rm v lo hi
          (p.1, flagNX ||| flagIf p.2.isZero flagUF)
        | _, _ => outrange es v satn

/-- The value that a code of a table decodes to, and whether its entry is invalid (R203). -/
def Table.decode (t : Table) (k : Nat) : FVal × Bool :=
  match Map.find t k with
  | some v => (d19Val v, false)
  | none => (.nan false, true)

end Sys2Proof.Machine
end

