-- ==== Sys2Proof/Machine/MatrixMath.lean ====
section
/-!
DEFINITION. The arithmetic of the matrix unit: formats, geometry, alignment, contributions, readout and rescaling
(R235 to R240, R246, R249, R252).
-/
namespace Sys2Proof.Machine

/-- The fields of a chain handle (Table 12-2). -/
def handleKey (h : Word) : BitVec 32 := h.extractLsb' 32 32
/-- DEV. -/
def handleDev (h : Word) : Nat := wfld h 19 13
/-- SLOT. -/
def handleSlot (h : Word) : Nat := wfld h 0 3
/-- The formats and modes a thread's operation captures (R241). -/
def Thread.formats (h : Thread) : Formats :=
  { fmta := h.fmta, fmtb := h.fmtb, fmto := h.fmto, sca := h.sca, scb := h.scb, rmode := h.rmode, satn := h.satn }
/-- The type code of a format register (Table 2-4). -/
def fmtCode (f : BitVec 7) : Nat := f.toNat % 32
/-- The decode table a code-16 format names (R201). -/
def fmtTable (f : BitVec 7) : Nat := f.toNat / 32
/-- Whether a format names table n (R206). -/
def usesTable (f : BitVec 7) (n : Nat) : Bool := fmtCode f == 16 && fmtTable f == n
/-- The codes FMTA and FMTB may hold (Table 9-2). -/
def fmtInOk (f : BitVec 7) : Bool :=
  let c := fmtCode f
  decide (c ≤ 3) || c == 7 || (decide (11 ≤ c) && decide (c ≤ 16))
/-- The codes FMTO may hold (Table 9-2). -/
def fmtOutOk (f : BitVec 7) : Bool := decide (fmtCode f ≤ 12) || fmtCode f == 16
/-- Whether an operand format is an integer one (R236, R238). -/
def fmtIsInt (f : BitVec 7) : Bool :=
  match fmtCode f with
  | 3 => true
  | 7 => true
  | 14 => true
  | 15 => true
  | _ => false
/-- Whether a format is E2M1, with one scale byte per block. -/
def fmtIsMx (f : BitVec 7) : Bool := fmtCode f == 13
/-- The bits of an element of an operand format (Table 11-3). -/
def elemBits (f : BitVec 7) : Nat :=
  match fmtCode f with
  | 0 => 32
  | 1 => 16
  | 2 => 16
  | 13 => 4
  | 14 => 4
  | 15 => 4
  | _ => 8
/-- The bytes of an output element (R252). -/
def outBytes (f : BitVec 7) : Nat :=
  match fmtCode f with
  | 0 => 4
  | 1 => 2
  | 2 => 2
  | 4 => 2
  | 5 => 4
  | 6 => 8
  | 8 => 2
  | 9 => 4
  | 10 => 8
  | _ => 1
/-- A code of `w` bits read as signed. -/
def signedCode (w x : Nat) : Int := if 2 ^ (w - 1) ≤ x then (x : Int) - 2 ^ w else x
/-- The value of an element's code, decoded to D19 where it is not an integer (R238). -/
def elemVal (c : Core) (f : BitVec 7) (x : Nat) : FVal :=
  match fmtCode f with
  | 0 => let v := fmtF32.decode x; if v.isNan then .nan false else fmtD19.decode (fmtD19.ofVal 0 v).1
  | 1 => fmtF16.decode x
  | 2 => fmtBf16.decode x
  | 3 => intVal (signedCode 8 x)
  | 7 => intVal x
  | 11 => d19Val (d19Of (e4m3Val x))
  | 12 => d19Val (d19Of (e5m2Val x))
  | 13 => e2m1Val x
  | 14 => intVal (signedCode 4 x)
  | 15 => intVal x
  | 16 => ((c.table (fmtTable f)).decode x).1
  | _ => .nan false
/-- A value times 2^k. -/
def FVal.times (v : FVal) (k : Int) : FVal :=
  match v with
  | .nan g => .nan g
  | .inf n => .inf n
  | .fin n m e => .fin n m (e + k)
/-- A floating operand: its value × 2^sc, and × 2^(X − 127) in a block of scale X, NaN for X = 0xFF (R196, R238). -/
def operandVal (c : Core) (f : BitVec 7) (sc : BitVec 16) (x : Nat) (scale : Option Nat) : FVal :=
  let v := (elemVal c f x).times sc.toInt
  match scale with
  | none => v
  | some k => if k = 0xFF then .nan false else v.times ((k : Int) - 127)
/-- The class of a decoded value (R239). -/
def FVal.cls : FVal → NumClass
  | .nan _ => .nan
  | .inf n => .inf n
  | .fin n m _ => if m = 0 then .zero else .finite n
/-- ⌊log2 |v|⌋ of a finite value that is not zero. -/
def FVal.exponent : FVal → Int
  | .nan _ => 0
  | .inf _ => 0
  | .fin _ m e => e + bitLen m - 1
/-- The finite non-zero ones among values. -/
def alignable (vs : List FVal) : List FVal := vs.filter (fun v => v.isFin && !v.isZero)
/-- The largest exponent among finite non-zero values, if there is one. -/
def maxExponent (vs : List FVal) : Option Int :=
  (alignable vs).foldl (fun acc v => match acc with
    | none => some v.exponent
    | some x => some (max x v.exponent)) none
/-- rne(v × 2^−e) of a finite value, 0 otherwise. -/
def mantissa (v : FVal) (e : Int) : Int :=
  match v with
  | .nan _ => 0
  | .inf _ => 0
  | .fin n m x => let k := (roundAt 0 n m x e).1; if n then -(k : Int) else k

/-- The geometry that GEOM gives: k0, n0, kvalid, nvalid (R237). -/
structure Geometry where
  k0 : Nat
  n0 : Nat
  kvalid : Nat
  nvalid : Nat
  mext : Nat
  deriving DecidableEq, Repr
/-- R237. -/
def geometry (g : Word) : Geometry :=
  let cc := wfld g 60 4
  let cr := wfld g 56 4
  let out := decide (wfld g 48 4 < cr) || decide (wfld g 52 4 < cc)
  { k0 := 64 * cr, n0 := 32 * cc, mext := wfld g 0 16
    kvalid := if out then 0 else min (wfld g 32 16 - 64 * cr) 64
    nvalid := if out then 0 else min (wfld g 16 16 - 32 * cc) 32 }

/-- A B tile from its image (R236): cells and column exponents. -/
def alignB (c : Core) (img : BImage) (source : BFrom) (geom : Word) (fmt : Formats) (issuer : Tid) : BTile :=
  let scb := fmt.scb.toInt
  let isInt := fmtIsInt fmt.fmtb
  let val := fun (kk x : Nat) =>
    if isInt then elemVal c fmt.fmtb x
    else operandVal c fmt.fmtb fmt.scb x (if fmtIsMx fmt.fmtb then some (Map.get 0 img.scales kk) else none)
  let column := fun (g n : Nat) => img.elems.filter (fun e => e.1 / 32 / 16 == g && e.1 % 32 == n)
  let exps := (List.range 128).map (fun i =>
    let g := i / 32
    let n := i % 32
    if isInt then (i, scb)
    else
      let vs := (column g n).map (fun e => val (e.1 / 32) e.2)
      match maxExponent vs with
      | none => (i, scb)
      | some x => (i, if (alignable vs).any (fun v => (mantissa v (x - 6)).natAbs == 128) then x - 5 else x - 6))
  let cells := img.elems.map (fun e =>
    let v := val (e.1 / 32) e.2
    (e.1, { p := if isInt then mantissa v 0 else mantissa v (Map.get 0 exps (e.1 / 32 / 16 * 32 + e.1 % 32)), cls := v.cls : BCell }))
  { cells := cells, exps := exps, source := source, geom := geom, fmt := fmt, issuer := issuer }

/-- The class of a product (R239): bit 0 for +∞, bit 1 for −∞, both for NaN. -/
def clsProduct (a b : NumClass) : BitVec 2 :=
  let sign := fun (n m : Bool) => (if n != m then 0b10 else 0b01 : BitVec 2)
  match a, b with
  | .nan, _ => 0b11
  | _, .nan => 0b11
  | .inf _, .zero => 0b11
  | .zero, .inf _ => 0b11
  | .inf n, .inf m => sign n m
  | .inf n, .finite m => sign n m
  | .finite n, .inf m => sign n m
  | _, _ => 0
/-- rne(p × 2^sh), exact for sh ≥ 0 (R239). -/
def shiftRne (p sh : Int) : Int :=
  if 0 ≤ sh then p * 2 ^ sh.toNat
  else let k := (roundAt 0 (decide (p < 0)) p.natAbs sh 0).1; if p < 0 then -(k : Int) else k
/-- An A element that is present: its K position and its value. -/
structure AElem where
  kk : Nat
  v : FVal
  deriving DecidableEq, Repr
/-- The contributions of one A row to the unmasked lanes (R238, R239): a list of lane, addend and state, and whether a product
was lost. -/
def contributions (b : BTile) (op : MatOp) (es : List AElem) : List (Nat × BitVec 72 × BitVec 2) × Bool :=
  let isInt := fmtIsInt op.fmt.fmta
  let nvalid := (geometry op.geom).nvalid
  (List.range 4).foldl (fun (acc : List (Nat × BitVec 72 × BitVec 2) × Bool) g =>
    let pres := es.filter (fun e => e.kk / 16 == g)
    if pres.isEmpty then acc
    else
      let ea : Int := if isInt then op.fmt.sca.toInt else match maxExponent (pres.map (fun e => e.v)) with
        | none => 0
        | some x => x - 10
      let qs := pres.map (fun e => (e.kk, (if isInt then mantissa e.v 0 else mantissa e.v ea), e.v.cls))
      (List.range nvalid).foldl (fun acc n =>
        let cell := fun (kk : Nat) => Map.get ({} : BCell) b.cells (kk * 32 + n)
        let p := qs.foldl (fun t q => t + q.2.1 * (cell q.1).p) (0 : Int)
        let c := shiftRne p (ea + Map.get 0 b.exps (g * 32 + n) - op.anch.toInt)
        let st := qs.foldl (fun t q => t ||| clsProduct q.2.2 (cell q.1).cls) (0 : BitVec 2)
        (acc.1 ++ [(n, BitVec.ofInt 72 c, st)], acc.2 || (decide (p ≠ 0) && decide (c = 0)))) acc) ([], false)
/-- Add to a lane: values modulo 2^72, states by OR (R198, R240). -/
def addLane (acc : Map Lane) (row n : Nat) (v : BitVec 72) (st : BitVec 2) : Map Lane :=
  let l := Map.get ⟨0, 0⟩ acc (row * 32 + n)
  Map.set acc (row * 32 + n) { v := l.v + v, st := l.st ||| st }
/-- A row of the accumulator array: its 32 lanes. -/
def accRow (acc : Map Lane) (row : Nat) : List Lane := (List.range 32).map (fun i => Map.get ⟨0, 0⟩ acc (row * 32 + i))
/-- Clear a row (R253). -/
def clearRow (acc : Map Lane) (row : Nat) : Map Lane := acc.filter (fun e => e.1 / 32 != row)
/-- Set the state of every lane of a row to NaN (R257). -/
def poisonRow (acc : Map Lane) (row : Nat) : Map Lane := (List.range 32).foldl (fun a n => addLane a row n 0 0b11) acc

/-- The value of a lane in state 00 (R198). -/
def laneVal (l : Lane) (anch : BitVec 16) : FVal := .fin (decide (l.v.toInt < 0)) l.v.toInt.natAbs anch.toInt
/-- A lane as a value: normal, infinite or NaN (R198). -/
def Lane.val (l : Lane) (anch : BitVec 16) : FVal :=
  match l.st.toNat with
  | 0 => laneVal l anch
  | 1 => .inf false
  | 2 => .inf true
  | _ => .nan false
/-- Readout of a lane into a floating format (Table 11-5). -/
def readFloat (f : FFmt) (rm : Nat) (satn : Bool) (v : FVal) : Nat × FFlags :=
  let r := f.ofVal rm v
  if r.2 &&& flagOF ≠ 0 && satn then (f.huge v.sign, flagNX) else r
/-- Readout of a lane into an integer format (Table 11-5). -/
def readInt (w : Nat) (lo hi : Int) (rm : Nat) (satn : Bool) (v : FVal) : Nat × FFlags :=
  let code := fun (x : Int) => (x.emod (2 ^ w)).toNat
  match v with
  | .nan _ => (0, flagNV)
  | .inf n => (code (if n then lo else hi), flagNV)
  | .fin n m e =>
    let r := roundAt rm n m e 0
    let x := if n then -(r.1 : Int) else r.1
    if x < lo || hi < x then
      if satn then (code (if n then lo else hi), flagNX) else (code x, flagOF ||| flagNX)
    else (code x, flagIf r.2 flagNX)
/-- Readout of a lane in FMTO (Table 11-5). -/
def readLane (c : Core) (fmt : Formats) (anch : BitVec 16) (l : Lane) : Nat × FFlags :=
  let v := l.val anch
  let rm := fmt.rmode.toNat
  let signed := fun (w : Nat) => readInt w (-(2 ^ (w - 1))) (2 ^ (w - 1) - 1) rm fmt.satn v
  let natural := fun (w : Nat) => readInt w 0 (2 ^ w - 1) rm fmt.satn v
  match fmtCode fmt.fmto with
  | 0 => readFloat fmtF32 rm fmt.satn v
  | 1 => readFloat fmtF16 rm fmt.satn v
  | 2 => readFloat fmtBf16 rm fmt.satn v
  | 3 => signed 8
  | 4 => signed 16
  | 5 => signed 32
  | 6 => signed 64
  | 7 => natural 8
  | 8 => natural 16
  | 9 => natural 32
  | 10 => natural 64
  | 11 => (romTable 0).encode false rm fmt.satn v
  | 12 => (romTable 1).encode false rm fmt.satn v
  | _ => (c.table (fmtTable fmt.fmto)).encode false rm fmt.satn v

/-- The rescale of a lane by δ (R249): the lane and whether its value was lost. -/
def rescaleLane (delta : Int) (l : Lane) : Lane × Bool :=
  if l.st ≠ 0 then (l, false)
  else
    let v := l.v.toInt
    let x := shiftRne v (-delta)
    let st : BitVec 2 := if 2 ^ 71 - 1 < x then 0b01 else if x < -(2 ^ 71) then 0b10 else 0
    ({ v := BitVec.ofInt 72 x, st := st }, decide (v ≠ 0) && decide (x = 0))

end Sys2Proof.Machine
end

