-- ==== Sys2Proof/Machine/Tiles.lean ====
section
/-!
DEFINITION. Tiles as the instructions that name them use them: the region, its words, holding and waiting (R243, R280 to R282).
-/
namespace Sys2Proof.Machine

/-- A tile of a core, if it is defined (R280). -/
def Core.tile (c : Core) (tl : TileNum) : Option Tile := Map.find c.tiles tl.val
/-- A core with a tile replaced. -/
def Core.setTile (c : Core) (tl : TileNum) (t : Tile) : Core := { c with tiles := Map.set c.tiles tl.val t }
/-- The start of a tile's region in cluster scratch: (TILEBASE + rel) mod 2^21 (R280). -/
def Core.tileOff (c : Core) (t : Tile) : Nat := (c.tilebase.toNat * 64 + t.rel) % 2 ^ 21
/-- A tile as an operation uses it that was issued while TILEBASE held `tbase`: a write of TILEBASE after that does not move its region (R46, R280). -/
def Core.tileUnder (c : Core) (tbase : BitVec 15) (tl : TileNum) : Option Tile :=
  (c.tile tl).map (fun t => { t with rel := (t.rel + tbase.toNat * 64 + 2 ^ 21 - c.tilebase.toNat * 64 % 2 ^ 21) % 2 ^ 21 })
/-- The byte of the scratch space at an offset of a tile of core `k`. -/
def State.tileAddr (s : State) (k : Nat) (t : Tile) (off : Nat) : Nat :=
  clusterOf k * 2 ^ 21 + ((s.core k).tileOff t + off) % 2 ^ 21
/-- The scratch address of a byte of a tile, as TVAL reports it (log entry 21): its place in the local window. -/
def State.tileVa (s : State) (k : Nat) (t : Tile) (off : Nat) : Nat := (s.domainAt k).lwin.toNat + s.tileAddr k t off
/-- `n` bytes at an offset of a tile. -/
def State.tileRead (s : State) (k : Nat) (t : Tile) (off n : Nat) : Nat := s.scratch.read (s.tileAddr k t off) n
/-- The lowest poisoned word that `n` bytes at an offset of a tile touch, as a local-window address. -/
def State.tilePoison (s : State) (k : Nat) (t : Tile) (off n : Nat) : Option Nat :=
  (s.scratch.poisoned (s.tileAddr k t off) n).map (fun w => (s.domainAt k).lwin.toNat + w)
/-- Write `n` bytes at an offset of a tile through the line ports (R88), by the rules of any write of data: a part of a poisoned word is not
written, and reports a machine check (R94, R106). -/
def State.tileWrite (s : State) (k : Nat) (t : Tile) (off n v : Nat) : State :=
  let a := s.tileAddr k t off
  let m : Mchk := { kind := 2, addr := 0, core := k, cycle := (s.core k).cycle }
  ({ s with scratch := (s.scratch.writeData a n v).1 }).partialMchks (s.domainOfCore k) m (s.scratch.partialWords a n (s.tileVa k t off))
/-- Whether an operation that reads or fills a tile in place may issue: the tile is ready and no transition waits (R281). -/
def Tile.free (t : Tile) : Bool := t.st == .ready && !t.pt
/-- The first instruction issued on a tile that transfers have made ready acquires their signature (Table 6-5). -/
def State.tileAcquire (s : State) (tl : TileNum) : State :=
  match s.ownCore.tile tl with
  | none => s
  | some t => match t.sig with
    | none => s
    | some g =>
      if t.st != .ready then s
      else (s.setCore s.turn.core (s.ownCore.setTile tl { t with sig := none })).acquire .device (some g) (decide (384 < popcount g))
/-- An instruction names a tile: TILE when it is undefined, a forfeit while `ok` does not hold (R243, R281). -/
def State.needTile (s : State) (tl : TileNum) (ok : Tile → Bool) (k : Tile → State → State) : State :=
  match s.ownCore.tile tl with
  | none => s.raise ⟨.tile, tl.val⟩
  | some t => if ok t then k t (s.tileAcquire tl) else s.forfeit
/-- An operation takes or ends its hold of a tile (R282). -/
def Core.hold (c : Core) (tl : TileNum) (take : Bool) : Core :=
  match c.tile tl with
  | none => c
  | some t => c.setTile tl { t with hold := if take then t.hold + 1 else t.hold - 1 }
/-- The status word of a tile of a core (R283). -/
def Core.tileStatus (c : Core) (tl : TileNum) : Word :=
  match c.tile tl with
  | none => 0
  | some t => wordOf ((t.len / 64 - 1) * 2 ^ 37 + c.tileOff t * 2 ^ 16 + min t.hold 255 * 2 ^ 8 + t.nfill * 2 ^ 4
      + t.pt.toNat * 2 ^ 3 + 4 + t.st.code)
/-- The status word of a tile (R283). -/
def State.tileStatus (s : State) (k : Nat) (tl : TileNum) : Word := (s.core k).tileStatus tl
/-- Change a tile of the issuing core, where one is named. -/
def State.onTile (s : State) (tl : Option TileNum) (f : Tile → Tile) : State :=
  match tl with
  | none => s
  | some k => match s.ownCore.tile k with
    | none => s
    | some t => s.setCore s.turn.core (s.ownCore.setTile k (f t))
/-- Whether a tile is in a state that TLST may set (Table 13-1). -/
def Tile.settled (t : Tile) : Bool := t.st == .empty || t.st == .ready
/-- Whether TLREL, or TLDEF of a defined tile, may proceed (Table 13-1). -/
def Tile.idle (t : Tile) : Bool := t.hold == 0 && t.nfill == 0 && t.st != .draining
/-- The region at cluster-scratch byte `o` becomes a tile of the issuing core (R280, R283). -/
def State.defineTile (s : State) (tl : TileNum) (o n : Nat) (rdy : Bool) : State :=
  let rel := (o + (2 ^ 21 - s.ownCore.tilebase.toNat * 64 % 2 ^ 21)) % 2 ^ 21
  s.setCore s.turn.core (s.ownCore.setTile tl { rel := rel, len := n, st := if rdy then .ready else .empty })
/-- A tile of the issuing core becomes undefined. -/
def State.dropTile (s : State) (tl : TileNum) : State := s.setCore s.turn.core { s.ownCore with tiles := Map.del s.ownCore.tiles tl.val }
/-- Whether a tile instruction that waits does so for HOLD = 0 of a tile (R282). -/
def TileOp.awaitsHold (op : TileOp) (tl : TileNum) (t : Tile) : Bool :=
  t.hold != 0 && (match op with
    | .set _ k ready => k == tl && !ready && t.settled
    | .undef k => k == tl
    | .define k _ _ _ => k == tl)
/-- Whether a request drains the tile that is its index tile too: the hold that it takes itself is none that its drain waits for (R282, R290). -/
def XReq.holdsOwn (q : XReq) : Bool := q.srcTile.isSome && q.srcTile == q.idxTile && !q.ended
/-- The hold that the drain of a tile waits for (R282). -/
def Core.heldBy (c : Core) (tl : Nat) (t : Tile) : Nat :=
  let own := fun (q : XReq) => q.holdsOwn && q.srcTile.any (fun k => k.val == tl)
  t.hold - ((c.fifo ++ c.inflight.map (fun e => e.2)).any own).toNat
/-- PT of a core's tiles: a drain or a waiting instruction waits for HOLD = 0 (R282). -/
def State.tilePt (s : State) (k : Nat) : State :=
  let waits := (List.range 15).filterMap (fun i => match (s.thread ⟨k, i⟩).wait with
    | some (.tile op) => some op
    | _ => none)
  let c := s.core k
  s.setCore k { c with tiles := c.tiles.map (fun e =>
    (e.1, { e.2 with pt := (e.2.st == .draining && c.heldBy e.1 e.2 != 0) || waits.any (fun op => op.awaitsHold (Fin.ofNat 32 e.1) e.2) })) }
/-- A tile instruction of the issuing thread, once its tile lets it go on (Table 13-1, R283); none while it must wait. -/
def State.tileGo (s : State) (op : TileOp) : Option State :=
  match op with
  | .set d tl ready => match s.ownCore.tile tl with
    | none => some (s.raise ⟨.tile, tl.val⟩)
    | some t =>
      if t.settled && (ready || t.hold == 0) then
        let s := ((s.tileAcquire tl).onTile (some tl) (fun t => { t with st := if ready then .ready else .empty })).tilePt s.turn.core
        some ((s.writeWord d (s.tileStatus s.turn.core tl)).finish)
      else none
  | .undef tl => match s.ownCore.tile tl with
    | none => some (s.raise ⟨.tile, tl.val⟩)
    | some t => if t.idle then some (s.dropTile tl).finish else none
  | .define tl o n rdy => match s.ownCore.tile tl with
    | none => some (s.defineTile tl o n rdy).finish
    | some t => if t.idle then some ((s.dropTile tl).defineTile tl o n rdy).finish else none
/-- Threads of a core that wait for a tile go on once it lets them, in the step that does so (Table 13-1, R282). -/
def State.tileWake (s : State) (k : Nat) : State :=
  let s := (List.range 30).foldl (fun acc i =>
    let t : Tid := ⟨k, i % 15⟩
    match (acc.thread t).wait with
    | some (.tile op) => (({ acc.setThread t { acc.thread t with status := .running } with turn := t }).tileGo op).map (fun (x : State) => { x with turn := acc.turn }) |>.getD acc
    | _ => acc) s
  s.tilePt k
/-- The state with a tile of core `k` held or let go. -/
def State.holdTile (s : State) (k : Nat) (tl : TileNum) (take : Bool) : State :=
  let s := s.setCore k ((s.core k).hold tl take)
  if take then s.tilePt k else s.tileWake k
/-- What a GETR of thread `t` keeps while it is parked is given up: its hold of the row list too (R308). -/
def State.dropGetr (s : State) (t : Tid) : State :=
  match (s.thread t).getr with
  | none => s
  | some g =>
    let s := s.setThread t { s.thread t with getr := none }
    if g.rows.isSome then s else s.holdTile t.core g.rl false
/-- A fill of a tile issues (Table 13-1). -/
def Tile.fillIssued (t : Tile) : Tile := { t with st := .filling, nfill := t.nfill + 1 }
/-- Whether a fill may issue: empty or filling, fewer than 15 fills pending, no transition waits (Table 13-1, R282). -/
def Tile.canFill (t : Tile) : Bool := (t.st == .empty || t.st == .filling) && decide (t.nfill < 15) && !t.pt
/-- A pending fill completes; the last one makes the tile ready (Table 13-1). -/
def Tile.fillDone (t : Tile) : Tile := { t with nfill := t.nfill - 1, st := if t.nfill ≤ 1 then .ready else t.st }
/-- What a unit's read of some bytes gave: the value and the lowest poisoned word, nothing yet, or nothing ever. -/
inductive UnitGot where
  | data (v : Nat) (poison : Option Nat) (s : State)
  | wait (s : State)
  | gone
/-- The read of a line's bytes for the reload of a core's B, as an ordinary load of its class (R214, R247): an L1 hit, else the home. A line of
another module is filled into the L1 first. -/
def State.unitLine (s : State) (k dk x n : Nat) (permD : Bool) : UnitGot :=
  let cl := clusterOf k
  let y := x / 64
  let own := Map.find (s.core k).l1 y
  let got := fun (l : L1Line) (s : State) => UnitGot.data (l.read (x % 64) n) ((l.poisoned (x % 64) n).map (fun w => y * 64 + w)) s
  let merged := fun (f : L1Line) => (own.map (fun l => l.fill f)).getD f
  if own.any (fun l => l.hits (x % 64) n) then got (own.getD {}) s
  else if s.owes k y || (s.faultOf cl dk x).isSome then .wait s
  else match locate s cl dk x { r := true } permD with
    | .at l e =>
      if l.space != .host && !s.withHome cl l.home then .wait s
      else match (if l.space = .host then s.hostRead cl dk x l.addr else s.homeClear dk (.reload k) l x false) with
      | (false, s) => .wait s
      | (true, s') => got (merged (lineAt (s.store l.space) l.isFlat l.addr)) (s'.tlbKeep cl e)
    | .pageFault reason page size => .wait (s.engineFault k dk x page size 1 reason false)
    | .hostFault reason page size => .wait (s.engineFault k dk x page size 1 reason (!(s.cluster cl).priStopped))
    | .atsMiss => .wait (s.askTranslation cl dk x)
    | .noD => .gone
    | .peer dev addr =>
      if decide (hbmTop ≤ addr) || (s.routeTo dev).isNone then .gone
      else .wait (s.setCore k { s.core k with fills := NatSet.ins (s.core k).fills y })
/-- The read of `n` bytes at a virtual address for the reload of a core's B (R247). -/
def State.unitRead (s : State) (k x n : Nat) (permD : Bool) : UnitGot :=
  let d := s.domainAt k
  match scratchOf d x with
  | some o =>
    if !d.holds (clusterOf (scratchCore o)) || (s.core (scratchCore o)).contained then .gone
    else if !s.withHome (clusterOf k) (clusterOf (scratchCore o)) then .wait s
    else .data (s.scratch.read o n) ((s.scratch.poisoned o n).map (fun w => x + w - o)) s
  | none =>
    match s.domainOfCore k with
    | none => .gone
    | some dk =>
      (rangeFrom (x / 64) ((x + n - 1) / 64 + 1)).foldl (fun acc y =>
        match acc with
        | .data v p s =>
          let lo := max x (y * 64)
          match s.unitLine k dk lo (min (x + n) (y * 64 + 64) - lo) permD with
          | .data v' p' s => .data (v + v' * 256 ^ (lo - x)) (p.orElse (fun _ => p')) s
          | .wait s => .wait s
          | .gone => .gone
        | .wait s => .wait s
        | .gone => .gone) (.data 0 none s)

end Sys2Proof.Machine
end

