-- ==== Sys2Proof/Machine/Matrix.lean ====
section
/-!
DEFINITION. Matrix instructions (major 0x28) and the matrix unit: its queues, the start and the completion of an operation,
reload and remote commands (R241 to R257).
-/
namespace Sys2Proof.Machine

/-- POISON found after issue is taken at the thread's next matrix instruction or MSYNC, before it takes effect (R257). -/
def State.matrixClean (s : State) (k : State → State) : State :=
  match s.cur.matrixPoison with
  | some a => (s.setCur { s.cur with matrixPoison := none }).raise ⟨.poison, a⟩
  | none => k s
/-- A matrix instruction is irrevocable in a speculative task (R243). -/
def State.matrixOp (s : State) (k : State → State) : State := s.irrevocably (fun s => s.matrixClean k)
/-- RSVD when a format register holds a code that Table 9-2 does not allow (R201). -/
def State.formatOk (s : State) (i : Instr) (ok : Bool) (k : State → State) : State :=
  if ok then k s else s.raise ⟨.rsvd, encodeNat i⟩
/-- The tile and the decode table an operation names (R206, R243). -/
def MatKind.tile : MatKind → Option TileNum
  | .mldb _ _ => none
  | .mldbTile tl => some tl
  | .mmv _ _ _ tl _ => some tl
  | .mrd tl _ _ _ => some tl
  | .mclr _ _ => none
  | .rescale _ => none
  | .asnd _ _ _ _ => none
/-- Whether an operation reads decode table n (R206). -/
def MatOp.names (o : MatOp) (n : Nat) : Bool :=
  match o.kind with
  | .mldb _ _ => usesTable o.fmt.fmtb n
  | .mldbTile _ => usesTable o.fmt.fmtb n
  | .mmv _ _ _ _ _ => usesTable o.fmt.fmta n
  | .mrd _ _ _ _ => usesTable o.fmt.fmto n
  | .mclr _ _ => false
  | .rescale _ => false
  | .asnd _ _ _ _ => false
/-- Every operation queued or running in a unit (R241). -/
def Core.queued (c : Core) : List MatOp := c.mrun.toList ++ c.mq ++ c.cq
/-- Every operation in flight in a unit: queued, running, or an MLDB that holds the staging buffer or has yet to read its image (R246). -/
def Core.ops (c : Core) : List MatOp := c.queued ++ c.staged.toList ++ c.bread.toList ++ c.reading
/-- Whether the table engine is loading table n: from the load's first cycle, when no matrix operation in flight names it any more (Table 9-5). -/
def Core.loading (c : Core) (n : Nat) : Bool :=
  match c.engine with
  | [] => false
  | l :: _ => l.n == n && l.image.isSome && !c.ops.any (fun o => o.names n)
/-- Whether an operation that would name a table finds a load of it, with its image read, waiting or running (Table 9-5). -/
def Core.tableHeld (c : Core) (o : MatOp) : Bool := c.engine.any (fun l => l.image.isSome && o.names l.n)
/-- An operation as the issuing thread captures it (R241). -/
def State.newOp (s : State) (kind : MatKind) : MatOp :=
  let c := s.ownCore
  { kind := kind, fmt := s.cur.formats, geom := c.geom, anch := c.anch, tbase := c.tilebase, issuer := s.turn, cmd := false, seq := c.matSeq }
/-- An operation enters the local queue last. -/
def Core.enter (c : Core) (o : MatOp) : Core := { c with mq := c.mq ++ [{ o with seq := c.matSeq }], matSeq := c.matSeq + 1 }
/-- An operation enters the local queue of four; when it is full, or a table it names is being loaded, the instruction
forfeits (R206, R241). The tile is held from issue (R243). -/
def State.enterOp (s : State) (kind : MatKind) (k : State → State) : State :=
  let c := s.turn.core
  let o := s.newOp kind
  if 4 ≤ (s.core c).mq.length || (s.core c).tableHeld o then s.forfeit
  else
    let s := s.setCore c ((s.core c).enter o)
    k (match kind.tile with
      | some tl => s.holdTile c tl true
      | none => s)

/-- The byte of element i of a row, and its nibble, for elements of `bits` bits. -/
def elemByte (bits i : Nat) : Nat := i * bits / 8
/-- The stride of a dense row of A (Table 11-3). -/
def strideA (f : BitVec 7) : Nat := if fmtIsMx f then 64 else 8 * elemBits f
/-- The stride of a row of B in a tile (Table 11-3). -/
def strideB (f : BitVec 7) : Nat := 4 * elemBits f
/-- The stride of a compressed row (R251). -/
def strideS (f : BitVec 7) : Nat :=
  match fmtCode f with
  | 0 => 328
  | 1 => 200
  | 2 => 200
  | 13 => 112
  | 14 => 104
  | 15 => 104
  | _ => 136
/-- The code of element i at a base offset of a tile. -/
def State.tileElem (s : State) (k : Nat) (t : Tile) (off bits i : Nat) : Nat :=
  if bits = 4 then s.tileRead k t (off + i / 2) 1 / 16 ^ (i % 2) % 16 else s.tileRead k t (off + i * (bits / 8)) (bits / 8)
/-- The rows of an MMV or MMVS that are streamed: those below MEXT (R237). -/
def liveRows (op : MatOp) (m0 : Word) (m : Nat) : List Nat :=
  (List.range m).filter (fun r => decide (m0.toNat + r < (geometry op.geom).mext))
/-- The bytes of a tile that a row of A needs, as offset and length, in rising order (R246). -/
def State.rowBytes (s : State) (k : Nat) (t : Tile) (f : BitVec 7) (kvalid r : Nat) (sparse : Bool) : List (Nat × Nat) :=
  let bits := elemBits f
  if sparse then
    let o := r * strideS f
    let n := min (s.tileRead k t o 1) 64
    [(o, 1), (o + 8, n), (o + 72, (n * bits + 7) / 8)] ++ (if fmtIsMx f then [(o + 104, 2)] else [])
  else
    let o := r * strideA f
    (o, (kvalid * bits + 7) / 8) :: (if fmtIsMx f then [(o + 32, 2)] else [])
/-- The first byte of some needed ranges that a tile's region leaves out. -/
def firstMissing (len : Nat) (need : List (Nat × Nat)) : Option Nat :=
  (need.find? (fun p => decide (0 < p.2) && decide (len < p.1 + p.2))).map (fun p => max p.1 len)
/-- CAPBND when a tile's region leaves out a needed byte (R246). -/
def State.needBytes (s : State) (t : Tile) (need : List (Nat × Nat)) (k : State → State) : State :=
  match firstMissing t.len need with
  | some o => s.raise ⟨.capBnd, s.tileVa s.turn.core t o⟩
  | none => k s
/-- The bytes that row kk of a tile-form MLDB needs (R246). -/
def rowNeedB (f : BitVec 7) (g : Geometry) (kk : Nat) : List (Nat × Nat) :=
  (kk * strideB f, (g.nvalid * elemBits f + 7) / 8) :: (if fmtIsMx f && decide (g.nvalid ≠ 0) then [(1024 + kk, 1)] else [])
/-- The bytes a tile-form MLDB needs, row by row (R246). -/
def needB (f : BitVec 7) (g : Geometry) : List (Nat × Nat) :=
  (List.range g.kvalid).flatMap (rowNeedB f g)
/-- The lower of two addresses, where there are any (R106). -/
def lowerOf : Option Nat → Option Nat → Option Nat
  | some a, some b => some (min a b)
  | some a, none => some a
  | none, b => b
/-- An image of B with row kk of a tile, and the lowest poisoned word it has met (R246, Table 11-11). -/
def State.readRowB (s : State) (k : Nat) (t : Tile) (f : BitVec 7) (g : Geometry) (acc : BImage × Option Nat) (kk : Nat) : BImage × Option Nat :=
  let row := (List.range g.nvalid).map (fun n => (kk * 32 + n, s.tileElem k t (kk * strideB f) (elemBits f) n))
  let scale := if fmtIsMx f then [(kk, s.tileRead k t (1024 + kk) 1)] else []
  ({ elems := acc.1.elems ++ row, scales := acc.1.scales ++ scale },
    (rowNeedB f g kk).foldl (fun p q => lowerOf p (s.tilePoison k t q.1 q.2)) acc.2)
/-- The B image in a tile, with the lowest poisoned word it reads (R247). -/
def State.tileImage (s : State) (k : Nat) (t : Tile) (f : BitVec 7) (g : Geometry) : BImage × Option Nat :=
  (List.range g.kvalid).foldl (s.readRowB k t f g) ({}, none)

/-- The address of a row of B in memory and of its scale byte (R246). -/
def memRowB (cap : CReg) (b : Word) (f : BitVec 7) (g : Geometry) (kk : Nat) : Nat × Nat :=
  let row := cap.addr + (g.k0 + kk) * wfld b 0 32
  ((row + elemByte (elemBits f) g.n0) % 2 ^ 64, (row + wfld b 32 32 + g.n0 / 32) % 2 ^ 64)
/-- The bytes of a row of B. -/
def rowBytesB (f : BitVec 7) (g : Geometry) : Nat := (g.nvalid * elemBits f + 7) / 8
/-- The first element or scale byte of a memory-form MLDB that fails CAPBND or ALIGN (R246). -/
def memCheckB (cap : CReg) (b : Word) (f : BitVec 7) (g : Geometry) : Option TrapVal :=
  let w := max (elemBits f / 8) 1
  if g.nvalid = 0 then none
  else (List.range g.kvalid).findSome? (fun kk =>
    let p := memRowB cap b f g kk
    ((List.range (rowBytesB f g / w)).findSome? (fun i =>
      let x := (p.1 + i * w) % 2 ^ 64
      if !cap.inBounds x w then some ⟨.capBnd, x⟩ else if x % w ≠ 0 then some ⟨.align, x⟩ else none)).orElse
      (fun _ => if fmtIsMx f && !cap.inBounds p.2 1 then some ⟨.capBnd, p.2⟩ else none))
/-- The element codes of a row from its bytes. -/
def rowElems (f : BitVec 7) (g : Geometry) (kk v : Nat) : Map Nat :=
  (List.range g.nvalid).map (fun n => (kk * 32 + n, v / 2 ^ (n * elemBits f) % 2 ^ elemBits f))
/-- The B image in memory with the lowest poisoned word it meets, read with `rd` row by row (R106, R246). -/
def imageFrom {ε : Type} (cap : CReg) (b : Word) (f : BitVec 7) (g : Geometry) (s : State)
    (rd : State → Nat → Nat → Except ε (Nat × Option Nat × State)) : Except ε (BImage × Option Nat × State) :=
  if g.nvalid = 0 then .ok ({}, none, s)
  else (List.range g.kvalid).foldl (fun acc kk => acc.bind (fun (img, bad, s) =>
    let p := memRowB cap b f g kk
    (rd s p.1 (rowBytesB f g)).bind (fun (v, q, s) =>
      (if fmtIsMx f then rd s p.2 1 else .ok (0, none, s)).bind (fun (x, q', s) =>
        .ok ({ elems := img.elems ++ rowElems f g kk v, scales := if fmtIsMx f then img.scales ++ [(kk, x)] else img.scales },
          lowerOf bad (lowerOf q q'), s))))) (.ok ({}, none, s))

/-- Whether the staging buffer is held: by an image being read or waiting for the queue, or by a macro write that has not started (R246). -/
def Core.stagingHeld (c : Core) : Bool := c.bread.isSome || c.staged.isSome || c.mq.any (fun o => match o.kind with
  | .mldb _ _ => true
  | _ => false)
/-- The macro write of an MLDB whose image is read: it enters the local queue, or the thread stays parked until it does
(R246). -/
def State.stage (s : State) (o : MatOp) : State :=
  let c := s.turn.core
  if 4 ≤ (s.core c).mq.length then (s.setCore c { s.core c with staged := some o }).park (.staging c)
  else (s.setCore c ((s.core c).enter o)).finish
/-- The MLDB of the thread in turn that has issued and waits, with what it captured at its issue (R237, R241). -/
def State.myMldb (s : State) : Option MatOp := s.ownCore.reading.find? (fun o => o.issuer == s.turn)
/-- An MLDB that has issued waits for the staging buffer or its data. -/
def State.keepMldb (s : State) (o : MatOp) : State :=
  let c := s.ownCore
  s.setCore s.turn.core { c with reading := c.reading.filter (fun p => p.issuer != o.issuer) ++ [o] }
/-- An MLDB waits no more. -/
def State.leaveMldb (s : State) (t : Tid) : State :=
  let c := s.core t.core
  if c.reading.any (fun o => o.issuer == t) then s.setCore t.core { c with reading := c.reading.filter (fun o => o.issuer != t) } else s
/-- What thread `t` has going for an MLDB is given up: the buffer and the tile are free again. -/
def State.dropBread (s : State) (t : Tid) : State :=
  let k := s.core t.core
  let mine := (k.reading ++ k.bread.toList).filter (fun o => o.issuer == t)
  if mine.isEmpty then s
  else
    let s := s.setCore t.core { k with reading := k.reading.filter (fun o => o.issuer != t), bread := k.bread.filter (fun o => o.issuer != t) }
    (mine.filterMap (fun o => o.kind.tile)).foldl (fun (acc : State) tl => acc.holdTile t.core tl false) s
/-- What a thread has begun and keeps while it waits for data is given up: a GETR, an MLDB, a table load whose image is not read (R206, R246, R308). -/
def State.dropReads (s : State) (t : Tid) : State :=
  let s := (s.dropGetr t).dropBread t
  let k := s.core t.core
  if k.engine.any (fun l => l.t == t && l.image.isNone) then
    s.setCore t.core { k with engine := k.engine.filter (fun l => !(l.t == t && l.image.isNone)) }
  else s
/-- Whether a thread waits for the data of the instruction that it has issued; one that has trapped or must wait to pass does not. -/
def Thread.awaitsData (h : Thread) : Bool :=
  match h.wait with
  | none => false
  | some .irrevocable => false
  | some (.heldTrap _ _) => false
  | some (.tendAcks _) => false
  | some _ => true
/-- The reads of a memory-form MLDB, as address and length: its rows, and the scale bytes of an MX format (R246). -/
def mldbReads (cap : CReg) (b : Word) (f : BitVec 7) (g : Geometry) : List (Nat × Nat) :=
  if g.nvalid = 0 then []
  else (List.range g.kvalid).flatMap (fun kk =>
    let p := memRowB cap b f g kk
    (p.1, rowBytesB f g) :: (if fmtIsMx f then [(p.2, 1)] else []))

/-- MLDB, memory form (R246): an issue after a wait goes on with what the first one captured. -/
def execMldb (a b : RegNum) (s : State) : Out := .next (s.drained (fun s =>
  let cap := s.reg a
  let o := s.myMldb.getD (s.newOp (.mldb {} (.memory cap (s.word b))))
  let f := o.fmt.fmtb
  let g := geometry o.geom
  s.formatOk (.mldb a b) (fmtInOk f) (fun s =>
    let early := (checkTag cap a.val false [permL]).orElse (fun _ => (memCheckB cap (s.word b) f g).orElse (fun _ =>
      (mldbReads cap (s.word b) f g).findSome? (fun r => s.blockRefused r.1 r.2 a (cap.has permD))))
    s.checked early (fun s => s.irrevocably (fun s => (if s.myMldb.isSome then id else fun k s => s.matrixClean k) (fun s =>
      if s.myMldb.isNone && s.ownCore.tableHeld o then s.forfeit
      else if s.ownCore.stagingHeld then (s.keepMldb o).park (.staging s.turn.core)
      else
        let rd := fun (s : State) (x n : Nat) => (s.blockRead x n a (cap.has permD)).map (fun r => (r.1, r.2.2.1, r.2.2.2))
        match imageFrom cap (s.word b) f g s rd with
        | .error s => if s.cur.awaitsData then s.keepMldb o else s.dropBread s.turn
        | .ok (_, some p, s) => (s.dropBread s.turn).raise ⟨.poison, p⟩
        | .ok (img, none, s) => (s.leaveMldb s.turn).stage { o with kind := .mldb img (.memory cap (s.word b)) }) s)))))
/-- A tile-form MLDB that holds its tile reads it, or parks while the staging buffer is held. -/
def State.startBread (s : State) (o : MatOp) : State :=
  if s.ownCore.stagingHeld then (s.keepMldb o).park (.staging s.turn.core)
  else
    let s := s.leaveMldb s.turn
    (s.setCore s.turn.core { s.ownCore with bread := some o }).park .bread
/-- MLDB, tile form (R243, R246): the tile is held from issue, and its rows are read while the thread is parked. -/
def execMldbTile (tl : TileNum) (s : State) : Out := .next (match s.myMldb with
  | some o => s.startBread o
  | none => s.drained (fun s =>
    s.formatOk (.mldbTile tl) (fmtInOk s.cur.fmtb) (fun s => s.irrevocably (fun s => s.needTile tl Tile.free (fun t s =>
      let g := geometry s.ownCore.geom
      s.needBytes t (needB s.cur.fmtb g) (fun s => s.matrixClean (fun s =>
        let o := s.newOp (.mldbTile tl)
        if s.ownCore.tableHeld o then s.forfeit else (s.holdTile s.turn.core tl true).startBread o)))))))
/-- The next row of a tile-form MLDB is read (Table 11-11); after the last one the macro write is staged, or, where a word was poisoned, its
address is recorded for the thread, if none is yet (log entry 48), and the macros keep their B (R246, R257, log entry 45). -/
def State.tryBread (s : State) (t : Tid) : Option State :=
  match (s.core t.core).bread with
  | none => none
  | some o =>
    let f := o.fmt.fmtb
    let g := geometry o.geom
    match o.kind.tile.bind (fun tl => ((s.core t.core).tileUnder o.tbase tl).map (fun x => (tl, x))) with
    | none => some ((s.dropBread t).retry t)
    | some (tl, x) =>
      if o.step < g.kvalid then
        let r := s.readRowB t.core x f g (o.img, o.poison) o.step
        some (s.setCore t.core { s.core t.core with bread := some { o with img := r.1, poison := r.2, step := o.step + 1 } })
      else some ((s.dropBread t).as t (fun s =>
        let s := s.setCur { s.cur with status := .running }
        match o.poison with
        | some p => (s.setCur { s.cur with matrixPoison := some (s.cur.matrixPoison.getD p) }).finish
        | none => s.stage { o with kind := .mldb o.img (.tile tl), img := {}, step := 0 }))
/-- MGEO (R248). -/
def execMgeo (d a : RegNum) (s : State) : Out := .next (s.matrixOp (fun s =>
  let v := s.word a
  let g := geometry v
  let s := s.setCore s.turn.core { s.ownCore with geom := v }
  (s.writeWord d (wordOf (g.k0 + g.n0 * 2 ^ 16 + g.kvalid * 2 ^ 32 + g.nvalid * 2 ^ 48))).finish))
/-- MANC (R249). -/
def execManc (d a : RegNum) (s : State) : Out := .next (s.matrixOp (fun s =>
  let old := s.ownCore.anch
  let new := (s.word a).setWidth 16
  s.enterOp (.rescale (new.toInt - old.toInt)) (fun s =>
    ((s.setCore s.turn.core { s.ownCore with anch := new }).writeWord d (old.signExtend 64)).finish)))
/-- MMV and MMVS (R250, R251). -/
def State.stream (s : State) (i : Instr) (f : Nat) (m0 : Word) (m : Nat) (tl : TileNum) (sparse : Bool) : State :=
  s.drained (fun s => s.formatOk i (fmtInOk s.cur.fmta) (fun s => s.irrevocably (fun s => s.needTile tl Tile.free (fun t s =>
    let kind := MatKind.mmv f m0 m tl sparse
    let o := s.newOp kind
    let need := (liveRows o m0 m).flatMap (fun r => s.rowBytes s.turn.core t s.cur.fmta (geometry o.geom).kvalid r sparse)
    s.needBytes t need (fun s => s.matrixClean (fun s => s.enterOp kind State.finish))))))
/-- MMV (R250). -/
def execMmv (f : Fin 16) (a : RegNum) (m : Fin 16) (tl : TileNum) (s : State) : Out :=
  .next (s.stream (.mmv f a m tl) f.val (s.word a) (m.val + 1) tl false)
/-- MMVS (R251). -/
def execMmvs (f : Fin 16) (a : RegNum) (m : Fin 16) (tl : TileNum) (s : State) : Out :=
  .next (s.stream (.mmvs f a m tl) f.val (s.word a) (m.val + 1) tl true)
/-- MRD (R252). -/
def execMrd (tl : TileNum) (f n : Fin 16) (clr : Bool) (s : State) : Out := .next (s.drained (fun s =>
  s.formatOk (.mrd tl f n clr) (fmtOutOk s.cur.fmto) (fun s => s.irrevocably (fun s => s.needTile tl Tile.free (fun t s =>
    s.needBytes t [(0, (n.val + 1) * 32 * outBytes s.cur.fmto)] (fun s => s.matrixClean (fun s =>
      s.enterOp (.mrd tl f.val (n.val + 1) clr) State.finish)))))))
/-- MCLR (R253). -/
def execMclr (f n : Fin 16) (s : State) : Out := .next (s.matrixOp (fun s => s.enterOp (.mclr f.val (n.val + 1)) State.finish))
/-- The result of MSTA (R254). -/
def State.mstaEnd (s : State) (d : RegNum) (f lane : Nat) : State :=
  let l := Map.get ⟨0, 0⟩ s.ownCore.acc (f * 32 + lane)
  (s.writeQuad d (BitVec.ofNat 128 (l.v.toNat + l.st.toNat * 2 ^ 72))).finish
/-- MSTA (R254): waits for every operation that entered before it. -/
def execMsta (d : RegNum) (f : Fin 16) (lane : Fin 32) (s : State) : Out := .next (s.matrixOp (fun s =>
  if s.ownCore.queued.isEmpty then s.mstaEnd d f.val lane.val else s.park (.msta d f.val lane.val s.ownCore.matSeq)))
/-- Whether a thread has matrix operations or commands that have not completed (R256). -/
def State.matrixBusy (s : State) (t : Tid) : Bool :=
  (s.core t.core).ops.any (fun o => o.issuer == t && !o.cmd) || decide ((s.thread t).cmdsOut ≠ 0)
/-- MSYNC (R244, R256, R257, R259): what has been recorded is taken before it waits, CONTAINED before POISON (R48). -/
def execMsync (s : State) : Out := .next (s.irrevocably (fun s =>
  match s.cur.matrixGone with
  | some c => (s.setCur { s.cur with matrixGone := none }).raise ⟨.contained, c⟩
  | none => s.matrixClean (fun s => if s.matrixBusy s.turn then s.park .matrix else s.finish)))
/-- A command word: the operation it asks for and whether its formats are allowed; none where MCMD raises UNDEF (R255). -/
def commandOf (w : BitVec 32) (m0 : Word) (f : Formats) : Option MatKind :=
  match decode w.toNat with
  | .undef => none
  | .rsvd => none
  | .instr i =>
    match i with
    | .mldbTile tl => if fmtInOk f.fmtb then some (.mldbTile tl) else none
    | .mmv r _ m tl => if fmtInOk f.fmta then some (.mmv r.val m0 (m.val + 1) tl false) else none
    | .mmvs r _ m tl => if fmtInOk f.fmta then some (.mmv r.val m0 (m.val + 1) tl true) else none
    | .mrd tl r n clr => if fmtOutOk f.fmto then some (.mrd tl r.val (n.val + 1) clr) else none
    | .mclr r n => some (.mclr r.val (n.val + 1))
    | _ => none
/-- MCMD (R255): the command leaves for the target core, and the thread parks until the reply. -/
def execMcmd (d a b : RegNum) (s : State) : Out := .next (
  let cap := s.reg a
  let w : BitVec 32 := (s.word b).setWidth 32
  let f := s.cur.formats
  s.checked ((checkTag cap a.val false []).orElse (fun _ =>
    if (scratchOf (s.domainAt s.turn.core) cap.addr).isNone then some ⟨.capBnd, cap.addr⟩
    else if (commandOf w 0 f).isNone then some ⟨.undef, w.toNat⟩ else none)) (fun s => s.drained (fun s => s.matrixOp (fun s =>
      let target := scratchCore ((scratchOf (s.domainAt s.turn.core) cap.addr).getD 0)
      let m : MatCmd := { word := w, m0 := hi64 (s.reg b).val, cap := cap, fmt := f, issuer := s.turn }
      (s.setCore target { s.core target with cmdsIn := (s.core target).cmdsIn ++ [m] }).park (.mcmd d target)))))
/-- The reply to a command reaches its issuer (Table 11-6). -/
def State.commandReply (s : State) (t : Tid) (r : Except TrapVal Nat) : State :=
  match (s.thread t).wait with
  | some (.mcmd d _) =>
    s.as t (fun s =>
      let s := s.setCur { s.cur with status := .running }
      match r with
      | .error e => s.raise e
      | .ok v =>
        let s := if v = 0 then s.setCur { s.cur with cmdsOut := s.cur.cmdsOut + 1 } else s
        (s.writeWord d (wordOf v)).finish)
  | _ => s
/-- A command reaches its target core (Table 11-6); it waits while a table it names is being loaded (Table 9-5). A tile whose region leaves
out a byte that the command needs does not hold it back: the operation then reads or writes past the region (log entry 47). -/
def State.commandArrives (s : State) (c : Nat) : Option State :=
  match (s.core c).cmdsIn with
  | [] => none
  | m :: rest =>
    match commandOf m.word m.m0 m.fmt with
    | none => none
    | some kind =>
      let k := s.core c
      let o : MatOp := { kind := kind, fmt := m.fmt, geom := k.geom, anch := k.anch, tbase := k.tilebase, issuer := m.issuer, cmd := true, seq := k.matSeq }
      if k.tableHeld o || !s.withHome (clusterOf m.issuer.core) (clusterOf c) then none
      else
        let s := s.setCore c { k with cmdsIn := rest }
        let inDomain := s.domainOfCore c == s.domainOfCore m.issuer.core && (s.domainOfCore c).isSome
        some (
          if k.contained then s.commandReply m.issuer (.error ⟨.contained, c⟩)
          else if !m.cap.tag || m.cap.otype != 0 || !m.cap.has permM || !m.cap.inBounds m.cap.addr 1 || !inDomain then
            s.commandReply m.issuer (.error ⟨.mcrefuse, c⟩)
          else if (kind.tile.map (fun tl => (k.tile tl).isNone)) == some true then s.commandReply m.issuer (.ok 2)
          else if k.preempted || decide (4 ≤ k.cq.length) then s.commandReply m.issuer (.ok 1)
          else (s.setCore c { s.core c with cq := (s.core c).cq ++ [o], matSeq := k.matSeq + 1 }).commandReply m.issuer (.ok 0))

/-- Whether a queue head may start: a command's tile must be ready (R241). -/
def Core.canStart (c : Core) (o : MatOp) : Bool :=
  if o.cmd then (match o.kind.tile with
    | some tl => (c.tile tl).any Tile.free
    | none => true)
  else true
/-- The idle unit starts the head that entered its queue earliest; an image that waited for the queue enters it, and threads
that waited for the staging buffer go on (R241, R246). -/
def State.matrixStart (s : State) (c : Nat) : Option State :=
  let k := s.core c
  if k.mrun.isSome || k.preempted || k.parity.isSome then none
  else
    let heads := ((k.mq.head?).toList ++ (k.cq.head?).toList).filter k.canStart
    match heads with
    | [] => none
    | o :: r =>
      let o := match r with
        | p :: _ => if p.seq < o.seq then p else o
        | [] => o
      let k := if o.cmd then { k with cq := k.cq.drop 1 } else { k with mq := k.mq.drop 1 }
      let s := s.setCore c { k with mrun := some o }
      let s := match (if o.cmd then o.kind.tile else none) with
        | some tl => s.holdTile c tl true
        | none => s
      let k := s.core c
      let s := match k.staged with
        | some p => if k.mq.length < 4 then
            (s.setCore c { k.enter p with staged := none }).as p.issuer (fun s => (s.setCur { s.cur with status := .running }).finish)
          else s
        | none => s
      some (if (s.core c).stagingHeld then s
        else (List.range 15).foldl (fun acc i =>
          match (acc.thread ⟨c, i⟩).wait with
          | some (.staging _) => acc.retry ⟨c, i⟩
          | _ => acc) s)

/-- The A elements of a streamed row, and the poisoned word it reads (R238, R251). -/
def State.rowOfA (s : State) (c : Nat) (t : Tile) (op : MatOp) (r : Nat) (sparse : Bool) : List AElem × Option Nat :=
  let f := op.fmt.fmta
  let kvalid := (geometry op.geom).kvalid
  let bits := elemBits f
  let k := s.core c
  let poison := (s.rowBytes c t f kvalid r sparse).findSome? (fun p => s.tilePoison c t p.1 p.2)
  let value := fun (x : Nat) (scale : Nat) =>
    if fmtIsInt f then elemVal k f x else operandVal k f op.fmt.sca x (if fmtIsMx f then some scale else none)
  if sparse then
    let o := r * strideS f
    let n := min (s.tileRead c t o 1) 64
    ((List.range n).filterMap (fun j =>
      let kk := s.tileRead c t (o + 8 + j) 1 % 64
      if kvalid ≤ kk then none
      else some { kk := kk, v := value (s.tileElem c t (o + 72) bits j) (s.tileRead c t (o + 104 + kk / 32) 1) }), poison)
  else
    let o := r * strideA f
    ((List.range kvalid).map (fun kk =>
      { kk := kk, v := value (s.tileElem c t o bits kk) (s.tileRead c t (o + 32 + kk / 32) 1) }), poison)
/-- A row of an MMV or MMVS is streamed: its contributions are added (R239, R240), none while BVALID is 0; a row that read a poisoned word adds
nothing, its 32 lanes become NaN, and the address is recorded (R257, log entry 48). -/
def State.streamRow (s : State) (c : Nat) (op : MatOp) (f r : Nat) (tl : TileNum) (sparse : Bool) : State × Option Nat :=
  let k := s.core c
  match k.tileUnder op.tbase tl with
  | none => (s, none)
  | some t =>
    let es := s.rowOfA c t op r sparse
    let row := (f + r) % 16
    match es.2, k.btile with
    | some p, _ => (s.setCore c { k with acc := poisonRow k.acc row }, some p)
    | none, none => (s, none)
    | none, some b =>
      let q := contributions b op es.1
      (s.setCore c { k with acc := q.1.foldl (fun a e => addLane a row e.1 e.2.1 e.2.2) k.acc, lost := k.lost || q.2 }, none)
/-- Accumulator row j of an MRD is read, and cleared when asked: its converted words, with the flags (R252). -/
def State.readAccRow (s : State) (c : Nat) (op : MatOp) (row : Nat) (clr : Bool) : Nat × FFlags × State :=
  let k := s.core c
  let rs := (accRow k.acc row).map (readLane k op.fmt op.anch)
  (rs.foldr (fun r a => r.1 % 2 ^ (8 * outBytes op.fmt.fmto) + 2 ^ (8 * outBytes op.fmt.fmto) * a) 0, rs.foldl (fun a r => a ||| r.2) 0,
    if clr then s.setCore c { k with acc := clearRow k.acc row } else s)
/-- Row j of an MRD's result is written to its tile, where it has been converted (R252). -/
def State.writeAccRow (s : State) (c : Nat) (op : MatOp) (tl : TileNum) (j : Nat) : State :=
  match (s.core c).tileUnder op.tbase tl, op.out[j]? with
  | some t, some v => s.tileWrite c t (j * 32 * outBytes op.fmt.fmto) (32 * outBytes op.fmt.fmto) v
  | _, _ => s
/-- A completion reaches the issuer: flags and poison at once for a thread of the core, by acknowledgement for a command (R252,
R255, R257); of several addresses the first is kept (log entry 48). -/
def State.opReport (s : State) (c : Nat) (op : MatOp) (fl : FFlags) (poison : Option Nat) : State :=
  if op.cmd && (s.thread op.issuer).cmdsOut == 0 then s
  else
    let s := s.reportFlags op.issuer fl
    let h := s.thread op.issuer
    if op.cmd then
      let k := s.core c
      (s.setCore c { k with outNext := k.outNext + 1 }).setThread op.issuer { h with cmdAcks := h.cmdAcks ++ [⟨c, poison, k.outNext, false⟩] }
    else s.setThread op.issuer { h with matrixPoison := if h.matrixPoison.isSome then h.matrixPoison else poison }
/-- Threads of a core whose wait for the matrix unit is over go on: MSYNC issues again, MSTA reads its lane (R254, R256). -/
def State.matrixWake (s : State) (c : Nat) : State :=
  (List.range 15).foldl (fun acc i =>
    let t : Tid := ⟨c, i⟩
    match (acc.thread t).wait with
    | some .matrix => if acc.matrixBusy t then acc else acc.retry t
    | some (.msta d f lane upto) =>
      if (acc.core c).queued.any (fun o => decide (o.seq < upto)) then acc
      else acc.as t (fun s => (s.setCur { s.cur with status := .running }).mstaEnd d f lane)
    | _ => acc) s
/-- Whether an operation writes a tile. -/
def MatOp.writesTile (o : MatOp) : Bool :=
  match o.kind with
  | .mrd _ _ _ _ => true
  | _ => false
/-- The row accesses of an operation (Table 11-11). MRD writes row j when it reads row j + 4. -/
def MatOp.steps (o : MatOp) : Nat :=
  match o.kind with
  | .mldb _ _ => 0
  | .mldbTile _ => (geometry o.geom).kvalid
  | .mmv _ m0 m _ _ => (liveRows o m0 m).length
  | .mrd _ _ n _ => n + 4
  | .mclr _ n => n
  | .rescale _ => 0
  | .asnd _ n _ _ => n
/-- Whether a device is this one or a Faleus route leads to it (R383, R385). -/
def State.reaches (s : State) (dev : Nat) : Bool :=
  dev == s.devnum.toNat || (s.routeTo dev).isSome
/-- Row `key` of the outbox of core `c` is sent, the core's latest; a device that no route reaches refuses it (R260, R267 to R269). -/
def State.sendOut (s : State) (c key : Nat) (o : OutRow) : State :=
  let k := s.core c
  let dev := handleDev o.handle
  let o := { o with seq := k.outNext, st := if s.reaches dev then .sent else .answered 2 true false }
  let s := s.setCore c { k with outbox := Map.set k.outbox key o, outNext := k.outNext + 1 }
  if dev = s.devnum.toNat || !s.reaches dev then s else { s with hostOut := s.hostOut ++ [.rowSent c key] }
/-- Row j of an ASND is copied into its place in the outbox, cleared when asked, and sent (R267). -/
def State.sendRow (s : State) (c f : Nat) (clr : Bool) (rows : List Nat) (j : Nat) : State :=
  let k := s.core c
  let row := (f + j) % 16
  match rows[j]?.bind (fun key => (Map.find k.outbox key).map (fun o => (key, o))) with
  | none => s
  | some (key, o) =>
    (s.setCore c { k with acc := if clr then clearRow k.acc row else k.acc }).sendOut c key { o with lanes := accRow k.acc row }
/-- The next row access of the running operation of a core (R243, Table 11-11). -/
def State.matrixRow (s : State) (c : Nat) (op : MatOp) : State :=
  let j := op.step
  let r : State × MatOp := match op.kind with
    | .mldb _ _ => (s, op)
    | .mldbTile tl => match (s.core c).tileUnder op.tbase tl with
      | none => (s, op)
      | some t =>
        let q := s.readRowB c t op.fmt.fmtb (geometry op.geom) (op.img, op.poison) j
        (s, { op with img := q.1, poison := q.2 })
    | .mmv f m0 m tl sparse =>
      let q := s.streamRow c op f (((liveRows op m0 m)[j]?).getD 0) tl sparse
      (q.1, { op with poison := op.poison.orElse (fun _ => q.2) })
    | .mrd tl f n clr =>
      let s := if 4 ≤ j then s.writeAccRow c op tl (j - 4) else s
      if j < n then
        let q := s.readAccRow c op ((f + j) % 16) clr
        (q.2.2, { op with out := op.out ++ [q.1], fl := op.fl ||| q.2.1 })
      else (s, op)
    | .mclr f _ => (s.setCore c { s.core c with acc := clearRow (s.core c).acc ((f + j) % 16) }, op)
    | .rescale _ => (s, op)
    | .asnd f _ clr rows => (s.sendRow c f clr rows j, op)
  r.1.setCore c { r.1.core c with mrun := some { r.2 with step := j + 1 } }
/-- The running operation of a core ends after its last row access: what it does as a whole, the tile let go, and its report (R242). -/
def State.matrixEnd (s : State) (c : Nat) (op : MatOp) : State :=
  let k := { s.core c with mrun := none }
  let s := s.setCore c (match op.kind with
    | .mldb img source => { k with btile := some (alignB k img source op.geom op.fmt op.issuer) }
    | .mldbTile tl => if op.poison.isSome then k else { k with btile := some (alignB k op.img (.tile tl) op.geom op.fmt op.issuer) }
    | .rescale delta =>
      let ls := k.acc.map (fun e => (e.1, rescaleLane delta e.2))
      { k with acc := ls.map (fun e => (e.1, e.2.1)), lost := k.lost || ls.any (fun e => e.2.2) }
    | _ => k)
  let s := match op.kind.tile with
    | some tl => s.holdTile c tl false
    | none => s
  (s.opReport c op op.fl op.poison).matrixWake c

/-- A macro parity error of a streaming operation: its next row is not added until the macro has been tested and B read again (R247, R347). -/
def State.parityError (s : State) (c : Nat) : Option State :=
  let k := s.core c
  let streams : Bool := k.mrun.any (fun o => match o.kind with
    | .mmv _ _ _ _ _ => true
    | _ => false)
  if streams && k.btile.isSome && k.parity.isNone then some (s.setCore c { k with parity := some false }) else none
/-- What a reload of B read: an image, a poisoned word, nothing yet, or a source that is gone. -/
inductive Reloaded where
  | image (i : BImage) (s : State)
  | poisoned (a : Nat) (s : State)
  | wait (s : State)
  | gone
/-- The recorded source of B is read again (R247). -/
def State.readSource (s : State) (c : Nat) (b : BTile) : Reloaded :=
  match b.source with
  | .tile tl => match (s.core c).tile tl with
    | none => .gone
    | some t => match s.tileImage c t b.fmt.fmtb (geometry b.geom) with
      | (i, none) => .image i s
      | (_, some a) => .poisoned a s
  | .memory cap w =>
    let rd := fun (s : State) (x n : Nat) => match s.unitRead c x n (cap.has permD) with
      | .data v p s => (.ok (v, p, s) : Except (Option State) (Nat × Option Nat × State))
      | .wait s => .error (some s)
      | .gone => .error none
    match imageFrom cap w b.fmt.fmtb (geometry b.geom) s rd with
    | .ok (i, none, s) => .image i s
    | .ok (_, some a, s) => .poisoned a s
    | .error (some s) => .wait s
    | .error none => .gone
/-- B is read again and rewritten, and the operation goes on with the row that failed (R247). A source that cannot be read clears BVALID with
a machine check; a poisoned one makes every row that B still feeds NaN too, and its address is recorded (R257). -/
def State.tryReload (s : State) (c : Nat) (op : MatOp) (b : BTile) : Option State :=
  let failed := fun (s : State) => (s.setCore c { s.core c with btile := none, parity := none }).addMchk (s.domainOfCore b.issuer.core)
    { kind := 4, core := c, vt := (s.thread b.issuer).vt, cycle := (s.core c).cycle
      addr := match b.source with
        | .tile tl => (((s.core c).tile tl).map (fun t => s.tileVa c t 0)).getD 0
        | .memory cap _ => cap.addr }
  match s.readSource c b with
  | .image i s => some (s.setCore c { s.core c with btile := some (alignB (s.core c) i b.source b.geom b.fmt b.issuer), reload := true, parity := none })
  | .poisoned a s =>
    let rows := match op.kind with
      | .mmv f m0 m _ _ => ((liveRows op m0 m).drop op.step).map (fun r => (f + r) % 16)
      | _ => []
    some (failed (s.setCore c { s.core c with
      acc := rows.foldl poisonRow (s.core c).acc, mrun := some { op with step := op.steps, poison := op.poison.orElse (fun _ => some a) } }))
  | .wait s' => if s' = s then none else some s'
  | .gone => some (failed s)
/-- The running operation of a core makes its next row access, the last of which ends it, or its reload goes on. -/
def State.matrixStep (s : State) (c : Nat) : Option State :=
  match (s.core c).mrun with
  | none => none
  | some op => match (s.core c).parity, (s.core c).btile with
    | some false, _ => none
    | some true, some b => s.tryReload c op b
    | some true, none => some (s.setCore c { s.core c with parity := none })
    | none, _ =>
      if op.writesTile && s.copying c then none
      else
        let s := if op.step < op.steps then s.matrixRow c op else s
        match (s.core c).mrun with
        | some o => some (if o.step < o.steps then s else s.matrixEnd c o)
        | none => some s
/-- Up to `n` row accesses of the running operation of a core. -/
def State.matrixRows (s : State) (c : Nat) : Nat → State
  | 0 => s
  | n + 1 => match s.matrixStep c with
    | none => s
    | some s => if (s.core c).mrun.isNone then s else State.matrixRows s c n
/-- MATRIX_OP_COMPLETE (R242): the running operation of a core makes its next `n` row accesses, or, for 0, all that are left, the last of
which completes it (log entry 44). -/
def State.matrixComplete (s : State) (c n : Nat) : Option State :=
  if (s.core c).mrun.isNone then none
  else
    let s' := s.matrixRows c (if n = 0 then 65 else n)
    if s' = s then none else some s'

end Sys2Proof.Machine
end

