-- ==== Sys2Proof/Machine/Trellis.lean ====
section
/-!
DEFINITION. Trellis accumulate-network instructions (major 0x29), chains, the outbox and the arrival of rows (R260 to R276).
-/
namespace Sys2Proof.Machine

/-- The rows of a thread in its core's outbox, oldest first. -/
def State.ownRows (s : State) (t : Tid) : List (Nat × OutRow) := (s.core t.core).outbox.filter (fun e => e.2.owner == t)
/-- Whether a row is refused (R271). -/
def OutRow.isRefused (r : OutRow) : Bool :=
  match r.st with
  | .refused _ _ _ => true
  | .reserved => false
  | .sent => false
  | .answered _ _ _ => false
/-- Whether a row is refused and ready (R271). -/
def OutRow.isReady (r : OutRow) : Bool :=
  match r.st with
  | .refused _ ready _ => ready
  | .reserved => false
  | .sent => false
  | .answered _ _ _ => false
/-- Whether a row holds a copy of its lanes: it has been read out of the array. -/
def OutRow.isHeld (r : OutRow) : Bool :=
  match r.st with
  | .reserved => false
  | .sent => true
  | .answered _ _ _ => true
  | .refused _ _ _ => true
/-- The refused rows of a thread (R265, R275). -/
def State.refusedRows (s : State) (t : Tid) : List (Nat × OutRow) := (s.ownRows t).filter (fun e => e.2.isRefused)
/-- ACCABS while the thread holds refused rows (R265, R271), unless the instruction has parked behind this check (R182, R267). -/
def State.noRefused (s : State) (k : State → State) : State :=
  let n := (s.refusedRows s.turn).length
  if s.cur.past || n = 0 then k s else s.raise ⟨.accabs, n⟩
/-- The issuing thread parks behind its ACCABS check (R182, R267). -/
def State.parkPast (s : State) (w : Wait) : State := (s.setCur { s.cur with past := true }).park w
/-- The checks of a handle (R262, R263): size 1 and N; a cluster outside the domain is CAPPERM. -/
def State.checkHandle (s : State) (a : RegNum) : Option TrapVal :=
  let c := s.reg a
  let h := s.word a
  (checkAccess c a.val c.addr 1 [permN]).orElse (fun _ =>
    if handleDev h == s.devnum.toNat && !(s.domainAt s.turn.core).holds (clusterOf (handleCore h)) then some ⟨.capPerm, a.val⟩ else none)
/-- A Trellis instruction on a handle: drains, is irrevocable, checks the handle (R263, R265). -/
def State.onChain (s : State) (a : RegNum) (k : Word → State → State) : State :=
  s.drained (fun s => s.checked (s.checkHandle a) (fun s => s.irrevocably (k (s.word a))))
/-- A set-up or close: CONTAINED for a contained core or an unreachable device (R263). -/
def State.reachTarget (s : State) (h : Word) (k : State → State) : State :=
  if !s.reaches (handleDev h) then s.raise ⟨.contained, h.toNat % 2 ^ 32⟩
  else if handleDev h == s.devnum.toNat && (s.core (handleCore h)).contained then s.raise ⟨.contained, handleCore h⟩
  else k s
/-- The reply to a set-up or close reaches its issuer: the status, or CONTAINED (R263, R266, R274). -/
def State.chainStatusTo (s : State) (d : RegNum) (h : Word) (st : Nat) : State :=
  if st = 3 then s.raise ⟨.contained, handleCore h⟩ else (s.writeWord d (wordOf st)).finish
/-- A set-up or close leaves for its target; the thread parks until the reply (R266, R274). -/
def State.askChain (s : State) (d : RegNum) (h : Word) (desc : BitVec 32) (clr close : Bool) : State :=
  let s := s.park (.chain d h desc clr close)
  if handleDev h == s.devnum.toNat then s else { s with hostOut := s.hostOut ++ [.chainRequest h desc clr close] }

/-- The lowest of a list of counts. -/
def leastOf : List Nat → Nat
  | [] => 0
  | [x] => x
  | x :: r => min x (leastOf r)
/-- The chain status word (R273). -/
def ChainSlot.status (c : ChainSlot) : Word :=
  let m := leastOf c.counts
  wordOf ((decide (c.expected ≤ m)).toNat * 2 ^ 50 + 2 ^ 49 + c.ovr.toNat * 2 ^ 48 + m * 2 ^ 32 + c.expected * 2 ^ 16 + (c.n - 1) * 16 + c.f)
/-- DONE (R273). -/
def ChainSlot.done (c : ChainSlot) : Bool := decide (c.expected ≤ leastOf c.counts)
/-- The open slot that a handle names on a core, its key matching. -/
def Core.chainOf (c : Core) (h : Word) : Option ChainSlot :=
  match Map.find c.chains (handleSlot h) with
  | some x => if x.key = handleKey h then some x else none
  | none => none
/-- The rows of a chain, as accumulator row numbers (R261). -/
def chainRows (f n : Nat) : List Nat := (List.range n).map (fun j => (f + j) % 16)
/-- ACHN at its target, as one step (R266): the status, 3 at a contained core, whose issuer takes CONTAINED (R263). -/
def State.openChain (s : State) (h : Word) (desc : BitVec 32) (clr : Bool) : Nat × State :=
  let c := handleCore h
  let k := s.core c
  let f := desc.toNat % 16
  let n := desc.toNat / 16 % 16 + 1
  let taken := k.chains.flatMap (fun e => chainRows e.2.f e.2.n)
  if k.contained then (3, s)
  else if (Map.find k.chains (handleSlot h)).isSome || k.preempted then (1, s)
  else if (chainRows f n).any taken.contains then (2, s)
  else
    let slot : ChainSlot := { key := handleKey h, f := f, n := n, expected := desc.toNat / 2 ^ 16, counts := List.replicate n 0 }
    (0, s.setCore c { k with
      chains := Map.set k.chains (handleSlot h) slot
      acc := if clr then (chainRows f n).foldl clearRow k.acc else k.acc })
/-- Wake the threads of a core that wait in ADRN on a slot, giving each the status word. -/
def State.wakeAdrn (s : State) (c slot : Nat) (w : Word) : State :=
  (List.range 15).foldl (fun acc i =>
    match (acc.thread ⟨c, i⟩).wait with
    | some (.adrn d k) =>
      if k = slot then acc.as ⟨c, i⟩ (fun s => ((s.setCur { s.cur with status := .running }).writeWord d w).finish) else acc
    | _ => acc) s
/-- ACLS at its target, as one step (R274): the status, 3 at a contained core (R263); a thread parked in ADRN wakes with OPEN = 0. -/
def State.closeChain (s : State) (h : Word) : Nat × State :=
  let c := handleCore h
  let k := s.core c
  if k.contained then (3, s) else match k.chainOf h with
  | none => (1, s)
  | some _ => (0, (s.setCore c { k with chains := Map.del k.chains (handleSlot h) }).wakeAdrn c (handleSlot h) 0)

/-- A row reaches its target core (R269, Table 12-4): the reason, 0 for acceptance, and for PREEMPTED whether the refusal list
was full. `sender` is the sending core, × 2^16 above it its device (R271). A row past an expected count of 0xFFFF sets OVER though the count that
R269 keeps is saturated (DESIGN CHOICE, log entry 57). -/
def State.rowArrives (s : State) (h : Word) (row : Nat) (anch : BitVec 16) (lanes : List Lane) (sender : Nat) : Nat × Bool × State :=
  let c := handleCore h
  let k := s.core c
  if k.contained then (2, false, s)
  else if k.preempted then
    if k.refusals.contains sender then (1, false, s)
    else if 256 ≤ k.refusals.length then (1, true, s)
    else (1, false, s.setCore c { k with refusals := k.refusals ++ [sender] })
  else match k.chainOf h with
  | none => (3, false, s)
  | some x =>
    let rescaling := k.queued.any (fun o => match o.kind with
      | .rescale _ => true
      | _ => false)
    if x.n ≤ row then (4, false, s)
    else if anch != k.anch || rescaling then (5, false, s)
    else
      let r := (x.f + row) % 16
      let acc := (lanes.zipIdx).foldl (fun a e => addLane a r e.2 e.1.v e.1.st) k.acc
      let n := (x.counts[row]?).getD 0
      let x := { x with counts := x.counts.set row (min (n + 1) 0xFFFF), ovr := x.ovr || decide (x.expected < n + 1) }
      let s := s.setCore c { k with acc := acc, chains := Map.set k.chains (handleSlot h) x }
      (0, false, if x.done then s.wakeAdrn c (handleSlot h) x.status else s)
/-- An outbox row replaced. -/
def State.setRow (s : State) (c k : Nat) (r : OutRow) : State := s.setCore c { s.core c with outbox := Map.set (s.core c).outbox k r }
/-- Whether row `k` of a core's outbox is the first on its way to its target: rows to one target arrive in sending order (R260). -/
def Core.firstSent (c : Core) (r : OutRow) : Bool :=
  !c.outbox.any (fun e => e.2.st == .sent && decide (e.2.seq < r.seq)
    && handleDev e.2.handle == handleDev r.handle && handleCore e.2.handle == handleCore r.handle)
/-- Row `k` of the outbox of core `c` reaches its target in this module; its answer goes back (R268, R269). -/
def State.outboxArrives (s : State) (c k : Nat) : Option State :=
  match Map.find (s.core c).outbox k with
  | none => none
  | some r =>
    let dest := clusterOf (handleCore r.handle)
    if r.st ≠ .sent || handleDev r.handle != s.devnum.toNat || !(s.core c).firstSent r || !s.behind (clusterOf c) dest r.cut then none
    else
      let s := s.logPacket (clusterOf c) dest r.cut (.row r.handle r.row r.anch r.lanes c k)
      let a := s.rowArrives r.handle r.row r.anch r.lanes c
      some (a.2.2.setRow c k { r with st := .answered a.1 (decide (a.1 ≠ 1)) a.2.1, cut := false })
/-- Threads that wait for outbox space or for ready rows issue again (R267, R272). -/
def State.outboxWake (s : State) (c : Nat) : State :=
  (List.range 15).foldl (fun acc i =>
    match (acc.thread ⟨c, i⟩).wait with
    | some .outbox => acc.retry ⟨c, i⟩
    | some (.arsn _) => if (acc.refusedRows ⟨c, i⟩).all (fun e => e.2.isReady) then acc.retry ⟨c, i⟩ else acc
    | _ => acc) s
/-- The answer to row `k` of the outbox of core `c` arrives: an accepted row leaves, a refused one stays (R268, R271). -/
def State.rowAnswered (s : State) (c k reason : Nat) (ready late : Bool) : State :=
  match Map.find (s.core c).outbox k with
  | none => s
  | some r =>
    (if reason = 0 then s.setCore c { s.core c with outbox := Map.del (s.core c).outbox k }
     else s.setRow c k { r with st := .refused reason (ready || (reason == 1 && r.early)) late, cut := false, early := false }).outboxWake c
/-- Rows of core `c` that `p` names become ready when they were refused for PREEMPTED, their refusal still on its way included
(R271); a notice of another module may come before the answer that it follows (R276). -/
def State.makeReady (s : State) (c : Nat) (p : Nat → OutRow → Bool) : State :=
  let f := fun (e : Nat × OutRow) => match e.2.st with
    | .refused 1 _ late => if p e.1 e.2 then (e.1, { e.2 with st := .refused 1 true late }) else e
    | .answered 1 _ late => if p e.1 e.2 then (e.1, { e.2 with st := .answered 1 true late }) else e
    | .sent => if p e.1 e.2 && handleDev e.2.handle != s.devnum.toNat then (e.1, { e.2 with early := true }) else e
    | _ => e
  (s.setCore c { s.core c with outbox := (s.core c).outbox.map f }).outboxWake c

/-- ACHN (R266). -/
def execAchn (d a b : RegNum) (clr : Bool) (s : State) : Out := .next (s.onChain a (fun h s =>
  s.reachTarget h (fun s => s.noRefused (fun s => s.askChain d h ((s.word b).setWidth 32) clr false))))
/-- ACLS (R274). -/
def execAcls (d a : RegNum) (s : State) : Out := .next (s.onChain a (fun h s =>
  s.reachTarget h (fun s => s.noRefused (fun s => s.askChain d h 0 false true))))
/-- ASND (R267): outbox entries are reserved, and a read of the rows enters the local matrix queue. A chain row j0 + j above 15 is sent as the sum
is, and refused (DESIGN CHOICE, log entry 57). -/
def execAsnd (f n : Fin 16) (a b : RegNum) (clr : Bool) (s : State) : Out := .next (s.onChain a (fun h s => s.noRefused (fun s =>
  let c := s.turn.core
  let k := s.ownCore
  let m := n.val + 1
  if 64 < k.outbox.length + m then (if s.cur.inFrame then s.forfeit else s.parkPast .outbox)
  else
    let keys := (List.range m).map (fun j => k.outNext + j)
    let j0 := wfld (s.word b) 0 4
    s.enterOp (.asnd f.val m clr keys) (fun s =>
      let put := fun (ob : Map OutRow) (j : Nat) =>
        Map.set ob (k.outNext + j) { handle := h, row := j0 + j, anch := k.anch, lanes := [], owner := s.turn, st := .reserved }
      (s.setCore c { s.core c with outbox := (List.range m).foldl put (s.core c).outbox, outNext := k.outNext + m }).finish))))
/-- The handle of ADRN and ASTA must name the issuing core (R273). -/
def State.ownChain (s : State) (a : RegNum) (h : Word) (k : State → State) : State :=
  if handleDev h == s.devnum.toNat && handleCore h == s.turn.core then k s else s.raise ⟨.capPerm, a.val⟩
/-- The status word of a handle's chain on the issuing core (R273). -/
def State.chainStatus (s : State) (h : Word) : Word := ((s.ownCore.chainOf h).map ChainSlot.status).getD 0
/-- ADRN (R273). -/
def execAdrn (d a : RegNum) (s : State) : Out := .next (s.onChain a (fun h s => s.ownChain a h (fun s => s.noRefused (fun s =>
  match s.ownCore.chainOf h with
  | none => (s.writeWord d 0).finish
  | some x => if x.done then (s.writeWord d x.status).finish else s.park (.adrn d (handleSlot h))))))
/-- ADRN.nw (R273). -/
def execAdrnNw (d a : RegNum) (s : State) : Out := .next (s.onChain a (fun h s => s.ownChain a h (fun s => s.noRefused (fun s =>
  (s.writeWord d (s.chainStatus h)).finish))))
/-- ASTA, selector 1 (R273). -/
def execAstaChain (d a : RegNum) (s : State) : Out := .next (s.onChain a (fun h s => s.ownChain a h (fun s =>
  (s.writeWord d (s.chainStatus h)).finish)))
/-- Resend those refused rows of the thread for which `p` holds; d receives their number (R272). -/
def State.resend (s : State) (d : RegNum) (p : OutRow → Bool) : State :=
  let c := s.turn.core
  let mine := (s.refusedRows s.turn).filter (fun e => p e.2)
  let s := mine.foldl (fun acc e => acc.sendOut c e.1 e.2) s
  (s.writeWord d (wordOf mine.length)).finish
/-- ARSN (R272): parks until every refused row of the thread is ready. -/
def execArsn (d : RegNum) (s : State) : Out := .next (s.drained (fun s => s.irrevocably (fun s =>
  if (s.refusedRows s.turn).all (fun e => e.2.isReady) then s.resend d (fun _ => true) else s.park (.arsn d))))
/-- ARSN.nw (R272). -/
def execArsnNw (d : RegNum) (s : State) : Out := .next (s.drained (fun s => s.irrevocably (fun s => s.resend d OutRow.isReady)))
/-- Drop every refused row of a thread (R272). -/
def State.dropRefused (s : State) (t : Tid) : State :=
  s.setCore t.core { s.core t.core with outbox := (s.core t.core).outbox.filter (fun e => !(e.2.owner == t && e.2.isRefused)) }
/-- ARSN.drop (R272). -/
def execArsnDrop (d : RegNum) (s : State) : Out := .next (s.drained (fun s => s.irrevocably (fun s =>
  let n := (s.refusedRows s.turn).length
  (((s.dropRefused s.turn).outboxWake s.turn.core).writeWord d (wordOf n)).finish)))
/-- The outbox status word of a thread (R275). -/
def State.outboxStatus (s : State) (t : Tid) : Word :=
  let mine := s.ownRows t
  let ref := s.refusedRows t
  let why := match ref with
    | [] => 0
    | e :: _ => match e.2.st with
      | .refused r _ _ => r
      | _ => 0
  wordOf (why * 2 ^ 24 + (ref.filter (fun e => e.2.isReady)).length * 2 ^ 16 + ref.length * 2 ^ 8 + (mine.filter (fun e => e.2.isHeld)).length)
/-- ASTA, selector 0 (R275). -/
def execAstaOutbox (d : RegNum) (s : State) : Out := .next (s.drained (fun s => s.irrevocably (fun s =>
  (s.writeWord d (s.outboxStatus s.turn)).finish)))

end Sys2Proof.Machine
end

