-- ==== Sys2Proof/Machine/Csr.lean ====
section
/-!
DEFINITION. State registers (major 0x31): what each one holds, what a write changes, and who may name it (R45, R46, R323).
-/
namespace Sys2Proof.Machine

/-- The scopes of Table 2-7. -/
inductive CsrScope where
  | thread
  | core
  | cluster
  | domain
  deriving DecidableEq, Repr
/-- The scope of a state register (R45). -/
def csrScope (r : Csr) : CsrScope :=
  if r.code < 0x100 then .thread else if r.code < 0x200 then .core else if r.code < 0x300 then .cluster else .domain
/-- The registers that Table 2-7 marks "—" for users. -/
def csrSupervisor : Csr → Bool
  | .tepc => true
  | .tvec => true
  | .portcfg => true
  | .spillq => true
  | .ddesc => true
  | .ptroot => true
  | .spilla => true
  | .ctxa => true
  | .snapa => true
  | .thermt => true
  | .lattol => true
  | _ => false
/-- Whether a register holds a capability (R45). -/
def csrIsCap (r : Csr) : Bool := r == .tepc || r == .tvec

/-- TSTAT (R45). -/
def Thread.tstat (h : Thread) : Nat :=
  h.mode.toNat + 2 * h.satn.toNat + 4 * h.spec.toNat + 8 * h.dup.toNat + 16 * h.irv.toNat + 32 * h.intrap.toNat + 64 * h.pmode.toNat
/-- MSTAT (R45). -/
def Core.mstat (c : Core) : Nat :=
  (!c.queued.isEmpty).toNat + 2 * c.cq.length + 16 * c.lost.toNat + 32 * c.reload.toNat + 64 * c.btile.isSome.toNat
/-- Whether a diverted packet is a chunk (R339). -/
def Spilled.isChunk : Spilled → Bool
  | .chunk _ => true
  | .put _ => false
/-- XSTAT (R45): a chunk that waits in the spill queue waits too (R294). -/
def Core.xstat (c : Core) : Nat :=
  c.fifo.length + 32 * (c.running.isSome || !c.landing.isEmpty || c.diverted.any Spilled.isChunk).toNat + 256 * (c.outbox.filter (fun e => e.2.isHeld)).length
/-- The value of a state register other than TEPC and TVEC as a thread reads it (Table 2-7). -/
def State.csrValue (s : State) (t : Tid) (r : Csr) : Word :=
  let h := s.thread t
  let c := s.core t.core
  let k := s.cluster (clusterOf t.core)
  let d := s.domainAt t.core
  match r with
  | .tstat => wordOf h.tstat
  | .rmode => h.rmode.setWidth 64
  | .tcause => wordOf (h.causeCode.toNat + 64 * h.causeImpr.toNat)
  | .tval => h.tval
  | .tepc => lo64 h.tepc.val
  | .tvec => lo64 h.tvec.val
  | .tstamp => h.vt.ts
  | .ttie => h.vt.tb
  | .thint => h.thint.setWidth 64
  | .grnk => h.grnk.setWidth 64
  | .gsiz => h.gsiz.setWidth 64
  | .fmta => h.fmta.setWidth 64
  | .fmtb => h.fmtb.setWidth 64
  | .fmto => h.fmto.setWidth 64
  | .sca => h.sca.setWidth 64
  | .scb => h.scb.setWidth 64
  | .fflags => h.fflags.setWidth 64
  | .cycle => c.cycle
  | .instret => h.instret
  | .geom => c.geom
  | .anch => c.anch.setWidth 64
  | .spcf => wordOf (c.negEmpty.toNat + 2 * c.negRow.toNat)
  | .mstat => wordOf c.mstat
  | .xstat => wordOf c.xstat
  | .lhbase => wordOf (c.lhbase.toNat * 0x400)
  | .tilebase => wordOf (c.tilebase.toNat * 64)
  | .clid => wordOf (clusterOf t.core + (clusterOf t.core / 512 * 2 + clusterOf t.core % 32 / 16) * 2 ^ 10)
  | .portcfg => wordOf (k.qos.toNat + 256 * k.atsOn.toNat)
  | .spillq => wordOf (signed57 (k.spillq.toNat * 4096))
  | .ddesc => d.ddesc
  | .lwin => d.lwin
  | .ptroot => d.ptroot
  | .spilla => d.spilla
  | .ctxa => d.ctxa
  | .snapa => d.snapa
  | .thermt => d.thermt
  | .lattol => s.lattol
/-- An address register's value: bits 56 down to `lo`, sign-extended (R45). -/
def addrBits (v : Word) (lo : Nat) : Word := wordOf (signed57 (v.toNat / 2 ^ lo * 2 ^ lo))
/-- The domain of the issuing thread with a register changed. -/
def State.modDomain (s : State) (f : Domain → Domain) : State :=
  match s.domainOfCore s.turn.core with
  | some k => s.setDomain k (f (s.domain k))
  | none => s
/-- The device reads the descriptor of the issuing thread's domain (R142). -/
def State.loadOwnDesc (s : State) : State :=
  match s.domainOfCore s.turn.core with
  | some k => s.loadDesc k
  | none => s
/-- A write to a state register other than TEPC and TVEC by the issuing thread: `new` goes to the RW fields that its mode may
write, and the W1C fields that `ones` names are cleared (R323). RO and RSV fields keep their values. -/
def State.csrPut (s : State) (r : Csr) (new ones : Word) : State :=
  let h := s.cur
  let c := s.turn.core
  let co := s.ownCore
  let cl := clusterOf c
  let k := s.cluster cl
  let sup := fun (x : State) => if h.mode then x else s
  match r with
  | .tstat => s.setCur { h with satn := wbit new 1, mode := if h.mode then wbit new 0 else h.mode }
  | .rmode => if 5 ≤ wfld new 0 3 then s else s.setCur { h with rmode := new.setWidth 3 }
  | .tcause => sup (s.setCur { h with causeCode := new.setWidth 6, causeImpr := wbit new 6 })
  | .tval => sup (s.setCur { h with tval := new })
  | .fflags => s.setCur { h with fflags := new.setWidth 5 }
  | .geom => s.setCore c { co with geom := new }
  | .anch => s.setCore c { co with anch := new.setWidth 16 }
  | .spcf => s.setCore c { co with negEmpty := wbit new 0, negRow := co.negRow && !wbit ones 1 }
  | .mstat => s.setCore c { co with reload := co.reload && !wbit ones 5, lost := co.lost && !wbit ones 4 }
  | .lhbase => sup (if wfld new 0 15 < 0x3C00 then s else s.setCore c { co with lhbase := new.extractLsb' 10 5 })
  | .tilebase => sup (s.setCore c { co with tilebase := new.extractLsb' 6 15 })
  | .portcfg => sup (s.setCluster cl { k with qos := new.setWidth 3, atsOn := wbit new 8 })
  | .spillq => sup (s.setCluster cl { k with spillq := new.extractLsb' 12 45 })
  | .ddesc => sup ((s.modDomain (fun d => { d with ddesc := addrBits new 6 })).loadOwnDesc)
  | .lwin => sup (s.modDomain (fun d => { d with lwin := addrBits new 31 }))
  | .ptroot => sup (s.modDomain (fun d => { d with ptroot := addrBits new 12 }))
  | .spilla => sup (s.modDomain (fun d => { d with spilla := addrBits new 12 }))
  | .ctxa => sup (s.modDomain (fun d => { d with ctxa := addrBits new 12 }))
  | .snapa => sup (s.modDomain (fun d => { d with snapa := addrBits new 12 }))
  | .thermt => sup (s.modDomain (fun d => { d with thermt := addrBits new 6 }))
  | .tepc | .tvec | .tstamp | .ttie | .thint | .grnk | .gsiz | .fmta | .fmtb | .fmto | .sca | .scb | .cycle | .instret
  | .xstat | .clid | .lattol => s
/-- A write to TEPC or TVEC; a write to TEPC discards the resume point of a repeat frame (R233, R323). -/
def State.csrPutCap (s : State) (r : Csr) (v : CReg) : State :=
  if r = .tepc then
    s.setCur { s.cur with tepc := v, frame := s.cur.frame.bind (fun f => if f.active then some f else none) }
  else s.setCur { s.cur with tvec := v }
/-- The value of a state register other than TEPC and TVEC that an instruction of the issuing thread reads: INSTRET counts the words before
its own (log entry 10). -/
def State.csrRead (s : State) (r : Csr) : Word := if r = .instret then s.cur.instret - 1 else s.csrValue s.turn r
/-- The old value of a state register goes to d (R323). -/
def State.csrOld (s : State) (d : RegNum) (r : Csr) : State :=
  match r with
  | .tepc => s.writeCap d s.cur.tepc
  | .tvec => s.writeCap d s.cur.tvec
  | _ => s.writeWord d (s.csrRead r)
/-- A write outside thread scope is irrevocable in a speculative task (Table 7-7). -/
def State.csrScoped (s : State) (r : Csr) (k : State → State) : State := if csrScope r = .thread then k s else s.irrevocably k
/-- CSRW, CSRS and CSRC of a register that holds no capability: `new` is computed from the old value (R323). A user may not
change MODE. The write of DDESC waits for what the device itself reads (R142, log entry 55). -/
def State.csrModify (s : State) (i : Instr) (d : RegNum) (r : Csr) (ones : Word) (f : Word → Word) : State :=
  let old := s.csrRead r
  let new := f old
  if r = .tstat && !s.cur.mode && wbit new 0 then s.raise ⟨.priv, encodeNat i⟩
  else s.csrScoped r (fun s => s.tries ((s.csrPut r new ones).writeWord d old).finish)
/-- CSRR (R323). -/
def execCsrr (d : RegNum) (r : Csr) (s : State) : Out := .next ((s.csrOld d r).finish)
/-- CSRW (R323). -/
def execCsrw (d : RegNum) (r : Csr) (a : RegNum) (s : State) : Out := .next (
  if csrIsCap r then (((s.csrPutCap r (s.reg a)).setCur ((s.csrPutCap r (s.reg a)).cur.setReg d (if r = .tepc then s.cur.tepc else s.cur.tvec)))).finish
  else s.csrModify (.csrw d r a) d r (s.word a) (fun _ => s.word a))
/-- CSRS (R323); TEPC and TVEC are UNDEF. -/
def execCsrs (d : RegNum) (r : Csr) (a : RegNum) (s : State) : Out := .next (
  if csrIsCap r then s.raise ⟨.undef, encodeNat (.csrs d r a)⟩
  else s.csrModify (.csrs d r a) d r (s.word a) (fun old => old ||| s.word a))
/-- CSRC (R323); TEPC and TVEC are UNDEF. -/
def execCsrc (d : RegNum) (r : Csr) (a : RegNum) (s : State) : Out := .next (
  if csrIsCap r then s.raise ⟨.undef, encodeNat (.csrc d r a)⟩
  else s.csrModify (.csrc d r a) d r (s.word a) (fun old => old &&& ~~~s.word a))

end Sys2Proof.Machine
end

