-- ==== Sys2Proof/Machine/Mem.lean ====
section
/-!
DEFINITION. Loads and stores, full/empty accesses, atomics, block instructions and FENCE (majors 0x10 to 0x15).
-/
namespace Sys2Proof.Machine

/-- The address of a format-M access of size `n` (R97), reduced modulo 2^64 before the bounds check (DESIGN CHOICE, log entry 57). -/
def State.memAddr (s : State) (base : RegNum) (off : BitVec 11) (n : Nat) : Nat :=
  (((s.reg base).addr : Int) + off.toInt * n).emod (2 ^ 64) |>.toNat
/-- An access through a base register after its checks (R43, R48). -/
def State.viaBase (s : State) (base : RegNum) (x n : Nat) (perms : List Nat) (k : Req → State → State) (op : MemOp) : State :=
  let c := s.reg base
  s.checked (checkAccess c base.val x n perms) (k { op := op, x := x, base := base, permD := c.has permD })
/-- A load or store (R97): `.rx` has an effect on the scratch path only (R90); any other one is a drain point (R91). -/
def State.memory (s : State) (base : RegNum) (off : BitVec 11) (n : Nat) (perm : Nat) (rx : Bool) (op : MemOp) : State :=
  let x := s.memAddr base off n
  let go := fun (s : State) => s.viaBase base x n [perm] (fun r s => s.access r rx) op
  if rx && (scratchOf (s.domainAt s.turn.core) x).isSome then go s else s.drained go
/-- A store of the low `n` bytes of a register (R97). -/
def State.storeLow (s : State) (d base : RegNum) (off : BitVec 11) (n : Nat) (rx : Bool) : State :=
  s.memory base off n permS rx (.store n ((s.reg d).val.toNat % 2 ^ (8 * n)))
/-- A full/empty access (R99, R101): irrevocable in a speculative task; STF and STX release at device scope first. -/
def State.fullEmpty (s : State) (base : RegNum) (off : BitVec 11) (perm : Nat) (rel : Bool) (op : MemOp) : State :=
  s.drained (fun s => s.viaBase base (s.memAddr base off 8) 8 [perm] (fun r s => s.irrevocably (fun s =>
    if rel then s.release .device (.mem r) (fun s => s.access r false) else s.access r false)) op)
/-- An atomic (R130, R133): the release part, then the access. -/
def State.atomic (s : State) (op : AtomicOp) (d a b : RegNum) (wide : Bool) (sc : Scope) (ord : AOrder) : State :=
  let n := if wide then 8 else 4
  let low := fun (r : RegNum) => (s.word r).toNat % 2 ^ (8 * n)
  s.drained (fun s => s.viaBase a (s.reg a).addr n [permL, permS, permA] (fun r s =>
    match ord with
    | .rlx => s.access r false
    | .acq => s.access r false
    | .rel => s.release sc (.mem r) (fun s => s.access r false)
    | .acqrel => s.release sc (.mem r) (fun s => s.access r false)) (.atomic op n (low b) (low d) d sc ord s.cur.rmode))
/-- A block instruction (R123). -/
def State.block (s : State) (a : RegNum) (perms : List Nat) (k : Req → State → State) (op : MemOp) : State :=
  s.drained (fun s => s.viaBase a (s.reg a).addr 128 perms k op)
/-- The acquire part of FENCE (Table 6-9). -/
def State.fenceEnd (s : State) (sets : BitVec 4) (sc : Scope) : State :=
  (if sets.getLsbD 0 || sets.getLsbD 3 then s.acquire sc none false else s).finish
/-- FENCE's actions (Table 6-9): each release before any acquire; a speculative task only drains (R118). -/
def State.fenceActs (s : State) (sets : BitVec 4) (sc : Scope) : State :=
  if s.cur.spec then s.finish
  else if sets.getLsbD 2 || sets.getLsbD 3 then s.release sc (.fence sets sc) (fun s => s.fenceEnd sets sc)
  else s.fenceEnd sets sc
/-- LD_S8 (R97). -/
def execLdS8 (d base : RegNum) (off : BitVec 11) (rx : Bool) (s : State) : Out := .next (s.memory base off 1 permL rx (.load d 1 true))
/-- LD_S16 (R97). -/
def execLdS16 (d base : RegNum) (off : BitVec 11) (rx : Bool) (s : State) : Out := .next (s.memory base off 2 permL rx (.load d 2 true))
/-- LD_S32 (R97). -/
def execLdS32 (d base : RegNum) (off : BitVec 11) (rx : Bool) (s : State) : Out := .next (s.memory base off 4 permL rx (.load d 4 true))
/-- LD_S64 (R97). -/
def execLdS64 (d base : RegNum) (off : BitVec 11) (rx : Bool) (s : State) : Out := .next (s.memory base off 8 permL rx (.load d 8 true))
/-- LD_N8 (R97). -/
def execLdN8 (d base : RegNum) (off : BitVec 11) (rx : Bool) (s : State) : Out := .next (s.memory base off 1 permL rx (.load d 1 false))
/-- LD_N16 (R97). -/
def execLdN16 (d base : RegNum) (off : BitVec 11) (rx : Bool) (s : State) : Out := .next (s.memory base off 2 permL rx (.load d 2 false))
/-- LD_N32 (R97). -/
def execLdN32 (d base : RegNum) (off : BitVec 11) (rx : Bool) (s : State) : Out := .next (s.memory base off 4 permL rx (.load d 4 false))
/-- LD_Q128 (R97). -/
def execLdQ128 (d base : RegNum) (off : BitVec 11) (rx : Bool) (s : State) : Out := .next (s.memory base off 16 permL rx (.load d 16 false))
/-- ST_8 (R97). -/
def execSt8 (d base : RegNum) (off : BitVec 11) (rx : Bool) (s : State) : Out := .next (s.storeLow d base off 1 rx)
/-- ST_16 (R97). -/
def execSt16 (d base : RegNum) (off : BitVec 11) (rx : Bool) (s : State) : Out := .next (s.storeLow d base off 2 rx)
/-- ST_32 (R97). -/
def execSt32 (d base : RegNum) (off : BitVec 11) (rx : Bool) (s : State) : Out := .next (s.storeLow d base off 4 rx)
/-- ST_64 (R97). -/
def execSt64 (d base : RegNum) (off : BitVec 11) (rx : Bool) (s : State) : Out := .next (s.storeLow d base off 8 rx)
/-- ST_Q128 (R97). -/
def execStQ128 (d base : RegNum) (off : BitVec 11) (rx : Bool) (s : State) : Out := .next (s.storeLow d base off 16 rx)
/-- LDC (R98). -/
def execLdc (d base : RegNum) (off : BitVec 11) (s : State) : Out := .next (s.memory base off 16 permL false (.loadCap d ((s.reg base).has permLC)))
/-- STC (R98): a tagged register needs SC, and G on the global path. -/
def execStc (d base : RegNum) (off : BitVec 11) (s : State) : Out := .next (
  let c := s.reg d
  s.drained (fun s => s.viaBase base (s.memAddr base off 16) 16 (if c.tag then [permS, permSC] else [permS]) (fun r s =>
    if c.tag && (scratchOf (s.domainAt s.turn.core) r.x).isNone && !c.has permG then s.raise ⟨.capPerm, d.val⟩
    else s.access r false) (.storeCap c)))
/-- LDE (R99). -/
def execLde (d base : RegNum) (off : BitVec 11) (s : State) : Out := .next (s.fullEmpty base off permL false (.lde d))
/-- LDF (R99). -/
def execLdf (d base : RegNum) (off : BitVec 11) (s : State) : Out := .next (s.fullEmpty base off permL false (.ldf d))
/-- STF (R99). -/
def execStf (d base : RegNum) (off : BitVec 11) (s : State) : Out := .next (s.fullEmpty base off permS true (.stf (s.word d)))
/-- STX (R99). -/
def execStx (d base : RegNum) (off : BitVec 11) (s : State) : Out := .next (s.fullEmpty base off permS true (.stx (s.word d)))
/-- FEC (R99). -/
def execFec (d base : RegNum) (off : BitVec 11) (s : State) : Out := .next (s.fullEmpty base off permL false (.fec d))
/-- FEQ (R99). -/
def execFeq (d base : RegNum) (off : BitVec 11) (s : State) : Out := .next (s.fullEmpty base off permL false (.feq d))
/-- AADD (R131). -/
def execAadd (d a b : RegNum) (w : Bool) (sc : Scope) (ord : AOrder) (s : State) : Out := .next (s.atomic .add d a b w sc ord)
/-- AAND (R131). -/
def execAand (d a b : RegNum) (w : Bool) (sc : Scope) (ord : AOrder) (s : State) : Out := .next (s.atomic .and d a b w sc ord)
/-- AOR (R131). -/
def execAor (d a b : RegNum) (w : Bool) (sc : Scope) (ord : AOrder) (s : State) : Out := .next (s.atomic .or d a b w sc ord)
/-- AXOR (R131). -/
def execAxor (d a b : RegNum) (w : Bool) (sc : Scope) (ord : AOrder) (s : State) : Out := .next (s.atomic .xor d a b w sc ord)
/-- AMIN (R131). -/
def execAmin (d a b : RegNum) (w : Bool) (sc : Scope) (ord : AOrder) (s : State) : Out := .next (s.atomic .min d a b w sc ord)
/-- AMAX (R131). -/
def execAmax (d a b : RegNum) (w : Bool) (sc : Scope) (ord : AOrder) (s : State) : Out := .next (s.atomic .max d a b w sc ord)
/-- AMINN (R131). -/
def execAminn (d a b : RegNum) (w : Bool) (sc : Scope) (ord : AOrder) (s : State) : Out := .next (s.atomic .minn d a b w sc ord)
/-- AMAXN (R131). -/
def execAmaxn (d a b : RegNum) (w : Bool) (sc : Scope) (ord : AOrder) (s : State) : Out := .next (s.atomic .maxn d a b w sc ord)
/-- ASWP (R131). -/
def execAswp (d a b : RegNum) (w : Bool) (sc : Scope) (ord : AOrder) (s : State) : Out := .next (s.atomic .swp d a b w sc ord)
/-- ACAS (R131). -/
def execAcas (d a b : RegNum) (w : Bool) (sc : Scope) (ord : AOrder) (s : State) : Out := .next (s.atomic .cas d a b w sc ord)
/-- AFADD (R132). -/
def execAfadd (d a b : RegNum) (sc : Scope) (ord : AOrder) (s : State) : Out := .next (s.atomic .fadd d a b false sc ord)
/-- FENCE (R129). -/
def execFence (sets : BitVec 4) (sc : Scope) (s : State) : Out := .next (s.drained (fun s => s.fenceActs sets sc))
/-- STREL (R124). -/
def execStrel (d a : RegNum) (sc : Scope) (s : State) : Out := .next (s.block a [permL, permS] (fun r s => if s.cur.spec then s.access r false else s.release sc (.mem r) (fun s => s.access r false)) (.strel (s.word d) sc))
/-- LDACQ (R125). -/
def execLdacq (d a : RegNum) (sc : Scope) (s : State) : Out := .next (s.block a [permL] (fun r s => s.access r false) (.ldacq d sc))
/-- SIGRST (R126). -/
def execSigrst (a : RegNum) (_sc : Scope) (s : State) : Out := .next (s.block a [permS] (fun r s => s.access r false) .sigrst)
/-- SIGMRG (R127). -/
def execSigmrg (d a : RegNum) (_sc : Scope) (s : State) : Out := .next (s.block a [permL] (fun r s => s.access r false) (.sigmrg d))

end Sys2Proof.Machine
end

