-- ==== Sys2Proof/Machine/Vector.lean ====
section
/-!
DEFINITION. Vector instructions (majors 0x20 and 0x21): lanes, arithmetic, logic and permutation (R217 to R227).
-/
namespace Sys2Proof.Machine

/-- The width of a lane (Table 10-1). -/
def laneWidth : VType → Nat
  | .f32 => 32
  | .f16 => 16
  | .bf16 => 16
  | .i8 => 8
  | .i16 => 16
  | .i32 => 32
  | .i64 => 64
/-- The format of a floating lane type (Table 9-1); an integer type has none and reads as binary32 where no rule uses it. -/
def laneFmt : VType → FFmt
  | .f32 => fmtF32
  | .f16 => fmtF16
  | .bf16 => fmtBf16
  | .i8 => fmtF32
  | .i16 => fmtF32
  | .i32 => fmtF32
  | .i64 => fmtF32
/-- The lane type of a floating type field. -/
def ftLane : FType → VType
  | .f32 => .f32
  | .f16 => .f16
  | .bf16 => .bf16
/-- Lane `i` of `x` at width `w` (R217). -/
def lane (x : Quad) (w i : Nat) : Nat := x.toNat / 2 ^ (w * i) % 2 ^ w
/-- A lane read as signed. -/
def sgn (w v : Nat) : Int := if 2 ^ (w - 1) ≤ v then (v : Int) - 2 ^ w else v
/-- An integer kept to its low `w` bits. -/
def wrapTo (w : Nat) (v : Int) : Nat := (v.emod (2 ^ w)).toNat
/-- 128 bits from the values of lanes of width `w`, lane 0 first. -/
def packLanes (w : Nat) : List Nat → Nat
  | [] => 0
  | v :: r => v % 2 ^ w + 2 ^ w * packLanes w r
/-- Flags are ORed into FFLAGS (R218). -/
def State.orFlags (s : State) (f : FFlags) : State := s.setCur { s.cur with fflags := s.cur.fflags ||| f }
/-- A vector result from its lanes and their flags (R218). -/
def State.vecResult (s : State) (d : RegNum) (w : Nat) (rs : List (Nat × FFlags)) : State :=
  ((s.orFlags (rs.foldl (fun a r => a ||| r.2) 0)).writeQuad d (BitVec.ofNat 128 (packLanes w (rs.map Prod.fst)))).finish
/-- Lane by lane over two sources. -/
def State.vec2 (s : State) (d a b : RegNum) (t : VType) (f : Nat → Nat → Nat × FFlags) : State :=
  let w := laneWidth t
  s.vecResult d w ((List.range t.lanes).map (fun i => f (lane (s.reg a).val w i) (lane (s.reg b).val w i)))
/-- Lane by lane over three sources. -/
def State.vec3 (s : State) (d a b c : RegNum) (t : VType) (f : Nat → Nat → Nat → Nat × FFlags) : State :=
  let w := laneWidth t
  s.vecResult d w ((List.range t.lanes).map (fun i =>
    f (lane (s.reg a).val w i) (lane (s.reg b).val w i) (lane (s.reg c).val w i)))
/-- Clamp an integer. -/
def clamp (lo hi v : Int) : Int := if v < lo then lo else if hi < v then hi else v
/-- An integer lane operation in a mode (R221). -/
def intLane (m : SatMode) (w : Nat) (f : Int → Int → Int) (x y : Nat) : Nat × FFlags :=
  match m with
  | .wrap => (wrapTo w (f x y), 0)
  | .satS => (wrapTo w (clamp (-(2 ^ (w - 1))) (2 ^ (w - 1) - 1) (f (sgn w x) (sgn w y))), 0)
  | .satN => (wrapTo w (clamp 0 (2 ^ w - 1) (f x y)), 0)
/-- VADD, VSUB and VMUL (R219, R221). -/
def State.vecArith (s : State) (d a b : RegNum) (t : VType) (m : SatMode) (fi : Int → Int → Int)
    (ff : FFmt → Nat → Nat → Nat → Nat × FFlags) : State :=
  s.vec2 d a b t (if t.isFloat then ff (laneFmt t) s.cur.rmode.toNat else intLane m (laneWidth t) fi)
/-- VFMA and VFMS (R219, R221). -/
def State.vecFma (s : State) (d a b c : RegNum) (t : VType) (sub : Bool) : State :=
  s.vec3 d a b c t (fun x y z =>
    if t.isFloat then (laneFmt t).fma s.cur.rmode.toNat x y z sub
    else (wrapTo (laneWidth t) (if sub then (x : Int) * y - z else (x : Int) * y + z), 0))
/-- The larger or smaller of two lanes (R222). -/
def minMax (t : VType) (nat max : Bool) (x y : Nat) : Nat × FFlags :=
  if t.isFloat then
    let f := laneFmt t
    let a := f.decode x
    let b := f.decode y
    let fl := flagIf (a.isSig || b.isSig) flagNV
    if a.isNan then (if b.isNan then f.nan else y, fl)
    else if b.isNan then (x, fl)
    else (if (if max then b.lt a else a.lt b) then x else y, fl)
  else
    let a : Int := if nat then x else sgn (laneWidth t) x
    let b : Int := if nat then y else sgn (laneWidth t) y
    (if (if max then decide (b < a) else decide (a < b)) then x else y, 0)
/-- VABS and VNEG of a lane (R222). -/
def absNeg (t : VType) (nat neg : Bool) (x : Nat) : Nat × FFlags :=
  let w := laneWidth t
  let h := 2 ^ (w - 1)
  if t.isFloat then ((if neg then (if h ≤ x then x - h else x + h) else x % h), 0)
  else if neg then (wrapTo w (-(x : Int)), 0)
  else (if nat then x else (sgn w x).natAbs, 0)
/-- The lanes of a register as a list. -/
def lanesOf (x : Quad) (t : VType) : List Nat := (List.range t.lanes).map (lane x (laneWidth t))
/-- VREDA (R222): one exact sum over the n + 1 addends. -/
def State.reduceAdd (s : State) (d a b : RegNum) (t : VType) : State :=
  let xs := lanesOf (s.reg a).val t ++ [lane (s.reg b).val (laneWidth t) 0]
  s.vecResult d (laneWidth t) [if t.isFloat then (laneFmt t).sum s.cur.rmode.toNat false (xs.map (laneFmt t).decode)
    else (xs.foldl (· + ·) 0 % 2 ^ laneWidth t, 0)]
/-- VREDM (R222). -/
def State.reduceMax (s : State) (d a b : RegNum) (t : VType) (nat : Bool) : State :=
  let xs := lanesOf (s.reg a).val t
  s.vecResult d (laneWidth t) [xs.foldl (fun (acc : Nat × FFlags) x =>
    let r := minMax t nat true acc.1 x
    (r.1, acc.2 ||| r.2)) (lane (s.reg b).val (laneWidth t) 0, 0)]
/-- A product of two lanes as an exact value, and whether it is invalid. -/
def dotTerm (f : FFmt) (x y : Nat) : FVal × Bool := FVal.mul (f.decode x) (f.decode y)
/-- VDOT (R223). -/
def State.dot (s : State) (d a b c : RegNum) (t : VType) : State :=
  let w := laneWidth t
  let x := (s.reg a).val
  let y := (s.reg b).val
  let z := (s.reg c).val
  if t.isFloat then
    let f := laneFmt t
    s.vecResult d 32 ((List.range 4).map (fun j =>
      let p := dotTerm f (lane x w (2 * j)) (lane y w (2 * j))
      let q := dotTerm f (lane x w (2 * j + 1)) (lane y w (2 * j + 1))
      fmtF32.sum s.cur.rmode.toNat (p.2 || q.2) [fmtF32.decode (lane z 32 j), p.1, q.1]))
  else
    s.vecResult d (4 * w) ((List.range (32 / w)).map (fun j =>
      (wrapTo (4 * w) ((List.range 4).foldl (fun acc k =>
        acc + sgn w (lane x w (4 * j + k)) * sgn w (lane y w (4 * j + k))) (lane z (4 * w) j : Int)), 0)))
/-- A predicate of VCMP on a lane (R224). -/
def compareLane (t : VType) (p : Pred) (nat : Bool) (x y : Nat) : Nat × FFlags :=
  let ones := 2 ^ laneWidth t - 1
  if t.isFloat then
    let a := (laneFmt t).decode x
    let b := (laneFmt t).decode y
    let un := a.isNan || b.isNan
    let sig := a.isSig || b.isSig
    let eq := FVal.eq a b
    let lt := a.lt b && !eq
    let gt := b.lt a && !eq
    let r : Bool × Bool := match p with
      | .eq => (eq, sig)
      | .ne => (!eq, sig)
      | .lt => (lt, un)
      | .le => (!un && (lt || eq), un)
      | .gt => (gt, un)
      | .ge => (!un && (gt || eq), un)
      | .un => (un, sig)
      | .ord => (!un, sig)
    (if r.1 then ones else 0, flagIf r.2 flagNV)
  else
    let a : Int := if nat then x else sgn (laneWidth t) x
    let b : Int := if nat then y else sgn (laneWidth t) y
    let r := match p with
      | .eq => decide (a = b)
      | .ne => decide (a ≠ b)
      | .lt => decide (a < b)
      | .le => decide (a ≤ b)
      | .gt => decide (b < a)
      | .ge => decide (b ≤ a)
      | .un => false
      | .ord => true
    (if r then ones else 0, 0)
/-- A 128-bit result (R225). -/
def State.quadResult (s : State) (d : RegNum) (v : Quad) : State := (s.writeQuad d v).finish
/-- VPERM (R226). -/
def permBytes (a b c : Quad) : Quad :=
  BitVec.ofNat 128 (packLanes 8 ((List.range 16).map (fun i =>
    let k := lane c 8 i
    if 128 ≤ k then 0 else if k % 32 < 16 then lane a 8 (k % 32) else lane b 8 (k % 32 - 16))))
/-- A vector shift (R227): by the low log₂(w) bits of the matching lane. -/
def State.vecShift (s : State) (d a b : RegNum) (t : VType) (f : Nat → Nat → Nat → Nat) : State :=
  s.vec2 d a b t (fun x y => (f (laneWidth t) x (y % laneWidth t), 0))
/-- VADD (R221). -/
def execVadd (d a b : RegNum) (t : VType) (mode : SatMode) (s : State) : Out := .next (s.vecArith d a b t mode (· + ·) FFmt.add)
/-- VSUB (R221). -/
def execVsub (d a b : RegNum) (t : VType) (mode : SatMode) (s : State) : Out := .next (s.vecArith d a b t mode (· - ·) FFmt.sub)
/-- VMUL (R221). -/
def execVmul (d a b : RegNum) (t : VType) (mode : SatMode) (s : State) : Out := .next (s.vecArith d a b t mode (· * ·) FFmt.mul)
/-- VFMA (R219). -/
def execVfma (d a b c : RegNum) (t : VType) (s : State) : Out := .next (s.vecFma d a b c t false)
/-- VFMS (R219). -/
def execVfms (d a b c : RegNum) (t : VType) (s : State) : Out := .next (s.vecFma d a b c t true)
/-- VDOT (R223). -/
def execVdot (d a b c : RegNum) (t : VType) (s : State) : Out := .next (s.dot d a b c t)
/-- VMIN (R222). -/
def execVmin (d a b : RegNum) (t : VType) (nat : Bool) (s : State) : Out := .next (s.vec2 d a b t (minMax t nat false))
/-- VMAX (R222). -/
def execVmax (d a b : RegNum) (t : VType) (nat : Bool) (s : State) : Out := .next (s.vec2 d a b t (minMax t nat true))
/-- VABS (R222). -/
def execVabs (d a : RegNum) (t : VType) (nat : Bool) (s : State) : Out := .next (s.vec2 d a 0 t (fun x _ => absNeg t nat false x))
/-- VNEG (R222). -/
def execVneg (d a : RegNum) (t : VType) (nat : Bool) (s : State) : Out := .next (s.vec2 d a 0 t (fun x _ => absNeg t nat true x))
/-- VDIV (R222). -/
def execVdiv (d a b : RegNum) (t : FType) (s : State) : Out := .next (s.vec2 d a b (ftLane t) ((laneFmt (ftLane t)).div s.cur.rmode.toNat))
/-- VRSQ (R222). -/
def execVrsq (d a : RegNum) (t : FType) (s : State) : Out := .next (s.vec2 d a 0 (ftLane t) (fun x _ => (laneFmt (ftLane t)).rsq s.cur.rmode.toNat x))
/-- VREDA (R222). -/
def execVreda (d a b : RegNum) (t : VType) (_nat : Bool) (s : State) : Out := .next (s.reduceAdd d a b t)
/-- VREDM (R222). -/
def execVredm (d a b : RegNum) (t : VType) (nat : Bool) (s : State) : Out := .next (s.reduceMax d a b t nat)
/-- VCMP (R224). -/
def execVcmp (d a b : RegNum) (t : VType) (p : Pred) (nat : Bool) (s : State) : Out := .next (s.vec2 d a b t (compareLane t p nat))
/-- VAND (R225). -/
def execVand (d a b : RegNum) (s : State) : Out := .next (s.quadResult d ((s.reg a).val &&& (s.reg b).val))
/-- VOR (R225). -/
def execVor (d a b : RegNum) (s : State) : Out := .next (s.quadResult d ((s.reg a).val ||| (s.reg b).val))
/-- VXOR (R225). -/
def execVxor (d a b : RegNum) (s : State) : Out := .next (s.quadResult d ((s.reg a).val ^^^ (s.reg b).val))
/-- VSEL (R225). -/
def execVsel (d a b c : RegNum) (s : State) : Out := .next (s.quadResult d (((s.reg a).val &&& (s.reg c).val) ||| ((s.reg b).val &&& ~~~(s.reg c).val)))
/-- VPERM (R226). -/
def execVperm (d a b c : RegNum) (s : State) : Out := .next (s.quadResult d (permBytes (s.reg a).val (s.reg b).val (s.reg c).val))
/-- VSHL (R227). -/
def execVshl (d a b : RegNum) (t : VType) (s : State) : Out := .next (s.vecShift d a b t (fun w x n => x * 2 ^ n % 2 ^ w))
/-- VSHR (R227). -/
def execVshr (d a b : RegNum) (t : VType) (s : State) : Out := .next (s.vecShift d a b t (fun _ x n => x / 2 ^ n))
/-- VSHA (R227). -/
def execVsha (d a b : RegNum) (t : VType) (s : State) : Out := .next (s.vecShift d a b t (fun w x n => wrapTo w (sgn w x / 2 ^ n)))
/-- VSPLT (R227). -/
def execVsplt (d a : RegNum) (t : VType) (lane : Fin 32) (s : State) : Out := .next (s.vec2 d a a t (fun _ _ => (Machine.lane (s.reg a).val (laneWidth t) lane.val, 0)))
/-- VINS (R227). -/
def execVins (d a : RegNum) (t : VType) (lane : Fin 32) (s : State) : Out := .next (s.vecResult d (laneWidth t) ((List.range t.lanes).map (fun i => (Machine.lane (if i = lane.val then (s.reg a).val else (s.reg d).val) (laneWidth t) (if i = lane.val then 0 else i), 0))))
/-- VEXT_SIGNED (R227). -/
def execVextSigned (d a : RegNum) (t : VType) (lane : Fin 32) (s : State) : Out := .next ((s.writeWord d (BitVec.ofInt 64 (sgn (laneWidth t) (Machine.lane (s.reg a).val (laneWidth t) lane.val)))).finish)
/-- VEXT_NATURAL (R227). -/
def execVextNatural (d a : RegNum) (t : VType) (lane : Fin 32) (s : State) : Out := .next ((s.writeWord d (wordOf (Machine.lane (s.reg a).val (laneWidth t) lane.val))).finish)

end Sys2Proof.Machine
end

