-- ==== Sys2Proof/Machine/Convert.lean ====
section
/-!
DEFINITION. Conversion and table instructions (majors 0x22 and 0x23, R207 to R215).
-/
namespace Sys2Proof.Machine

/-- The width of an element type of VCVT (R208). -/
def numWidth : NumType → Nat
  | .f32 => 32
  | .f16 => 16
  | .bf16 => 16
  | .s8 => 8
  | .s16 => 16
  | .s32 => 32
  | .s64 => 64
  | .n8 => 8
  | .n16 => 16
  | .n32 => 32
  | .n64 => 64
/-- The kind of an element type: a floating format, or an integer range. -/
inductive NumKind where
  | float (f : FFmt)
  | int (lo hi : Int)
  deriving DecidableEq, Repr
/-- The kind of an element type of VCVT. -/
def numKind : NumType → NumKind
  | .f32 => .float fmtF32
  | .f16 => .float fmtF16
  | .bf16 => .float fmtBf16
  | .s8 => .int (-(2 ^ 7)) (2 ^ 7 - 1)
  | .s16 => .int (-(2 ^ 15)) (2 ^ 15 - 1)
  | .s32 => .int (-(2 ^ 31)) (2 ^ 31 - 1)
  | .s64 => .int (-(2 ^ 63)) (2 ^ 63 - 1)
  | .n8 => .int 0 (2 ^ 8 - 1)
  | .n16 => .int 0 (2 ^ 16 - 1)
  | .n32 => .int 0 (2 ^ 32 - 1)
  | .n64 => .int 0 (2 ^ 64 - 1)
/-- One element converted (Table 9-7). -/
def convert (rm : Nat) (st dt : NumType) (x : Nat) : Nat × FFlags :=
  if st = dt then (x, 0)
  else match numKind st, numKind dt with
  | .float f, .float g => g.ofVal rm (f.decode x)
  | .float f, .int lo hi => let r := FVal.toInt rm lo hi (f.decode x); (wrapTo (numWidth dt) r.1, r.2)
  | .int lo _, .float g => g.ofVal rm (intVal (if lo < 0 then sgn (numWidth st) x else x))
  | .int lo _, .int lo' hi' =>
    let v : Int := if lo < 0 then sgn (numWidth st) x else x
    (wrapTo (numWidth dt) (clamp lo' hi' v), flagIf (decide (v < lo') || decide (hi' < v)) flagNV)
/-- A use of table n forfeits while the engine loads it (Table 9-5). -/
def State.tableReady (s : State) (n : Nat) (k : State → State) : State := if s.ownCore.loading n then s.forfeit else k s
/-- VSCL (R211): each lane times 2^k; `bad` stands for the NaN scale. -/
def State.scaleLanes (s : State) (d a : RegNum) (t : FType) (k : Int) (bad : Bool) : State :=
  let f := laneFmt (ftLane t)
  s.vec2 d a a (ftLane t) (fun x _ =>
    if bad then (f.nan, flagNV)
    else match f.decode x with
    | .fin n m e => if m = 0 then (x, 0) else f.round s.cur.rmode.toNat n m (e + k)
    | v => f.ofVal 0 v)
/-- The class mask of a value (R212). -/
def classMask (f : FFmt) (x : Nat) : Nat :=
  let small := decide (x % 2 ^ f.sbit < 2 ^ f.mb)
  match f.decode x with
  | .nan true => 2 ^ 8
  | .nan false => 2 ^ 9
  | .inf true => 2 ^ 0
  | .inf false => 2 ^ 7
  | .fin true m _ => if m = 0 then 2 ^ 3 else if small then 2 ^ 2 else 2 ^ 1
  | .fin false m _ => if m = 0 then 2 ^ 4 else if small then 2 ^ 5 else 2 ^ 6

/-- A table load takes its place in the engine at its issue, and its thread is table-bound from then on (R206). -/
def State.queueTable (s : State) (d : RegNum) (n : Nat) : State :=
  let c := s.ownCore
  let s := if c.engine.any (fun l => l.t == s.turn) then s
    else s.setCore s.turn.core { c with engine := c.engine ++ [{ t := s.turn, d := d, n := n, image := none }] }
  s.setCur { s.cur with tableBound := true }
/-- The image of a table load is read: its thread parks until the load ends (R206). -/
def State.loadTable (s : State) (d : RegNum) (n : Nat) (image : Table) : State :=
  let s := s.queueTable d n
  let c := s.ownCore
  (s.setCore s.turn.core { c with engine := c.engine.map (fun l => if l.t == s.turn then { l with image := some image } else l) }).park (.table n)
/-- The table of a 1,024-byte image (R214): bits 18:0 of each word hold the value and bit 31 the valid bit. -/
def tableOfImage (v : Nat) : Table :=
  (List.range 256).filterMap (fun k =>
    let w := v / 2 ^ (32 * k) % 2 ^ 32
    if w / 2 ^ 31 = 1 then some (k, if (d19Val (w % 2 ^ 19)).isNan then fmtD19.nan else w % 2 ^ 19) else none)
/-- VCVT (R208). -/
def execVcvt (d a : RegNum) (dt st : NumType) (s : State) : Out := .next (let n := 128 / max (numWidth st) (numWidth dt)
  s.vecResult d (numWidth dt) ((List.range n).map (fun i => convert s.cur.rmode.toNat st dt (lane (s.reg a).val (numWidth st) i))))
/-- VDEC (R209). -/
def execVdec (d a : RegNum) (t : FType) (tbl : Fin 4) (four : Bool) (s : State) : Out := .next (s.tableReady tbl.val (fun s =>
  let w := laneWidth (ftLane t)
  let tab := s.ownCore.table tbl.val
  s.vecResult d w ((List.range (128 / w)).map (fun i =>
    let v := tab.decode (lane (s.reg a).val (if four then 4 else 8) i)
    let r := (laneFmt (ftLane t)).ofVal s.cur.rmode.toNat v.1
    (r.1, r.2 ||| flagIf v.2 flagNV)))))
/-- VENC (R210). -/
def execVenc (d a : RegNum) (t : FType) (tbl : Fin 4) (four : Bool) (s : State) : Out := .next (s.tableReady tbl.val (fun s =>
  let w := laneWidth (ftLane t)
  s.vecResult d (if four then 4 else 8) ((List.range (128 / w)).map (fun i =>
    (s.ownCore.table tbl.val).encode four s.cur.rmode.toNat s.cur.satn ((laneFmt (ftLane t)).decode (lane (s.reg a).val w i))))))
/-- VSCL, mode 0 (R211). -/
def execVscl (d a b : RegNum) (t : FType) (s : State) : Out := .next (s.scaleLanes d a t (sgn 16 (wfld (s.word b) 0 16)) false)
/-- VSCL, mode 1 (R211). -/
def execVsclE8m0 (d a b : RegNum) (t : FType) (s : State) : Out := .next (s.scaleLanes d a t ((wfld (s.word b) 0 8 : Int) - 127) (wfld (s.word b) 0 8 == 0xFF))
/-- VSCL, mode 2 (R211). -/
def execVsclSca (d a : RegNum) (t : FType) (s : State) : Out := .next (s.scaleLanes d a t s.cur.sca.toInt false)
/-- VSCL, mode 3 (R211). -/
def execVsclScb (d a : RegNum) (t : FType) (s : State) : Out := .next (s.scaleLanes d a t s.cur.scb.toInt false)
/-- FCLS (R212). -/
def execFcls (d a : RegNum) (t : FType) (s : State) : Out := .next (s.vec2 d a a (ftLane t) (fun x _ => (classMask (laneFmt (ftLane t)) x, 0)))
/-- TBLD (R206, R214): behind the checks and the drain it takes its place in the engine, where it stays while its image is read. -/
def execTbld (d a : RegNum) (tbl : Fin 4) (s : State) : Out := .next (
  let c := s.reg a
  s.checked (checkAccess c a.val c.addr 1024 [permL]) (fun s => s.irrevocably (fun s => s.drained (fun s =>
    match (s.queueTable d tbl.val).blockRead c.addr 1024 a (c.has permD) with
    | .error s => if s.cur.awaitsData then s else s.dropReads s.turn
    | .ok (_, _, some p, s) => (s.dropReads s.turn).raise ⟨.poison, p⟩
    | .ok (v, _, none, s) => s.loadTable d tbl.val (tableOfImage v)))))
/-- TBCF with a ROM image (R215). -/
def execTbcf (d : RegNum) (k : Fin 5) (tbl : Fin 4) (s : State) : Out := .next (s.irrevocably (fun s => s.loadTable d tbl.val (romTable k.val)))
/-- TBCF, query (R215). -/
def execTbcfQuery (d : RegNum) (tbl : Fin 4) (s : State) : Out := .next (s.irrevocably (fun s => s.tableReady tbl.val (fun s => (s.writeWord d (s.ownCore.table tbl.val).summary).finish)))

end Sys2Proof.Machine
end

