-- ==== Sys2Proof/Machine/Gang.lean ====
section
/-!
DEFINITION. Barrier entries: taking and freeing one, the phases, the wake (R175 to R180), and the end of a gang's thread
(R176, R186).
-/
namespace Sys2Proof.Machine

/-- Whether a cluster has a barrier entry for a task: the last of the 256 is kept for the domain's lowest-VT task (R175). -/
def State.barrierFree (s : State) (cl : Nat) (lowest : Bool) : Option Nat :=
  let c := s.cluster cl
  if (if lowest then 256 else 255) ≤ c.bars.length then none else Map.firstFree c.bars 256
/-- The barrier entry of the issuing thread's gang; a width-1 task takes one at its first need, and parks until one is free
(R175). -/
def State.withBarrier (s : State) (k : Nat × Nat → State → State) : State :=
  match s.barrierOf s.turn, s.cur.task with
  | some p, _ => k p s
  | none, none => s.park .barrierEntry
  | none, some id =>
    let dk := (s.domainOf id.cluster).getD 0
    match s.barrierFree id.cluster (s.isLowest dk s.cur.vt) with
    | none => s.park .barrierEntry
    | some b =>
      let c := s.cluster id.cluster
      let s := s.setCluster id.cluster { c with bars := Map.set c.bars b { width := 1, live := [s.turn] } }
      k (id.cluster, b) (s.modTask id (fun e => { e with bar := some b }))
/-- CONTAINED for a thread whose gang is broken (R192). -/
def State.unbroken (s : State) (k : State → State) : State :=
  match (s.barrierOf s.turn).bind (fun p => (Map.find (s.cluster p.1).bars p.2).bind (fun b => b.broken)) with
  | some c => s.raise ⟨.contained, c⟩
  | none => k s
/-- Threads of a cluster that wait for a barrier entry issue again. -/
def State.barrierWakeWaiters (s : State) (cl : Nat) : State :=
  (s.threads.map (fun e => tidOf e.1)).foldl (fun acc t =>
    match (acc.thread t).wait with
    | some .barrierEntry => if clusterOf t.core = cl then acc.retry t else acc
    | _ => acc) s

/-- A 48-bit count that saturates (Table 8-1). -/
def sat48 (c : BitVec 48) (n : Nat) : BitVec 48 := BitVec.ofNat 48 (min (c.toNat + n) (2 ^ 48 - 1))
/-- The phase a message names, changed: LC + 1 or LC + 2 (R177). -/
def Barrier.modPhase (b : Barrier) (p : BitVec 32) (f : Phase → Phase) : Barrier :=
  if p = b.lc + 1 then { b with p1 := f b.p1 } else { b with p2 := f b.p2 }
/-- A message is applied to the phase it names (R178, R179). -/
def Barrier.apply (b : Barrier) : BMsg → Barrier
  | .arrive p g sat => b.modPhase p (fun q => { q with arr := q.arr + 1, sig := q.sig ||| g, sat := q.sat || sat })
  | .expect p n => b.modPhase p (fun q => { q with exp := sat48 q.exp n.toNat })
  | .count p n g sat =>
    if (b.lc - p).toNat < 2 ^ 31 then
      { b with pend := true, p1 := { b.p1 with sig := b.p1.sig ||| g, sat := b.p1.sat || sat } }
    else b.modPhase p (fun q => { q with cnt := sat48 q.cnt n, sig := q.sig ||| g, sat := q.sat || sat })
/-- ARR(p): the arrivals `n` at phase `p`, with the ended threads that had not arrived there themselves (Table 8-1, R176). -/
def Barrier.arrived (b : Barrier) (p : BitVec 32) (n : Nat) : Nat :=
  n + (b.gone.filter (fun ap => decide ((p - ap).toNat < 2 ^ 31))).length
/-- Whether the open phase completes: every thread has arrived, ended ones counted, and every expected byte (R178). -/
def Barrier.completes (b : Barrier) : Bool :=
  b.arrived (b.lc + 1) b.p1.arr == b.width && decide (b.p1.exp.toNat ≤ b.p1.cnt.toNat)
/-- The evaluation step of a cycle (R178). -/
def Barrier.evaluate (b : Barrier) : Barrier :=
  if b.completes then
    { b with
      lsig := b.p1.sig
      lsat := b.p1.sat || decide (384 < popcount b.p1.sig)
      ovr := decide (b.p1.exp.toNat < b.p1.cnt.toNat)
      late := b.pend
      pend := false
      lc := b.lc + 1
      p1 := b.p2
      p2 := {}
      wake := b.wake ++ [b.lc + 1] }
  else b
/-- One cycle of a barrier entry (R178): evaluate, then apply what has reached the unit. -/
def Barrier.cycle (b : Barrier) : Barrier := b.msgs.foldl Barrier.apply { b.evaluate with msgs := [] }
/-- BARRIER_CYCLE of entry `b` of a cluster; none when it would change nothing. -/
def State.tryBarrier (s : State) (cl b : Nat) : Option State :=
  match Map.find (s.cluster cl).bars b with
  | none => none
  | some e => if e.completes || !e.msgs.isEmpty then some (s.modBarrier (some (cl, b)) Barrier.cycle) else none
/-- The oldest wake message of an entry arrives (R180): every thread of the gang takes the phase as its LV, and those parked in
GARR, GWAIT or GSYNC go on. -/
def State.tryBarrierWake (s : State) (cl b : Nat) : Option State :=
  match Map.find (s.cluster cl).bars b with
  | none => none
  | some e => match e.wake with
    | [] => none
    | p :: r =>
      let s := s.modBarrier (some (cl, b)) (fun x => { x with wake := r })
      some (e.live.foldl (fun acc t =>
        let acc := acc.setThread t { acc.thread t with lv := p }
        match (acc.thread t).wait with
        | some (.garr _ _) => acc.retry t
        | some (.gwait d) =>
          if p + 1 = (acc.thread t).ap then
            acc.as t (fun s =>
              let s := (s.setCur { s.cur with status := .running }).acquire .cluster (some e.lsig) e.lsat
              (s.writeWord d (wordOf (p.toNat + e.late.toNat * 2 ^ 32 + e.ovr.toNat * 2 ^ 33))).finish)
          else acc
        | _ => acc) s)

/-- The rank order of a gang's threads is that of their cores and slots (R175). -/
def lowestTid (l : List Tid) : Option Tid :=
  l.foldl (fun acc t => match acc with
    | none => some t
    | some u => if tkey t < tkey u then some t else some u) none
/-- After a thread of a gang has ended or taken a post: a post that everyone has taken leaves, the leader that waits for it
issues again, and an instance whose leader has ended (`led`), or that no live thread of lower rank has yet to reach, takes the
lowest thread parked at it as its leader (R186). -/
def State.electGoOn (s : State) (p : Nat × Nat) (led : Option (BitVec 32)) : State :=
  match Map.find (s.cluster p.1).bars p.2 with
  | none => s
  | some b =>
    let s := if b.post.any (fun q => q.left.isEmpty) then
        let s := s.modBarrier (some p) (fun b => { b with post := none })
        b.live.foldl (fun acc t => if (acc.thread t).wait = some .electPost then acc.retry t else acc) s
      else s
    let orphans := b.live.filter (fun t => (s.thread t).wait = some .elect
      && !(b.post.any (fun q => q.inst == (s.thread t).electCount)) && !(b.lead.any (fun q => q.2 == (s.thread t).electCount)))
    match lowestTid orphans with
    | some t =>
      let k := (s.thread t).electCount
      let earlier := b.live.any (fun u => decide (tkey u < tkey t) && decide ((k - (s.thread u).electCount).toNat < 2 ^ 31))
      if earlier && led != some k then s
      else (s.modBarrier (some p) (fun b => { b with lead := some (t, (s.thread t).electCount) })).retry t
    | none => s
/-- The leader's `.rx` load has landed: it posts what it has loaded (R186), and does not wait for a post that nobody is left to take. -/
def State.electLanded (s : State) (t : Tid) : State :=
  let h := s.thread t
  match h.electRx, s.barrierOf t with
  | some k, some p =>
    if h.rxRegs.contains h.electReg then s
    else
      let s := ((s.postElect t k).setThread t { h with electRx := none }).electGoOn p none
      if (s.thread t).wait = some .electPost && !((Map.find (s.cluster p.1).bars p.2).any (fun b => b.post.isSome)) then s.retry t else s
  | _, _ => s
/-- A thread of a task ends (R169, R176): it counts as arrived from now on; the task is finished when it was the last one, and
queued again when its gang is broken (R345). -/
def State.endThread (s : State) (t : Tid) : State :=
  let h := s.thread t
  let bar := s.barrierOf t
  let led := bar.bind (fun p => (Map.find (s.cluster p.1).bars p.2).bind (fun b => b.lead.bind (fun q => if q.1 = t then some q.2 else none)))
  let s := s.modBarrier bar (fun b =>
    { b with live := b.live.filter (fun u => u != t), gone := b.gone ++ [h.ap]
             post := b.post.map (fun q => { q with left := q.left.filter (fun u => u != t) })
             lead := if b.lead.any (fun q => q.1 == t) then none else b.lead })
  let s := match bar with
    | some p => s.electGoOn p led
    | none => s
  let s := if h.dup then s.setThread ⟨t.core, t.slot + 7⟩ {} else s
  let s := s.setThread t {}
  match h.task with
  | none => s
  | some id => match s.taskOf id with
    | none => s
    | some e =>
      let left := e.threads.filter (fun u => u != t)
      let s := s.modTask id (fun e => { e with threads := left })
      if !left.isEmpty then s
      else
        let c := s.cluster id.cluster
        let broken := (e.bar.bind (Map.find c.bars)).any (fun b => b.broken.isSome)
        let s := match e.bar with
          | some b => (s.setCluster id.cluster { c with bars := Map.del c.bars b }).barrierWakeWaiters id.cluster
          | none => s
        let c := s.cluster id.cluster
        if e.detached then s.setCluster id.cluster { c with queue := Map.del c.queue id.entry }
        else if broken then s.modTask id (fun e => { e with st := .queued, run := e.run + 1, bar := none, again := 1 })
        else s.modTask id (fun e => { e with st := .finished, bar := none })

end Sys2Proof.Machine
end

