-- ==== Sys2Proof/Machine/Transfer.lean ====
section
/-!
DEFINITION. Transfer requests, completion counters, handlers and tile instructions (majors 0x2C and 0x2D, R280 to R292).
-/
namespace Sys2Proof.Machine

/-- LEN of word 3 (R285). -/
def xLen (w3 : Word) : Nat := wfld w3 0 32
/-- HND of word 3. -/
def xHnd (w3 : Word) : BitVec 3 := w3.extractLsb' 32 3
/-- CK of word 3: 0 TILE, 1 COUNTER, 2 PHASE, 3 NONE. -/
def xCk (w3 : Word) : Nat := wfld w3 35 2
/-- CC of word 3. -/
def xCc (w3 : Word) : Fin 8 := Fin.ofNat 8 (wfld w3 37 3)
/-- OP of word 0 of XFER and XFERB. -/
def xOp (w0 : Word) : Nat := wfld w0 0 3
/-- STILE of word 0. -/
def xStile (w0 : Word) : Bool := wbit w0 10
/-- DTILE of word 0. -/
def xDtile (w0 : Word) : Bool := wbit w0 9
/-- The element size of GETX and PUTX. -/
def xElem (w0 : Word) : Nat := 2 ^ wfld w0 0 3
/-- The bytes of an index entry. -/
def xIndex (w0 : Word) : Nat := if wbit w0 21 then 2 else 4
/-- The rows of a request: more than one only in a strided copy. -/
def xRows (w0 : Word) : Nat := if xOp w0 = 1 then wfld w0 16 16 + 1 else 1
/-- A malformed descriptor of XFER or XFERB (R285). -/
def badCopy (w0 w3 : Word) : Bool :=
  decide (wfld w0 11 5 ≠ 0) || decide (wfld w0 3 5 ≠ 0) || decide (wfld w3 40 24 ≠ 0) || decide (2 < xOp w0)
    || (decide (xOp w0 ≠ 1) && decide (wfld w0 16 48 ≠ 0))
    || (decide (xCk w3 = 0) && !xDtile w0) || (decide (xOp w0 = 2) && (xDtile w0 || decide (xCk w3 = 0)))
/-- A malformed descriptor of GETX or PUTX (R285); a tile bit that the other one alone gives a meaning counts as reserved. -/
def badIndexed (put : Bool) (w0 w3 : Word) : Bool :=
  decide (wfld w0 22 42 ≠ 0) || decide (wfld w0 11 5 ≠ 0) || decide (wfld w0 3 6 ≠ 0) || decide (wfld w3 40 24 ≠ 0)
    || decide (4 < wfld w0 0 3) || (decide (xCk w3 = 0) && (put || !xDtile w0))
    || (if put then xDtile w0 else xStile w0) || decide (xLen w3 % xElem w0 ≠ 0)

/-- The bytes a copy reads and writes in all. -/
def XReq.total (q : XReq) : Nat :=
  match q.kind with
  | .strided => xRows q.w0 * xLen q.w3
  | .copy => xLen q.w3
  | .multicast => xLen q.w3
  | .getx => xLen q.w3
  | .putx => xLen q.w3
  | .getr => q.rows.length
/-- The extent of an end of a copy: from its first byte to the one past its last (R286). -/
def extentOf (w0 w3 : Word) (stride : Nat) : Nat := (xRows w0 - 1) * stride + xLen w3

/-- The cores whose scratchpads an extent touches. -/
def State.coresOf (s : State) (x n : Nat) : List Nat :=
  match scratchOf (s.domainAt s.turn.core) x with
  | some o => if n = 0 then [scratchCore o] else rangeFrom (scratchCore o) (min (scratchCore (o + n - 1) + 1) 65536)
  | none => []
/-- Whether one of the pages that `n` bytes at a virtual address touch leads to another device, page by page. -/
def State.leadsAway (s : State) (cl dk : Nat) : Nat → Nat → Nat → Bool
  | 0, _, _ => false
  | f + 1, x, n =>
    let past := fun (stop : Nat) => if stop < x + n then State.leadsAway s cl dk f stop (x + n - stop) else false
    match locate s cl dk x {} true with
    | .peer _ _ => true
    | .at _ e => past (max (x + 1) (e.va + e.size))
    | .pageFault _ page size => past (max (x + 1) (page + size))
    | .hostFault _ _ _ => past (x / 4096 * 4096 + 4096)
    | .atsMiss => past (x / 4096 * 4096 + 4096)
    | .noD => past (x / 4096 * 4096 + 4096)
/-- Whether an extent needs N for a transfer: it reaches another cluster's scratch, or another device (R286). -/
def State.needsN (s : State) (x n : Nat) : Bool :=
  let n := max n 1
  if (s.coresOf x n).any (fun k => clusterOf k != clusterOf s.turn.core) then true
  else match scratchOf (s.domainAt s.turn.core) x, s.domainOfCore s.turn.core with
    | none, some dk => s.leadsAway (clusterOf s.turn.core) dk (n / 4096 + 2) x n
    | _, _ => false
/-- The checks of a capability operand of a transfer (R84, R286): R43 steps 1 to 4, N where it is needed, scratch of the
issuer's own domain. `n` is none where the bounds are checked element by element (R290). -/
def State.checkEnd (s : State) (r : RegNum) (n : Option Nat) (perms : List Nat) : Option TrapVal :=
  let c := s.reg r
  let perms := if s.needsN c.addr (n.getD 1) then perms ++ [permN] else perms
  (match n with
    | some n => checkExtent c r.val c.addr n perms
    | none => checkTag c r.val false perms).orElse (fun _ =>
      if (s.coresOf c.addr (n.getD 0)).all (fun k => (s.domainAt s.turn.core).holds (clusterOf k)) then none
      else some ⟨.capPerm, r.val⟩)
/-- CONTAINED for a scratch destination in a containment rectangle (R286). -/
def State.checkContained (s : State) (r : RegNum) (n : Nat) : Option TrapVal :=
  let x := (s.reg r).addr
  ((s.coresOf x n).find? (fun k => (s.core k).contained)).map (fun k =>
    ⟨.contained, max x ((s.domainAt s.turn.core).lwin.toNat + k * 0x8000)⟩)
/-- The tile number in an operand register (R285). -/
def State.tileNum (s : State) (r : RegNum) : TileNum := (s.word r).setWidth 5 |>.toFin
/-- TILE and CAPBND of a tile operand whose first `n` bytes are used (R286, R290). -/
def State.checkTile (s : State) (tl : TileNum) (n : Nat) : Option TrapVal :=
  match s.ownCore.tile tl with
  | none => some ⟨.tile, tl.val⟩
  | some t => if n ≤ t.len then none else some ⟨.capBnd, s.tileVa s.turn.core t t.len⟩
/-- Whether a tile operand is in a state that lets the request issue (Table 13-1). -/
def State.tileOk (s : State) (tl : Option TileNum) (ok : Tile → Bool) : Bool :=
  match tl with
  | none => true
  | some k => ((s.ownCore.tile k).map ok).getD false
/-- A drain issues (Table 13-1, R282). -/
def Tile.drainIssued (keep : Bool) (t : Tile) : Tile := { t with st := .draining, keep := keep, pt := decide (t.hold ≠ 0) }

/-- A transfer counted in a gang phase needs the gang's barrier entry (R175). -/
def State.phased (s : State) (ck : Nat) (k : State → State) : State := if ck = 2 then s.withBarrier (fun _ s => k s) else k s
/-- Whether the tiles of a request let it issue (Table 13-1). -/
def State.tilesOk (s : State) (q : XReq) : Bool := s.tileOk q.srcTile Tile.free && s.tileOk q.dstTile Tile.canFill && s.tileOk q.idxTile Tile.free
/-- A request whose checks have passed enters the command FIFO (R286): room, release, tile transitions, push. -/
def State.pushRequest (s : State) (d : RegNum) (block : Bool) (q : XReq) (bytes : Nat) : State :=
  if 16 ≤ s.ownCore.fifo.length then (if block then s.park .fifoFull else (s.writeWord d 1).finish)
  else s.release .device .again (fun s =>
    let s := (q.srcTile.toList ++ q.idxTile.toList).foldl State.tileAcquire s
    let s := s.onTile q.srcTile (Tile.drainIssued (wbit q.w0 8))
    let s := s.onTile q.dstTile (fun t => { t.fillIssued with pending := t.pending + bytes })
    let s := s.onTile q.idxTile (fun t => { t with hold := t.hold + 1 })
    ((s.setCore s.turn.core { s.ownCore with fifo := s.ownCore.fifo ++ [q] }).writeWord d 0).finish)

/-- The steps of R286 before a request enters the FIFO: capability and tile checks, a forfeit while its tiles are not in the states of
Table 13-1, a contained destination, the drain, and the gang phase. -/
def State.issueRequest (s : State) (q : XReq) (bad hit : Option TrapVal) (push : State → State) : State :=
  s.checked bad (fun s =>
    if !s.tilesOk q then s.forfeit
    else s.checked hit (fun s => s.irrevocably (fun s => s.drained (fun s => s.phased (xCk q.w3) push))))
/-- XFER and XFERB (R285, R286). An extent beyond a tile raises CAPBND before the state of the tile makes the instruction forfeit (DESIGN CHOICE, log
entry 57). -/
def State.copyRequest (s : State) (d a b e : RegNum) (block : Bool) : State :=
  let w0 := s.word e
  let w3 := hi64 (s.reg e).val
  if badCopy w0 w3 then s.drained (fun s => s.irrevocably (fun s => (s.writeWord d 2).finish))
  else
    let kind : XKind := match xOp w0 with
      | 1 => .strided
      | 2 => .multicast
      | _ => .copy
    let srcN := extentOf w0 w3 (wfld w0 32 16 * 16)
    let dstN := extentOf w0 w3 (wfld w0 48 16 * 16)
    let srcTile := if xStile w0 then some (s.tileNum a) else none
    let dstTile := if xDtile w0 then some (s.tileNum b) else none
    let q : XReq :=
      { kind := kind, w0 := w0, w3 := w3, src := s.reg a, dst := s.reg b, srcTile := srcTile, dstTile := dstTile
        issuer := s.turn, ap := s.cur.ap, tbase := s.ownCore.tilebase }
    let byCap := !xDtile w0 && kind != .multicast
    let bad := (((if xStile w0 then none else s.checkEnd a (some srcN) [permL]).orElse
      (fun _ => if byCap then s.checkEnd b (some dstN) [permS] else none)).orElse
      (fun _ => srcTile.bind (fun tl => s.checkTile tl srcN))).orElse
      (fun _ => dstTile.bind (fun tl => s.checkTile tl dstN))
    s.issueRequest q bad (if byCap then s.checkContained b dstN else none) (fun s => s.pushRequest d block q q.total)
/-- GETX and PUTX (R285, R290). -/
def State.indexedRequest (s : State) (d a b e : RegNum) (put : Bool) : State :=
  let w0 := s.word e
  let w3 := hi64 (s.reg e).val
  if badIndexed put w0 w3 then s.drained (fun s => s.irrevocably (fun s => (s.writeWord d 2).finish))
  else
    let n := xLen w3
    let ix : TileNum := Fin.ofNat 32 (wfld w0 16 5)
    let loc := if put then a else b
    let far := if put then b else a
    let tile := if (if put then xStile w0 else xDtile w0) then some (s.tileNum loc) else none
    let q : XReq :=
      { kind := if put then .putx else .getx, w0 := w0, w3 := w3, src := s.reg a, dst := s.reg b
        srcTile := if put then tile else none, dstTile := if put then none else tile
        idxTile := some ix, issuer := s.turn, ap := s.cur.ap, tbase := s.ownCore.tilebase }
    let local_ := fun (_ : Unit) => if tile.isSome then none else s.checkEnd loc (some n) [if put then permL else permS]
    let remote := fun (_ : Unit) => s.checkEnd far none [if put then permS else permL, permN]
    let bad := (((if put then (local_ ()).orElse remote else (remote ()).orElse local_).orElse
      (fun _ => tile.bind (fun tl => s.checkTile tl n))).orElse
      (fun _ => s.checkTile ix (n / xElem w0 * xIndex w0)))
    let hit := if put then s.checkContained b 0 else if tile.isSome then none else s.checkContained b n
    s.issueRequest q bad hit (fun s => s.pushRequest d true q n)

/-- XFER (R286). -/
def execXfer (d a b e : RegNum) (s : State) : Out := .next (s.copyRequest d a b e true)
/-- XFERB (R286). -/
def execXferb (d a b e : RegNum) (s : State) : Out := .next (s.copyRequest d a b e false)
/-- GETX (R290). -/
def execGetx (d a b e : RegNum) (s : State) : Out := .next (s.indexedRequest d a b e false)
/-- PUTX (R290). -/
def execPutx (d a b e : RegNum) (s : State) : Out := .next (s.indexedRequest d a b e true)

/-- A counter of a thread (R291). -/
def Thread.counter (h : Thread) (cc : Fin 8) : Counter := Map.get {} h.cc cc.val
/-- A thread with a counter replaced. -/
def Thread.setCounter (h : Thread) (cc : Fin 8) (c : Counter) : Thread := { h with cc := Map.set h.cc cc.val c }
/-- Whether a counter has reached a threshold (R291). -/
def Counter.reached (c : Counter) (th : BitVec 48) : Bool := decide ((c.cnt - th).toNat < 2 ^ 47)
/-- Reading a counter acquires over its signature and clears it (R291, Table 6-5). -/
def State.takeCounter (s : State) (d : RegNum) (cc : Fin 8) (clr : Bool) : State :=
  let c := s.cur.counter cc
  let s := s.acquire .device (some c.sig) c.sat
  let s := s.setCur (s.cur.setCounter cc { cnt := if clr then 0 else c.cnt, sig := 0, sat := false })
  (s.writeWord d (c.cnt.setWidth 64)).finish
/-- A counter grows by the bytes of a completion, and takes its signature; a CWAIT that it satisfies goes on (R288, R291). -/
def State.countTo (s : State) (t : Tid) (cc : Fin 8) (n : Nat) (g : Sig) : State :=
  let h := s.thread t
  let c := h.counter cc
  let g := c.sig ||| g
  let c : Counter := { cnt := c.cnt + BitVec.ofNat 48 n, sig := g, sat := c.sat || decide (384 < popcount g) }
  let s := s.setThread t (h.setCounter cc c)
  match h.wait with
  | some (.cwait d k th) =>
    if k = cc && c.reached th then s.as t (fun s => (s.setCur { s.cur with status := .running }).takeCounter d cc false) else s
  | _ => s
/-- CWAIT (R291). -/
def execCwait (d : RegNum) (cc : Fin 8) (a : RegNum) (s : State) : Out := .next (s.drained (fun s => s.irrevocably (fun s =>
  let th := (s.word a).setWidth 48
  if (s.cur.counter cc).reached th then s.takeCounter d cc false else s.park (.cwait d cc th))))
/-- CRD (R291). -/
def execCrd (d : RegNum) (cc : Fin 8) (clr : Bool) (s : State) : Out := .next (s.drained (fun s => s.irrevocably (fun s =>
  s.takeCounter d cc clr)))
/-- LHND (R292). -/
def execLhnd (a : RegNum) (k : Fin 7) (s : State) : Out := .next (s.drained (fun s =>
  s.checked (checkTag (s.reg a) a.val true [permX]) (fun s => s.irrevocably (fun s =>
    (s.setCore s.turn.core { s.ownCore with handlers := Map.set s.ownCore.handlers (k.val + 1) (s.reg a) }).finish))))

/-- A tile instruction takes effect, or parks until its tile lets it (R282, R283). -/
def State.tileOp (s : State) (op : TileOp) : State :=
  let k := s.turn.core
  ((s.tileGo op).getD (s.park (.tile op))).tileWake k
/-- TLDEF (R283). -/
def execTldef (tl : TileNum) (a b : RegNum) (rdy : Bool) (s : State) : Out := .next (s.drained (fun s =>
  let c := s.reg a
  let n := (s.word b).toNat
  let x := c.addr
  let o := (scratchOf (s.domainAt s.turn.core) x).getD 0
  let bad := (checkExtent c a.val x n [permL, permS]).orElse (fun _ =>
    if x % 64 ≠ 0 then some ⟨.align, x⟩
    else if n % 64 = 0 && decide (64 ≤ n) && decide (n ≤ 65536) && (scratchOf (s.domainAt s.turn.core) x).isSome
        && clusterOf (scratchCore o) == clusterOf s.turn.core && decide (o % 2 ^ 21 + n ≤ 2 ^ 21) then none
    else some ⟨.capBnd, x⟩)
  s.checked bad (fun s => s.irrevocably (fun s => s.tileOp (.define tl (o % 2 ^ 21) n rdy)))))
/-- TLST, mode 0 (R283). -/
def execTlstQuery (d : RegNum) (tl : TileNum) (s : State) : Out := .next (s.drained (fun s => s.irrevocably (fun s =>
  (s.writeWord d (s.tileStatus s.turn.core tl)).finish)))
/-- TLST in a mode that sets the state of a tile, and TLREL (R283). -/
def State.setTile (s : State) (tl : TileNum) (op : TileOp) : State :=
  s.drained (fun s => s.checked (s.checkTile tl 0) (fun s => s.irrevocably (fun s => s.tileOp op)))
/-- TLST, mode 1 (R283). -/
def execTlstReady (d : RegNum) (tl : TileNum) (s : State) : Out := .next (s.setTile tl (.set d tl true))
/-- TLST, mode 2 (R283). -/
def execTlstEmpty (d : RegNum) (tl : TileNum) (s : State) : Out := .next (s.setTile tl (.set d tl false))
/-- TLREL (R283). -/
def execTlrel (tl : TileNum) (s : State) : Out := .next (s.setTile tl (.undef tl))

end Sys2Proof.Machine
end

