-- ==== Sys2Proof/Machine/Engine.lean ====
section
/-!
DEFINITION. The transfer engine: its reads and writes at banks and homes, the cutting into chunks, and the way of a chunk to
its landing core (R287, R289, R290, R313, R314).
-/
namespace Sys2Proof.Machine

/-- What an engine's read of some bytes gave: data with the tags of the granules counted from its first byte and the bytes that
come from poisoned words; nothing yet; or nothing ever (a contained or unreachable place). -/
inductive Got where
  | data (v : Nat) (tags : Nat) (poison : Nat) (s : State)
  | wait (s : State)
  | gone

/-- The bytes of `n` at `a` that lie in poisoned words, as a mask (R106). -/
def poisonMask (m : Store) (a n : Nat) : Nat :=
  if m.poison.isEmpty then 0
  else (List.range n).foldl (fun acc i => if NatSet.has m.poison ((a + i) / 8) then acc + 2 ^ i else acc) 0
/-- The tags of the granules from byte `a` on. -/
def tagMask (m : Store) (a n : Nat) : Nat :=
  (List.range (n / 16)).foldl (fun acc i => if NatSet.has m.tags (a / 16 + i) then acc + 2 ^ i else acc) 0

/-- Bytes of a line that another module sent, with the bytes that come from poisoned words, as a mask (R106, R383). -/
def ILine.bytes (f : ILine) (o n : Nat) : Nat × Nat :=
  (f.data.toNat / 256 ^ o % 256 ^ n, (List.range n).foldl (fun a i => if f.poison.getLsbD ((o + i) / 8) then a + 2 ^ i else a) 0)
/-- Bytes that request `k` of core `c` reads at another module: its line is asked for once, and comes with an event (R287, R383). -/
def State.enginePeer (s : State) (c k x n addr : Nat) : Got :=
  match Map.find (s.core c).inflight k with
  | none => .gone
  | some q => match Map.find q.buf (x / 64) with
    | some f => let p := f.bytes (x % 64) n; .data p.1 0 p.2 s
    | none =>
      if q.asked != some (x / 64) then
        .wait { s.setReq c k { q with asked := some (x / 64) } with hostOut := s.hostOut ++ [.peerRead (addr / 2 ^ 39) (addr % 2 ^ 39 / 64 * 64)] }
      else if !s.ev.peer then .wait s
      else if s.ev.full then .gone
      else match s.ev.line64 with
        | none => .wait s
        | some f => .wait (s.setReq c k { q with asked := none, buf := Map.set q.buf (x / 64) f })
/-- Request `k` of core `c` reads bytes of one line at their home or port (R287, R383). -/
def State.engineLine (s : State) (c k dk x n : Nat) (permD : Bool) : Got :=
  let cl := clusterOf c
  if (s.faultOf cl dk x).isSome then .wait s
  else match locate s cl dk x { r := true } permD with
  | .at l e =>
    let m := s.store l.space
    if l.space != .host && !s.withHome cl l.home then .wait s
    else match (if l.space = .host then s.hostRead cl dk x l.addr else s.homeClear dk (.engine c) l x false) with
    | (false, s) => .wait s
    | (true, s) => .data (m.read l.addr n) (if l.isFlat then 0 else tagMask m l.addr n) (poisonMask m l.addr n) (s.tlbKeep cl e)
  | .pageFault reason page size => .wait (s.engineFault c dk x page size 1 reason false)
  | .hostFault reason page size => .wait (s.engineFault c dk x page size 1 reason (!(s.cluster cl).priStopped))
  | .atsMiss => .wait (s.askTranslation cl dk x)
  | .noD => .gone
  | .peer dev addr =>
    if decide (hbmTop ≤ addr) || (s.routeTo dev).isNone then .gone else s.enginePeer c k x n (dev * 2 ^ 39 + addr)

/-- Request `k` of core `c` reads `n` bytes at virtual address `x` (R287). -/
def State.engineRead (s : State) (c k x n : Nat) (permD : Bool) : Got :=
  let d := s.domainAt c
  if n = 0 then .data 0 0 0 s
  else match scratchOf d x with
  | some o =>
    let bad := fun (k : Nat) => !d.holds (clusterOf k) || (s.core k).contained
    if bad (scratchCore o) || bad (scratchCore (o + n - 1)) then .gone
    else if !s.withHome (clusterOf c) (clusterOf (scratchCore o)) then .wait s
    else .data (s.scratch.read o n) (tagMask s.scratch o n) (poisonMask s.scratch o n) s
  | none =>
    match s.domainOfCore c with
    | none => .gone
    | some dk =>
      (rangeFrom (x / 64) ((x + n - 1) / 64 + 1)).foldl (fun acc y =>
        match acc with
        | .wait s => .wait s
        | .gone => .gone
        | .data v t p s =>
          let lo := max x (y * 64)
          let hi := min (x + n) (y * 64 + 64)
          match s.engineLine c k dk lo (hi - lo) permD with
          | .wait s => .wait s
          | .gone => .gone
          | .data v' t' p' s =>
            .data (v + v' * 256 ^ (lo - x)) (if x % 16 = 0 then t + t' * 2 ^ ((lo - x) / 16) else 0) (p + p' * 2 ^ (lo - x)) s)
        (.data 0 0 0 s)

/-- Write `n` bytes in a memory, the words of the bytes of `poison` poisoned (R289): a write of data by the rules of R106. -/
def Store.writePoison (m : Store) (a n v poison : Nat) : Store × Bool :=
  let w := m.writeData a n v
  if poison = 0 then w
  else ((List.range n).foldl (fun (acc : Store) i => if poison / 2 ^ i % 2 = 1 then acc.setPoison (a + i) true else acc) w.1, w.2)

/-- Whether the port of a cluster owns a host line, which an engine's write needs; ownership is asked for once (R380). -/
def State.ownHost (s : State) (cl hpa : Nat) : Bool × State :=
  let k := s.cluster cl
  if !k.atsOn || Map.find k.hostLines (hpa / 64) == some .e then (true, s) else (false, s.askOwn cl hpa)

/-- A piece of an engine's write: of a line of this module or of the host, or of another module's memory. -/
inductive Piece where
  | home (x n : Nat) (l : Loc) (e : TlbEntry)
  | peer (x n dev addr : Nat)
/-- The pieces of an engine's write, line by line: none where the place is gone, and whether the write can be performed now. -/
def State.writePlaces (s : State) (c dk x n : Nat) (permD : Bool) : Option (List Piece) × Bool × State :=
  (rangeFrom (x / 64) ((x + n - 1) / 64 + 1)).foldl (fun acc y =>
    match acc with
    | (none, b, s) => (none, b, s)
    | (some ps, b, s) =>
      let cl := clusterOf c
      let lo := max x (y * 64)
      let hi := min (x + n) (y * 64 + 64)
      if (s.faultOf cl dk lo).isSome then (some ps, false, s)
      else match locate s cl dk lo { w := true } permD with
      | .at l e =>
        let r := if l.space = .host then s.ownHost cl l.addr
          else if !s.withHome cl l.home then (false, s)
          else if l.flat then s.flatClear l true
          else s.homeClear dk (.engine c) l lo true
        (some (ps ++ [.home lo (hi - lo) l e]), b && r.1, r.2)
      | .pageFault reason page size => (some ps, false, s.engineFault c dk lo page size 2 reason false)
      | .hostFault reason page size => (some ps, false, s.engineFault c dk lo page size 2 reason (!(s.cluster cl).priStopped))
      | .atsMiss => (some ps, false, s.askTranslation cl dk lo)
      | .noD => (none, false, s)
      | .peer dev addr =>
        if decide (hbmTop ≤ addr) || (s.routeTo dev).isNone then (none, false, s) else (some (ps ++ [.peer lo (hi - lo) dev addr]), b, s))
    (some [], true, s)

/-- What an engine's write of an element did. -/
inductive Put where
  | done (s : State)
  | wait (s : State)
  | gone

/-- An engine writes `n` bytes of `v` at virtual address `x` for a request of thread `t`, in one step (R290). -/
def State.engineWrite (s : State) (c key : Nat) (t : Tid) (x n v poison : Nat) (permD : Bool) : Put :=
  let d := s.domainAt c
  let at_ := fun (s : State) (x : Nat) => ({ kind := 2, addr := x, core := c, vt := (s.thread t).vt, cycle := (s.core c).cycle } : Mchk)
  match scratchOf d x with
  | some o =>
    let k := scratchCore o
    if [k, scratchCore (o + n - 1)].any (fun k => !d.holds (clusterOf k) || (s.core k).contained) then .gone
    else if s.uncopied o || s.uncopied (o + n - 1) || !s.withHome (clusterOf c) (clusterOf k) then .wait s
    else
      let w := s.scratch.writePoison o n v poison
      .done (({ s with scratch := w.1 }).partialMchks (s.domainOfCore k) (at_ s x) (s.scratch.partialWords o n x))
  | none =>
    match s.domainOfCore c with
    | none => .gone
    | some dk =>
      match s.writePlaces c dk x n permD with
      | (none, _, _) => .gone
      | (some _, false, s) => .wait s
      | (some ps, true, s) =>
        let cl := clusterOf c
        let put := fun (acc : State) (p : Piece) => match p with
          | .home lo k l e =>
            let acc := if l.space = .host then acc else if l.flat then acc.outsideMark l.addr else (acc.tlbKeep cl e).beforeWrite e
            let bad := (acc.store l.space).partialWords l.addr k lo
            let w := (acc.store l.space).writePoison l.addr k (v / 256 ^ (lo - x) % 256 ^ k) (poison / 2 ^ (lo - x))
            let acc := acc.setStore l.space w.1
            let acc := if l.space != .host then acc
              else
                let h := acc.cluster cl
                { acc.setCluster cl { h with hostLines := Map.del h.hostLines (l.addr / 64)
                                             hostReqs := h.hostReqs ++ [.wrote (.engine c key lo l.addr)] } with
                  hostOut := acc.hostOut ++ [if h.atsOn then .dirtyEvict (l.addr / 64 * 64) (hostData w.1 l.addr) (hostPoison w.1 l.addr)
                    else .untranslated (s.domain dk).pasid lo true] }
            acc.partialMchks (some dk) (at_ acc lo) bad
          | .peer lo k dev addr =>
            let h := acc.cluster cl
            let o := addr % 64
            let words := (List.range k).foldl (fun a i => if poison / 2 ^ (lo - x + i) % 2 = 1 then a ||| (1 : BitVec 8) <<< ((o + i) / 8) else a) 0
            { acc.setCluster cl { h with peerReqs := h.peerReqs ++ [.engine c key lo k dev] } with
              hostOut := acc.hostOut ++ [.peerWrite dev (addr / 64 * 64) (BitVec.ofNat 512 (v / 256 ^ (lo - x) % 256 ^ k * 256 ^ o)) (byteMask o k) words .data] }
        let s' := ps.foldl put s
        if s'.needs = s.needs then .done s' else .wait (s.askNeeds s'.needs)

/-- The source and destination of byte `p` of a copy: its row and column, as virtual addresses (R286). -/
def State.srcAt (s : State) (c : Nat) (q : XReq) (p : Nat) : Nat :=
  let n := xLen q.w3
  let off := if q.kind = .strided then p / n * (wfld q.w0 32 16 * 16) + p % n else p
  match q.srcTile.bind ((s.core c).tileUnder q.tbase) with
  | some t => s.tileVa c t off
  | none => (q.src.addr + off) % 2 ^ 64
/-- The destination of byte `p` of a request. -/
def State.dstAt (s : State) (c : Nat) (q : XReq) (p : Nat) : Nat :=
  let n := xLen q.w3
  let off := if q.kind = .strided then p / n * (wfld q.w0 48 16 * 16) + p % n else p
  match q.dstTile.bind ((s.core c).tileUnder q.tbase) with
  | some t => s.tileVa c t off
  | none => (q.dst.addr + off) % 2 ^ 64
/-- The landing core of a chunk (R287). -/
def State.landsOn (s : State) (c : Nat) (tile : Bool) (x : Nat) : Nat :=
  if tile then c
  else match scratchOf (s.domainAt c) x with
    | some o => scratchCore o
    | none => c
/-- The capability that a handler gets for a chunk (Table 13-4): the destination at the chunk's first byte; for a tile, its
region with L and S. -/
def State.chunkCap (s : State) (c : Nat) (q : XReq) (x : Nat) : CReg :=
  match q.dstTile.bind ((s.core c).tileUnder q.tbase) with
  | some t => (capFor (s.tileVa c t 0) t.len [permL, permS]).movedTo x
  | none => q.dst.movedTo x
/-- A chunk leaves for its landing core: one more live chunk of its request (R287), and of a multicast at that subscriber (R297). -/
def State.sendChunk (s : State) (dest : Nat) (ch : Chunk) : State :=
  let s := match ch.owner with
    | .request c k => s.modReq c k (fun q => { q with live := q.live + 1, lands := NatSet.ins q.lands dest })
    | .multicast c k d =>
      s.modReq c k (fun q => { q with live := q.live + 1, lands := NatSet.ins q.lands dest }.modPart d (fun p => { p with live := p.live + 1 }))
    | .stream c p => s.modPort c p (fun v => { v with live := v.live + 1 })
  let s := s.ungate (clusterOf dest)
  s.setCore dest { s.core dest with incoming := (s.core dest).incoming ++ [ch] }
/-- The last read of a request ends its drain and its hold of the index tile (Table 13-1, R282); a request that is run again after a rollback
may find its drain ended (R369). -/
def State.readsEnd (s : State) (c : Nat) (q : XReq) : State :=
  let drain := fun (t : Tile) => if t.st == .draining then { t with st := if t.keep then .ready else .empty } else t
  let s := match q.srcTile.bind (fun tl => ((s.core c).tile tl).map (fun t => (tl, t))) with
    | some (tl, t) => (s.setCore c ((s.core c).setTile tl (drain t))).tileWake c
    | none => s
  match q.idxTile with
  | some tl => s.holdTile c tl false
  | none => s
/-- After a read that leaves request `k` at `sent`: the last one ends its reads. -/
def State.readTo (s : State) (c k sent : Nat) : State :=
  match Map.find (s.core c).inflight k with
  | none => s
  | some q =>
    let q := { q with sent := sent, ended := q.ended || decide (q.total ≤ sent), asked := none, buf := [] }
    let s := s.setReq c k q
    if q.ended then s.readsEnd c q else s
/-- Where bytes at a virtual address are read: the core of a scratchpad, or, counted from 2^16 on, the home or port of a line (R287). -/
def State.sourceOf (s : State) (c x : Nat) : Nat :=
  match scratchOf (s.domainAt c) x, s.domainOfCore c with
  | some o, _ => scratchCore o
  | none, none => c
  | none, some dk => match locate s (clusterOf c) dk x { r := true } true with
    | .at l _ => 2 ^ 16 + l.home
    | _ => 2 ^ 16 + clusterOf c
/-- The chunk that bytes `p` to `p + n - 1` of a request make. `src` is the source address that its handler is given, `first` that of its first
byte: unless this and the destination lie on granule boundaries, every payload tag is clear (Table 13-4). -/
def State.mkChunk (s : State) (c k : Nat) (q : XReq) (p n x src first v tags poison : Nat) : Chunk :=
  { owner := .request c k, hnd := if q.kind = .getr then 0 else xHnd q.w3, dst := s.chunkCap c q x, dstTile := q.dstTile, n := n, off := p
    w0 := q.w0, src := wordOf src, issuer := q.issuer, bytes := BitVec.ofNat 1024 v
    via := match q.kind with
      | .copy => s.sourceOf c src
      | .strided => s.sourceOf c src
      | .multicast => c
      | .getx => c
      | .putx => c
      | .getr => c
    tags := if first % 16 = 0 && x % 16 = 0 then BitVec.ofNat 8 (tags % 2 ^ (n / 16)) else 0, poison := BitVec.ofNat 128 poison }
/-- Index `i` of a GETX or PUTX, and the address of its element in the remote capability; none when that lies outside its
bounds (R289, R290). -/
def State.elemAt (s : State) (c : Nat) (q : XReq) (i : Nat) : Option Nat :=
  let w := xIndex q.w0
  match q.idxTile.bind ((s.core c).tileUnder q.tbase) with
  | none => none
  | some t =>
    let far := if q.kind = .putx then q.dst else q.src
    let x := (far.addr + s.tileRead c t (i * w) w * xElem q.w0) % 2 ^ 64
    if far.inBounds x (xElem q.w0) then some x else none

/-- Whether the reads of a request wait for the last holder, other than itself, of the tile that it drains (Table 13-1, R282). -/
def State.drainWaits (s : State) (c : Nat) (q : XReq) : Bool :=
  q.srcTile.any (fun tl => ((s.core c).tile tl).any (fun t => (s.core c).heldBy tl.val t != 0))
/-- The transfer engine starts its next request, at most four in flight (R287); the reads of a drain wait until the tile is not
held. A request of no bytes has no reads, and completes when it starts, which TRANSFER_COMPLETION does. -/
def State.tryStart (s : State) (c : Nat) : Option State :=
  let k := s.core c
  match k.fifo with
  | [] => none
  | q :: r =>
    if 4 ≤ (k.inflight.filter (fun e => decide (2 ≤ e.1))).length then none
    else
      let key := ((List.range 8).map (fun i => i + 2)).find? (fun i => (Map.find k.inflight i).isNone)
      let key := key.getD 2
      let s := s.setCore c { k with fifo := r, inflight := Map.set k.inflight key q }
      let s := if q.total = 0 && !s.drainWaits c q then s.readTo c key 0 else s
      some ((List.range 15).foldl (fun acc i =>
        match (acc.thread ⟨c, i⟩).wait with
        | some .fifoFull => acc.retry ⟨c, i⟩
        | _ => acc) s)

/-- The chunks of a request that are still on their way, of a stream those of their destination, are dropped (R289). -/
def State.dropFlying (s : State) (o : ChunkOf) : State :=
  let drop := fun (ch : Chunk) => match o, ch.owner with
    | .request c k, .request c' k' => c == c' && k == k'
    | .multicast c k _, .multicast c' k' _ => c == c' && k == k'
    | .stream c p, .stream c' p' => c == c' && p == p'
    | _, _ => false
  let gone := s.cores.flatMap (fun e => e.2.incoming.filter drop)
  let s := { s with cores := s.cores.map (fun e => (e.1, { e.2 with incoming := e.2.incoming.filter (fun ch => !drop ch) })) }
  gone.foldl (fun acc ch => acc.chunkEnd ch false) s
/-- The rest of a request is dropped: what has not been read, and what is on its way (R289; log entry 50). -/
def State.dropRest (s : State) (o : ChunkOf) : State :=
  let s := s.dropFlying o
  let stop := fun (s : State) (c k : Nat) => match Map.find (s.core c).inflight k with
    | some q => if q.ended then s else s.readTo c k q.total
    | none => s
  match o with
  | .request c k => stop s c k
  | .multicast c k _ => stop s c k
  | .stream _ _ => s
/-- A source that is gone ends the reads; the rest of the request is dropped (R289). -/
def State.sourceGone (s : State) (c k : Nat) (q : XReq) (x : Nat) : State :=
  (s.transferError c q.issuer.slot q.issuer x q.w0).dropRest (.request c k)
/-- The next source chunk of a plain or strided copy (R287), read in ascending order, where the spec leaves the order open (DESIGN CHOICE, log
entry 57). -/
def State.readCopy (s : State) (c k : Nat) (q : XReq) : Option State :=
  let p := q.sent
  let x := s.dstAt c q p
  let src := s.srcAt c q p
  let col := if q.kind = .strided then p % xLen q.w3 else p
  let n := min (xLen q.w3 - col) (128 - x % 128)
  match s.engineRead c k src n (q.src.has permD) with
  | .gone => some (s.sourceGone c k q src)
  | .wait s' => if s' = s then none else some s'
  | .data v t po s =>
    let tags := if q.srcTile.isNone && q.src.has permLC then t else 0
    let ch := s.mkChunk c k q p n x src src v tags po
    some ((s.sendChunk (s.landsOn c q.dstTile.isSome x) ch).readTo c k (p + n))
/-- The elements `i` to `j - 1` of a GETX, read in order: their bytes and poison mask (R290). -/
def State.readElems (s : State) (c k : Nat) (q : XReq) (i j : Nat) : Got :=
  let z := xElem q.w0
  (rangeFrom i j).foldl (fun acc e =>
    match acc with
    | .wait s => .wait s
    | .gone => .gone
    | .data v t p s => match s.elemAt c q e with
      | none => .data v t p s
      | some x => match s.engineRead c k x z (q.src.has permD) with
        | .wait s => .wait s
        | .gone => .gone
        | .data v' t' p' s => .data (v + v' * 256 ^ (z * (e - i))) (t + t' * 2 ^ (e - i)) (p + p' * 2 ^ (z * (e - i))) s)
    (.data 0 0 0 s)
/-- The next chunk of a GETX: a run of elements whose indices are in bounds; an element out of bounds is left out (R289). It lands through the
issuing core's landing thread, wherever its bytes go (R290). -/
def State.readGather (s : State) (c k : Nat) (q : XReq) : Option State :=
  let z := xElem q.w0
  let p := q.sent
  let i := p / z
  match s.elemAt c q i with
  | none => some ((s.transferError c q.issuer.slot q.issuer q.src.addr q.w0).readTo c k ((i + 1) * z))
  | some src =>
    let x := s.dstAt c q p
    let top := min (xLen q.w3) (p + (128 - x % 128))
    let stop := ((rangeFrom i ((top + z - 1) / z)).find? (fun e => (s.elemAt c q e).isNone)).map (fun e => e * z)
    let n := min top (stop.getD top) - p
    match s.readElems c k q i ((p + n + z - 1) / z) with
    | .gone => some (s.sourceGone c k q src)
    | .wait s' => if s' = s then none else some s'
    | .data v t po s =>
      let tags := if z = 16 && q.src.has permLC then t else 0
      let ch := s.mkChunk c k q p n x src (src + p - i * z) (v / 256 ^ (p - i * z) % 256 ^ n) tags (po / 2 ^ (p - i * z) % 2 ^ n)
      some ((s.sendChunk c ch).readTo c k (p + n))
/-- The next element of a PUTX: read from the packed source, written at its home or bank in one step, its line in the
completion's signature when it is global (R290). -/
def State.writeScatter (s : State) (c k : Nat) (q : XReq) : Option State :=
  let z := xElem q.w0
  let p := q.sent
  match s.elemAt c q (p / z) with
  | none => some ((s.transferError c q.issuer.slot q.issuer q.dst.addr q.w0).readTo c k (p + z))
  | some x =>
    let src := s.srcAt c q p
    match s.engineRead c k src z (q.src.has permD) with
    | .gone => some (s.sourceGone c k q src)
    | .wait s' => if s' = s then none else some s'
    | .data v _ po s1 =>
      match s1.engineWrite c k q.issuer x z v po (q.dst.has permD) with
      | .gone => some (s1.sourceGone c k q x)
      | .wait s' => if s' = s then none else some s'
      | .done s =>
        let s := if po = 0 then s else s.transferError c q.issuer.slot q.issuer x q.w0
        let s := if (scratchOf (s.domainAt c) x).isSome then s
          else (linesIn x z).foldl (fun acc y => acc.signChunk (.request c k) y) s
        some ((s.modReq c k (fun q => { q with got := q.got + z })).readTo c k (p + z))

/-- Cut `n` bytes into chunks of at most 128 bytes that cross no 128-byte boundary of their destination at `x` (R287): offset
and length of each. -/
def cutChunks (x : Nat) : Nat → Nat → List (Nat × Nat)
  | 0, _ => []
  | _ + 1, 0 => []
  | fuel + 1, n =>
    let k := min n (128 - x % 128)
    (0, k) :: (cutChunks (x + k) fuel (n - k)).map (fun p => (p.1 + k, p.2))

/-- The value size of GETR (R312). -/
def gSize (w0 : Word) : Nat := 2 ^ wfld w0 27 2
/-- The bytes a CSR row takes in the raw layout (R314). -/
def rawBytes (w0 : Word) (cnt : Nat) : Nat := 16 + (4 * cnt + 15) / 16 * 16 + (gSize w0 * cnt + 15) / 16 * 16
/-- The stride of the compressed-row layout (R314). -/
def winStride (w0 : Word) : Nat :=
  match wfld w0 27 2 with
  | 2 => 328
  | 1 => 200
  | _ => 136
/-- The bytes of one gathered row with their poison mask (R314): its columns and values are packed numbers. The flag says that
a WIN row had more than 64 entries in its window (R313), or that a column that it leaves out came from a poisoned word, which ends the request in error too (R289). -/
def rowImage (w0 : Word) (r cnt cols vals pc pv : Nat) : Nat × Nat × Bool :=
  let z := gSize w0
  if wbit w0 29 then
    let kb := wfld w0 32 32
    let ins := (List.range cnt).filter (fun i => let x := cols / 2 ^ (32 * i) % 2 ^ 32
      decide (kb ≤ x) && decide (x < kb + 64))
    let kept := ins.take 64
    let v := kept.zipIdx.foldl (fun acc e =>
      acc + (cols / 2 ^ (32 * e.1) % 2 ^ 32 - kb) * 256 ^ (8 + e.2) + vals / 256 ^ (z * e.1) % 256 ^ z * 256 ^ (72 + z * e.2)) kept.length
    let po := kept.zipIdx.foldl (fun acc e =>
      (if pc / 2 ^ (4 * e.1) % 16 = 0 then acc else acc + 2 ^ (8 + e.2)) + pv / 2 ^ (z * e.1) % 2 ^ z * 2 ^ (72 + z * e.2)) 0
    (v, po, decide (64 < ins.length) || (List.range cnt).any (fun i => decide (pc / 2 ^ (4 * i) % 16 ≠ 0) && !kept.contains i))
  else
    let vo := 16 + (4 * cnt + 15) / 16 * 16
    (r + cnt * 2 ^ 32 + cols * 256 ^ 16 + vals * 256 ^ vo, pc * 2 ^ 16 + pv * 2 ^ vo, false)
/-- The bytes that gathered rows take in their tile (R314). -/
def gatherBytes (w0 : Word) (rows : List (Nat × Nat × Nat)) : Nat :=
  if wbit w0 29 then rows.length * winStride w0 else (rows.map (fun r => rawBytes w0 (r.2.2 - r.2.1))).foldl (· + ·) 0
/-- The bytes of a request: what it adds to the pending bytes of the tile that it fills, and takes off again (R280, R288). -/
def XReq.bytes (q : XReq) : Nat := if q.kind = .getr then gatherBytes q.w0 q.rows else q.total
/-- The next row of a GETR: its columns and values are read, and its bytes leave in chunks (R313, R314). -/
def State.readRow (s : State) (c k : Nat) (q : XReq) : Option State :=
  match q.rows[q.sent]? with
  | none => none
  | some (r, lo, hi) =>
    let z := gSize q.w0
    let cnt := hi - lo
    let pD := q.src.has permD
    let xc := (q.src.addr + 4 * lo) % 2 ^ 64
    let xv := (q.src.addr + q.voff + z * lo) % 2 ^ 64
    match s.engineRead c k xc (4 * cnt) pD with
    | .gone => some (s.sourceGone c k q xc)
    | .wait s' => if s' = s then none else some s'
    | .data cols _ pc s1 =>
      match s1.engineRead c k xv (z * cnt) pD with
      | .gone => some (s1.sourceGone c k q xv)
      | .wait s' => if s' = s then none else some s'
      | .data vals _ pv s =>
        let img := rowImage q.w0 r cnt cols vals pc pv
        let n := if wbit q.w0 29 then winStride q.w0 else rawBytes q.w0 cnt
        let x := match q.dstTile.bind ((s.core c).tileUnder q.tbase) with
          | some t => s.tileVa c t q.out
          | none => 0
        let s := if img.2.2 then s.transferError c q.issuer.slot q.issuer xc q.w0 else s
        let s := (cutChunks x (n / 64 + 4) n).foldl (fun (acc : State) p =>
          acc.sendChunk c (acc.mkChunk c k q (q.out + p.1) p.2 (x + p.1) xc xc (img.1 / 256 ^ p.1 % 256 ^ p.2) 0 (img.2.1 / 2 ^ p.1 % 2 ^ p.2))) s
        some ((s.modReq c k (fun q => { q with out := q.out + n })).readTo c k (q.sent + 1))

/-- The subscriptions of a core for a tag (R296). -/
def Core.subOf (c : Core) (tag : BitVec 8) : Option Sub := c.subs.find? (fun b => b.tag == tag)
/-- The next piece of a multicast that the root has performed: it leaves for every core joined then, cut for the destination of
each (R297). -/
def State.readMulticast (s : State) (c k : Nat) (q : XReq) (targets : List Nat) : Option State :=
  let p := q.sent
  let src := s.srcAt c q p
  let n := min (xLen q.w3 - p) 128
  match s.engineRead c k src n (q.src.has permD) with
  | .gone => some (s.sourceGone c k q src)
  | .wait s' => if s' = s then none else some s'
  | .data v t po s =>
    let tag := (lo64 q.dst.val).setWidth 8
    let s := targets.foldl (fun (acc : State) dest =>
      match (acc.core dest).subOf tag with
      | none => acc
      | some b =>
        let acc := acc.modReq c k (fun q => if q.parts.any (fun e => e.sub.owner.core = dest) then q
          else { q with parts := q.parts ++ [{ sub := b, task := (acc.thread b.owner).task }] })
        let x := (b.dst.addr + p) % 2 ^ 64
        (cutChunks x 4 n).foldl (fun (acc : State) e =>
          let ok := q.srcTile.isNone && q.src.has permLC && decide ((src + e.1) % 16 = 0) && decide ((x + e.1) % 16 = 0)
          let ch : Chunk :=
            { owner := .multicast c k dest, hnd := b.hnd, dst := b.dst.movedTo ((x + e.1) % 2 ^ 64), dstTile := none, n := e.2, off := p + e.1
              w0 := q.w0, src := wordOf (src + e.1), issuer := q.issuer, bytes := BitVec.ofNat 1024 (v / 256 ^ e.1 % 256 ^ e.2)
              tags := if ok then BitVec.ofNat 8 (t / 2 ^ (e.1 / 16) % 2 ^ (e.2 / 16)) else 0, poison := BitVec.ofNat 128 (po / 2 ^ e.1 % 2 ^ e.2), sub := some b
              via := 64 * (s.domainAt c).clusterAt 0 }
          acc.sendChunk dest ch) acc) s
    some (s.readTo c k (p + n))

/-- The next source read of request `k` of core `c` (R287); none while it cannot be made. -/
def State.trySource (s : State) (c k : Nat) : Option State :=
  match Map.find (s.core c).inflight k with
  | none => none
  | some q =>
    if q.ended || s.drainWaits c q then none
    else if q.total ≤ q.sent then some (s.readTo c k q.sent)
    else match q.kind with
      | .copy => s.readCopy c k q
      | .strided => s.readCopy c k q
      | .getx => s.readGather c k q
      | .putx => s.writeScatter c k q
      | .getr => s.readRow c k q
      | .multicast => q.targets.bind (s.readMulticast c k q)
/-- The root performs a multicast: it goes to the cores whose join it has performed (R297). -/
def State.tryMulticast (s : State) (c k : Nat) : Option State :=
  match Map.find (s.core c).inflight k with
  | some q =>
    if q.kind = .multicast && q.targets.isNone then
      some (s.setReq c k { q with targets := some (Map.get [] (s.domainAt c).joined (wfld (lo64 q.dst.val) 0 8)) })
    else none
  | none => none

end Sys2Proof.Machine
end

