-- ==== Sys2Proof/Machine/Fetch.lean ====
section
/-!
DEFINITION. Fetching words: the instruction cache and its fills (R36, R61).
-/
namespace Sys2Proof.Machine

/-- The word at an address as the instruction cache holds it, and whether it lies in a poisoned word; none on a miss (R61). -/
def Core.fetched (c : Core) (x : Nat) : Option (Nat × Bool) :=
  (Map.find c.icache (x / 64)).map (fun l => (l.data.toNat / 2 ^ (8 * (x % 64)) % 2 ^ 32, l.poison.getLsbD (x % 64 / 8)))
/-- A line enters the instruction cache, in one of the four ways of its set of 32 (R61). -/
def Core.icacheAdd (c : Core) (line way : Nat) (l : ILine) : Core :=
  let set := c.icache.filter (fun e => e.1 % 32 == line % 32)
  let ic := if (Map.find c.icache line).isSome || decide (set.length < 4) then c.icache
    else match set[way % set.length]? with
      | some (y, _) => Map.del c.icache y
      | none => c.icache
  { c with icache := Map.set ic line l }
/-- A line of a memory as the instruction cache holds it. -/
def iline (m : Store) (a : Nat) : ILine := { data := (lineAt m true a).data, poison := (lineAt m true a).poison }
/-- A line arrives in the instruction cache of a core, and the slots that wait for it may issue (R61). -/
def State.icacheFill (s : State) (c line : Nat) (l : ILine) : State :=
  let s := (s.setCore c ((s.core c).icacheAdd line (Config.victimWay s.freeCount) l)).bumpFree
  (List.range 16).foldl (fun acc i => if (acc.thread ⟨c, i⟩).wait = some (.fetch line) then acc.wake ⟨c, i⟩ else acc) s
/-- The capability of the word that a trap before its execution reports: the LIHH that stands just before it, if one does (R69, R70). -/
def Thread.epc (h : Thread) : CReg := if h.lihhNow.isSome then h.lihhPc else h.faultPcc
/-- A fetch that cannot be served raises a trap at the thread's next word, that of R36 where the PCC fails a check; a trailing thread takes it in
its own position (R342). -/
def State.fetchTrap (s : State) (t : Tid) (e : TrapVal) : State :=
  let h := s.thread t
  let e := (checkFetch h.pcc 32 false).getD e
  match h.trail with
  | some q => s.setThread t { h with status := .running, trail := some { q with trap := some e } }
  | none => s.as t (fun s => (s.setCur { s.cur with status := .running }).raiseAt h.epc e)
/-- An instruction-cache line of another module (R383): asked for once, and brought by an event, which may also refuse it. -/
def State.fetchPeer (s : State) (t : Tid) (line dev addr : Nat) : Option State :=
  let cl := clusterOf t.core
  let q := PeerReq.fetch t.core line dev addr
  let k := s.cluster cl
  let e : TrapVal := ⟨.contained, s.fabricAddr dev addr / 64 * 64 + (s.thread t).pcc.addr % 64⟩
  if decide (hbmTop ≤ addr) || (s.routeTo dev).isNone then some (s.fetchTrap t e)
  else if !k.peerReqs.contains q then
    some { s.setCluster cl { k with peerReqs := k.peerReqs ++ [q] } with hostOut := s.hostOut ++ [.peerRead dev (addr / 64 * 64)] }
  else if !s.ev.peer then none
  else if s.ev.full then some ((s.dropPeer cl q).fetchTrap t e)
  else s.ev.line64.map ((s.dropPeer cl q).icacheFill t.core line)
/-- The instruction-cache line that a thread waits for is read from its bank or its home (R61, R325, R328); a page fault parks the
thread as any access's does (R18, R330), unless its PCC fails the fetch checks: such a fetch faults though no line can arrive, as R321 and R417
have a bad vector do (log entry 51). None while the line cannot be had yet. -/
def State.tryFill (s : State) (t : Tid) : Option State :=
  let h := s.thread t
  let c := t.core
  let cl := clusterOf c
  match h.wait with
  | some (.fetch line) =>
    let x := line * 64
    let changed := fun (s' : State) => if s' = s then none else some s'
    let fault := fun (dk page size reason : Nat) (ats : Bool) => match checkFetch h.pcc 32 false with
      | some e => some (s.fetchTrap t e)
      | none => some ((s.setThread t h.issued).pageFault t dk x page size 4 reason ats)
    match scratchOf (s.domainAt c) x with
    | some o =>
      if !(s.domainAt c).holds (clusterOf (scratchCore o)) then some (s.fetchTrap t ⟨.capPerm, 32⟩)
      else if (s.core (scratchCore o)).contained then some (s.fetchTrap t ⟨.contained, h.pcc.addr⟩)
      else some (s.icacheFill c line (iline s.scratch o))
    | none => match s.domainOfCore c with
      | none => some (s.fetchTrap t ⟨.capPerm, 32⟩)
      | some dk => match locateOld s cl dk x { x := true } (h.pcc.has permD) (fun v => v.threads.any (fun p => p.1 == t)) with
        | .at l e =>
          if l.space != .host && !s.withHome cl l.home then none
          else match (if l.space = .host then s.hostRead cl dk x l.addr else if l.flat then s.flatClear l false else s.homeClear dk (.thread t) l x false) with
          | (false, s') => changed s'
          | (true, s') => some ((s'.tlbKeep cl e).icacheFill c line (iline (s'.seenAt l) l.addr))
        | .pageFault reason page size => fault dk page size reason false
        | .hostFault reason page size => fault dk page size reason (!(s.cluster cl).priStopped)
        | .atsMiss => changed (s.askTranslation cl dk x true)
        | .noD => some (s.fetchTrap t ⟨.capPerm, 32⟩)
        | .peer dev addr => s.fetchPeer t line dev addr
  | _ => none
/-- What the fetch of a word gives: the word, a trap (the fetch checks of R36 step 1, or POISON for a poisoned word, R106), or a
miss of a line (R61). -/
inductive Fetched where
  | word (w : Nat)
  | trap (e : TrapVal)
  | miss (line : Nat)
  deriving DecidableEq, Repr
/-- The fetch of the word that a capability addresses, by core `c`: the checks are made once its line is there (R61). -/
def State.fetchAt (s : State) (c : Nat) (pcc : CReg) : Fetched :=
  match (s.core c).fetched pcc.addr with
  | none => .miss (pcc.addr / 64)
  | some (w, poison) => match checkFetch pcc 32 false with
    | some e => .trap e
    | none => if poison then .trap ⟨.poison, pcc.addr / 8 * 8⟩ else .word w
/-- INSTRUCTION_FILL (R61). -/
def execInstructionFill (s : State) : Out := .next (((s.tryFill s.ev.t).map State.settleAts).getD s)

end Sys2Proof.Machine
end

