-- ==== Sys2Proof/Machine/Landing.lean ====
section
/-!
DEFINITION. Landing of chunks, handlers, completion of requests (R287 to R294), and subscriptions and streams (major 0x2F,
R296 to R299).
-/
namespace Sys2Proof.Machine

/-- The packets that a core's spill queue of 256 KiB holds (R339; log entry 22). -/
def spillRoom : Nat := 1024
/-- Where the next packet of a core's spill queue goes: entries of 256 bytes from SPILLQ + core × 0x4_0000 on, in turn (R339; log entry 22). -/
def State.spillPlace (s : State) (c : Nat) : Nat :=
  (signed57 ((s.cluster (clusterOf c)).spillq.toNat * 4096) + c % 64 * 0x40000 + 256 * ((s.core c).spillAt % spillRoom)) % 2 ^ 64
/-- A packet for a core is diverted: the cluster port writes it to the core's spill queue, behind the others (R293, R339); none while the queue is
full, after which its sender resends it. The spec gives no layout of a packet in the queue: the bytes written are free values (log entry 22). -/
def State.divert (s : State) (c : Nat) (p : Spilled) : Option State :=
  if spillRoom ≤ (s.core c).diverted.length then none
  else
    let s := match s.domainOfCore c with
      | some dk => { s.devWrite dk (s.spillPlace c) 256 (freeBytes s.freeCount 256) with freeCount := s.freeCount + 32 }
      | none => s
    some (s.setCore c { s.core c with diverted := (s.core c).diverted ++ [p], spillAt := ((s.core c).spillAt + 1) % spillRoom })
/-- Whether a chunk belongs to a stream, whose chunks land in sending order (R298). -/
def ChunkOf.ordered : ChunkOf → Bool
  | .request _ _ => false
  | .stream _ _ => true
  | .multicast _ _ _ => false
/-- The core that sent a chunk. -/
def ChunkOf.core : ChunkOf → Nat
  | .request c _ => c
  | .stream c _ => c
  | .multicast c _ _ => c
/-- Whether a chunk travels on the reply plane; the others travel on the stream and multicast plane (R287). -/
def ChunkOf.reply : ChunkOf → Bool
  | .request _ _ => true
  | .stream _ _ => false
  | .multicast _ _ _ => false
/-- Whether two chunks for one core are packets of one flow, which deliver in the order of their injection (R24, R301). -/
def Chunk.sameFlow (a b : Chunk) : Bool := a.via == b.via && a.owner.reply == b.owner.reply
/-- Chunk `k` on its way to core `c` arrives, in the order of its flow (R24, R289, R293, R297): a contained core drops it and the rest of its
request, a core that no longer subscribes discards it, and it is diverted while the core is pre-empted, full, or has diverted chunks waiting,
else entered. -/
def State.tryArrive (s : State) (c k : Nat) : Option State :=
  let co := s.core c
  match co.incoming[k]? with
  | none => none
  | some ch =>
    let s0 := s.setCore c { co with incoming := co.incoming.eraseIdx k }
    if !s.behind (clusterOf ch.owner.core) (clusterOf c) ch.cut then none
    else if (co.incoming.take k).any ch.sameFlow then none
    else if co.contained then
      some (((s0.chunkEnd ch false).transferError ch.owner.core ch.issuer.slot ch.issuer ch.dst.addr ch.w0).dropRest ch.owner)
    else if ch.sub.any (fun b => !co.subs.contains b) then some (s0.chunkEnd { ch with sub := none } false)
    else
      let s0 := if ch.owner.ordered then s0.logPacket (clusterOf ch.owner.core) (clusterOf c) ch.cut (.chunk c ch) else s0
      let co := s0.core c
      if co.preempted || !co.diverted.isEmpty || decide (32 ≤ co.landing.length + co.running.toList.length) then
        s0.divert c (.chunk ch)
      else some (s0.setCore c { co with landing := co.landing ++ [ch] })
/-- The oldest diverted chunk of a core is redelivered once an entry is free (R293). -/
def State.tryRedeliver (s : State) (c : Nat) : Option State :=
  let co := s.core c
  match co.diverted with
  | .chunk ch :: r =>
    if co.preempted || decide (32 ≤ co.landing.length + co.running.toList.length) then none
    else some (s.setCore c { co with diverted := r, landing := co.landing ++ [ch] })
  | .put _ :: _ => none
  | [] => none

/-- The bytes of a chunk that handler 0 of core `c` stores before a granule that STC would fault on (R289, R292): its tag, seal or permission, its
place (R84, R96), or its bounds. -/
def State.storable (s : State) (c : Nat) (ch : Chunk) : Nat :=
  let x := ch.dst.addr
  let d := s.domainAt c
  let noPlace := match scratchOf d x, s.domainOfCore c with
    | some o, _ => !d.holds (clusterOf (scratchCore o)) || (s.core (scratchCore o)).contained
    | none, some dk => s.carvedNoD (clusterOf c) dk x (ch.dst.has permD)
    | none, none => true
  if noPlace || (checkTag ch.dst 0 false [permS]).isSome || decide (x < ch.dst.base) then 0
  else if x + ch.n ≤ ch.dst.top then ch.n
  else min ch.n (ch.dst.top / 16 * 16 - x)
/-- Whether payload granule `i` of a chunk is stored with its tag: it carries one, the destination has SC, and G is held on the
global path (R292). -/
def Chunk.tagged (ch : Chunk) (global : Bool) (i : Nat) : Bool :=
  ch.tags.getLsbD i && ch.dst.has permSC && (!global || (CReg.perms { val := ch.bytes.extractLsb' (128 * i) 128 }).getLsbD permG)
/-- Handler 0 stores a chunk on core `c` (R289, R292): into its scratchpad, or through its L1 for slot 15. None while a segment
is still to be copied or the write-back queue is full. -/
def State.landStore (s : State) (c : Nat) (ch : Chunk) : Option State :=
  let x := ch.dst.addr
  let n := s.storable c ch
  let po := ch.poison.toNat % 2 ^ n
  let v := ch.bytes.toNat % 256 ^ n
  if n = 0 then some s
  else match scratchOf (s.domainAt c) x with
  | some o =>
    if s.uncopied o || s.uncopied (o + n - 1) then none
    else
      let bad := s.scratch.partialWords o n x
      let w := s.scratch.writePoison o n v po
      let m := (List.range (n / 16)).foldl (fun (acc : Store) i => if ch.tagged false i then acc.setTag (o + 16 * i) true else acc) w.1
      let s := { s with scratch := m }
      some (s.partialMchks (s.domainOfCore c) { kind := 2, addr := x, core := c, slot := 15, vt := (s.thread ch.issuer).vt, cycle := (s.core c).cycle } bad)
  | none =>
    (wordsOf x n).foldl (fun acc w => acc.bind (fun (s : State) =>
      let lo := max x (8 * w)
      let k := min (x + n) (8 * w + 8) - lo
      let i := (lo - x) / 16
      (s.claimLine c (lo / 64)).map (fun s =>
        let co := s.core c
        let tag := decide (x % 16 = 0) && decide (16 * i + 16 ≤ n) && ch.tagged true i
        let l := (Map.get ({} : L1Line) co.l1 (lo / 64)).store (lo % 64) k (v / 256 ^ (lo - x) % 256 ^ k) 15 (some tag)
        let l := if po / 2 ^ (lo - x) % 2 ^ k = 0 then l else l.spoil (w % 8)
        (s.setCore c { co with l1 := Map.set co.l1 (lo / 64) l }).signChunk ch.owner (lo / 64)))) (some s)

/-- The thread that runs a chunk's handler (R199, R294, Table 13-4). -/
def State.handlerThread (s : State) (c : Nat) (ch : Chunk) (h : CReg) : Thread :=
  let d := s.domainAt c
  let word := fun (v : Nat) => ({ val := BitVec.ofNat 128 v } : CReg)
  let regs : Map CReg :=
    [(2, ch.dst), (3, word ch.n), (4, word ch.off), (5, word ch.w0.toNat), (6, word ch.src.toNat),
      (7, word (ch.issuer.slot * 2 ^ 16 + ch.issuer.core))]
    ++ (List.range 8).map (fun i => (8 + i, { val := ch.bytes.extractLsb' (128 * i) 128, tag := ch.tags.getLsbD i }))
    ++ [(27, capFor (d.lwin.toNat + s.frameBase c 15) 0x400 [permL, permS, permLC, permSC])]
  { status := .running, regs := regs, pcc := h.unsealed, satn := true, domain := s.domainOfCore c }
/-- The landing thread of a core starts a handler for its oldest chunk (R289, R292, R293): handler 0, which also stores a
chunk with poison, does its work in this step; a chunk that names an untagged handler fails. -/
def State.tryHandler (s : State) (c : Nat) : Option State :=
  let co := s.core c
  if co.running.isSome || co.preempted || co.quiescing || co.contained || !(s.thread ⟨c, 15⟩).rx.isEmpty then none
  else match co.landing with
  | [] => none
  | ch :: r =>
    let bad := fun (s : State) => s.transferError c 15 ch.issuer ch.dst.addr ch.w0
    let done := fun (s : State) => (s.setCore c { s.core c with landing := r }).chunkEnd ch true
    let n := s.storable c ch
    if ch.hnd = 0 || ch.poison ≠ 0 then
      (s.landStore c ch).map (fun s => let s := done s
        if ch.poison ≠ 0 || n ≠ ch.n then bad s else s)
    else
      let h := Map.get {} co.handlers ch.hnd.toNat
      if !h.tag then some (bad (done s))
      else some ((s.setCore c { co with landing := r, running := some ch }).setThread ⟨c, 15⟩ (s.handlerThread c ch h))
/-- LRET (R91, R294): UNDEF in a general slot; the handler's `.rx` accesses land first. -/
def execLret (s : State) : Out := .next (
  if s.turn.slot = 15 then s.drained (fun s => s.handlerEnd s.turn.core false) else s.raise ⟨.undef, 0xB00001C0⟩)

/-- Whether every store that the landing threads of some cores have made is acknowledged, `.rx` stores among them (R91, R288). -/
def State.landed (s : State) (cores : List Nat) : Bool :=
  cores.all (fun c => s.released ⟨c, 15⟩ && (s.thread ⟨c, 15⟩).rx.isEmpty)
/-- The release of a completion puts landing stores on their way, core by core; none when there is nothing to put (R288). -/
def State.drainLanding (s : State) (cores : List Nat) : Option State :=
  (cores.find? (fun c => decide ((s.core c).wbq.length < 8)
    && (s.core c).l1.any (fun e => e.2.dirty != 0 && writes e.2.writers 15))).map (fun c =>
      s.setCore c ((s.core c).drain (fun e => writes e.2.writers 15)))
/-- A message reaches a barrier entry (R179). -/
def State.barrierMsg (s : State) (p : Option (Nat × Nat)) (m : BMsg) : State :=
  s.modBarrier p (fun e => { e with msgs := e.msgs ++ [m] })
/-- The completion target of a request or stream is served (R288 step 2). -/
def State.serveTarget (s : State) (t : Tid) (ck : Nat) (cc : Fin 8) (ap : BitVec 32) (n : Nat) (g : Sig) : State :=
  match ck with
  | 1 => s.countTo t cc n g
  | 2 => s.barrierMsg (s.barrierOf t) (.count ap n g false)
  | _ => s
/-- The tile that a request fills is served (R288 step 2, Table 13-1). -/
def State.serveTile (s : State) (c : Nat) (q : XReq) : State :=
  match q.dstTile with
  | none => s
  | some tl => match (s.core c).tile tl with
    | none => s
    | some t => (s.setCore c ((s.core c).setTile tl { t.fillDone with pending := t.pending - q.bytes, sig := some (t.sig.getD 0 ||| q.sig) })).tileWake c
/-- A stream completes once its closing flit has landed behind every chunk (R298). -/
def State.tryStreamEnd (s : State) (c : Nat) (p : Bool) : Option State :=
  let co := s.core c
  match (if p then co.portB else co.portA) with
  | none => none
  | some v =>
    let from_ := clusterOf c
    let dest := clusterOf v.core
    if !v.closing || v.live != 0 then none
    else if !s.landed [v.core] then s.drainLanding [v.core]
    -- neither the closing flit nor its acknowledgement passes a marker (R356)
    else if !s.behind from_ dest v.cut || !s.behind dest from_ false then none
    else
      let s := (s.logPacket from_ dest v.cut (.closing v.core c p)).logPacket dest from_ false (.closeAck c p v.got v.sig)
      let s := s.setCore c (if p then { co with portB := none } else { co with portA := none })
      some (s.serveTarget v.owner v.ck v.cc v.ap v.got v.sig)
/-- A multicast send that is complete at one of its subscribers completes to the counter of its owner there, while that runs the task that
subscribed (R297). -/
def State.tryPart (s : State) (c k : Nat) (q : XReq) : Option State :=
  let done := q.parts.filter (fun p => p.live = 0)
  match done.find? (fun p => s.landed [p.sub.owner.core]) with
  | none => s.drainLanding (done.map (fun p => p.sub.owner.core))
  | some p =>
    let s := s.setReq c k { q with parts := q.parts.erase p }
    some (if p.sub.ck = 1 && (s.thread p.sub.owner).task == p.task then s.countTo p.sub.owner p.sub.cc p.got p.sig else s)
/-- Whether a write of a request at another module or on a host page has not been acknowledged (R380, R383). -/
def State.peerWrites (s : State) (c k : Nat) : Bool :=
  let cl := s.cluster (clusterOf c)
  cl.peerReqs.any (fun q => q.engineOf == some (c, k)) || cl.hostReqs.any (fun q => q.engine == some (c, k))
/-- Request `k` of core `c` completes once its reads have ended, all its chunks have ended and their stores are acknowledged (R288), a
multicast send first at each of its subscribers (R297); keys 0 and 1 stand for the stream ports. -/
def State.tryComplete (s : State) (c k : Nat) : Option State :=
  if k = 0 then s.tryStreamEnd c false
  else if k = 1 then s.tryStreamEnd c true
  else match Map.find (s.core c).inflight k with
  | none => none
  | some q =>
    if !q.ended then none
    else if !q.parts.isEmpty then s.tryPart c k q
    else if q.live != 0 || s.peerWrites c k then none
    else if !s.landed q.lands then s.drainLanding q.lands
    else
      let s := s.serveTile c q
      let n := if q.kind = .multicast then xLen q.w3 else q.got
      let s := if q.kind = .getr then s else s.serveTarget q.issuer (xCk q.w3) (xCc q.w3) q.ap n q.sig
      some (s.setCore c { s.core c with inflight := Map.del (s.core c).inflight k })

/-- SUBJ (R296): the faults of its capability come before its statuses (DESIGN CHOICE, log entry 57). -/
def execSubj (d a b : RegNum) (s : State) : Out := .next (s.drained (fun s =>
  s.checked (checkTag (s.reg a) a.val false [permS, permN]) (fun s => s.irrevocably (fun s =>
    let w := s.word b
    let co := s.ownCore
    let ck := wfld w 11 2
    let tag : BitVec 8 := w.setWidth 8
    if wfld w 16 48 ≠ 0 || !(ck = 1 || ck = 3) then (s.writeWord d 3).finish
    else if (co.subOf tag).isSome then (s.writeWord d 2).finish
    else if 16 ≤ co.subs.length then (s.writeWord d 1).finish
    else
      let sub : Sub := { tag := tag, hnd := w.extractLsb' 8 3, ck := ck, cc := Fin.ofNat 8 (wfld w 13 3), dst := s.reg a, owner := s.turn }
      (s.setCore s.turn.core { co with subs := co.subs ++ [sub], joins := co.joins ++ [⟨tag.toNat, true, s.turn⟩] }).park (.join d)))))
/-- SUBL (R296). -/
def execSubl (d b : RegNum) (s : State) : Out := .next (s.drained (fun s => s.irrevocably (fun s =>
  let co := s.ownCore
  let tag : BitVec 8 := (s.word b).setWidth 8
  if (co.subOf tag).isNone then (s.writeWord d 1).finish
  else (s.setCore s.turn.core { co with
    subs := co.subs.filter (fun x => x.tag != tag), joins := co.joins ++ [⟨tag.toNat, false, s.turn⟩] }).park (.join d))))
/-- The root performs the oldest join or leave of core `c`, which is for `tag`, and acknowledges it: the packets of a core reach it in the order in
which they left (R24, R296, R297). -/
def State.tryJoin (s : State) (c tag : Nat) (join : Bool) : Option State :=
  let co := s.core c
  match co.joins.head?, s.domainOfCore c with
  | some j, some dk =>
    if j.join != join || j.tag != tag then none
    else
      let s := s.setCore c { co with joins := co.joins.erase j }
      let dom := s.domain dk
      let s := s.setDomain dk { dom with joined := Map.set dom.joined tag (NatSet.put (Map.get [] dom.joined tag) c join) }
      some (match (s.thread j.t).wait with
        | some (.join d) => s.as j.t (fun s => ((s.setCur { s.cur with status := .running }).writeWord d 0).finish)
        | _ => s)
  | _, _ => none

/-- SOPN (R298): a port that is closing forfeits until its stream has completed; the faults of its capability come before its statuses (DESIGN CHOICE,
log entry 57). -/
def execSopn (d a b : RegNum) (s : State) : Out := .next (s.drained (fun s =>
  let c := s.reg a
  let dom := s.domainAt s.turn.core
  let bad := (checkTag c a.val false [permS, permN]).orElse (fun _ =>
    match scratchOf dom c.addr with
    | none => some ⟨.capBnd, c.addr⟩
    | some o =>
      if scratchCore o = s.turn.core then some ⟨.capBnd, c.addr⟩
      else if !dom.holds (clusterOf (scratchCore o)) then some ⟨.capPerm, a.val⟩
      else if (s.core (scratchCore o)).contained then some ⟨.contained, c.addr⟩
      else none)
  s.checked bad (fun s => s.irrevocably (fun s =>
    let w := s.word b
    if wfld w 9 55 ≠ 0 || wfld w 4 2 = 0 then (s.writeWord d 3).finish
    else match s.ownCore.port (wbit w 0) with
    | some v => if v.closing then s.forfeit else (s.writeWord d 2).finish
    | none => s.park (.stream d c w)))))
/-- The hops of a way along a row, then along a column, from cluster `a` to cluster `b`, each as the clusters of its two routers (R296). -/
def meshHops (a b : Nat) : List (Nat × Nat) :=
  let corner := a / 32 * 32 + b % 32
  let walk := fun (x y step : Nat) =>
    let n := (if x ≤ y then y - x else x - y) / step
    (List.range n).map (fun i => if x ≤ y then (x + i * step, x + (i + 1) * step) else (x - i * step, x - (i + 1) * step))
  walk a corner 1 ++ walk corner b 32
/-- The links of the stream plane that a core's port holds: those of its route, until the closing flit has passed (R298, R299). -/
def State.portLinks (s : State) (c : Nat) (p : Bool) : List (Nat × Nat) :=
  match (s.core c).port p with
  | none => []
  | some v =>
    if v.closing && !(s.core v.core).incoming.any (fun ch => ch.owner == .stream c p) then []
    else meshHops (clusterOf c) (clusterOf v.core)
/-- Whether a route from one cluster to another finds a virtual channel for held routes on each of its links: there are two (R299). -/
def State.routeFree (s : State) (a b : Nat) : Bool :=
  let held := s.cores.flatMap (fun e => s.portLinks e.1 false ++ s.portLinks e.1 true)
  (meshHops a b).all (fun l => decide (held.count l < 2))
/-- The route that a SOPN seeks is held, once each of its links has room for it (R298, R299). -/
def State.tryRouteHeld (s : State) (t : Tid) : Option State :=
  match (s.thread t).wait with
  | some (.stream d cap w) =>
    let co := s.core t.core
    match co.port (wbit w 0), scratchOf (s.domainAt t.core) cap.addr with
    | none, some o =>
      let v : Port :=
        { dst := cap, core := scratchCore o, hnd := w.extractLsb' 1 3, ck := wfld w 4 2, cc := Fin.ofNat 8 (wfld w 6 3), owner := t }
      if !s.routeFree (clusterOf t.core) (clusterOf v.core) then none
      else some ((s.setCore t.core (co.setPort (wbit w 0) (some v))).as t (fun s => ((s.setCur { s.cur with status := .running }).writeWord d 0).finish))
    | _, _ => none
  | _ => none
/-- A SOPN gives up after 8,192 cycles (R298). -/
def State.tryRouteTimeout (s : State) (t : Tid) : Option State :=
  match (s.thread t).wait with
  | some (.stream d _ _) => some (s.as t (fun s => ((s.setCur { s.cur with status := .running }).writeWord d 1).finish))
  | _ => none
/-- How many bytes an SSND sends: the spec gives 1 to 128; another count is a free one. -/
def sendCount (n free : Nat) : Nat := if 1 ≤ n && decide (n ≤ 128) then n else 1 + free % 128
/-- SSND (R298). -/
def execSsnd (d : RegNum) (p : Bool) (a b : RegNum) (s : State) : Out := .next (s.drained (fun s =>
  match s.ownCore.port p with
  | none => s.irrevocably (fun s => (s.writeWord d 1).finish)
  | some v =>
    if v.closing then s.irrevocably (fun s => (s.writeWord d 1).finish)
    else
      let c := s.reg a
      let n := sendCount (wfld (s.word b) 0 8) (Config.freeWord s.freeCount).toNat
      let x := c.addr
      let dest := v.dst.addr + v.off
      let bad := (checkExtent c a.val x n [permL]).orElse (fun _ =>
        if v.dst.inBounds dest n then none else some ⟨.capBnd, max dest v.dst.top⟩)
      s.checked bad (fun s => s.irrevocably (fun s =>
        match s.blockRead x n a (c.has permD) with
        | .error s => s
        | .ok (_, _, some w, s) => s.raise ⟨.poison, w⟩
        | .ok (val, tags, none, s) =>
          let g5 := Config.freeWord (s.freeCount + 1)
          let s := s.bumpFree.bumpFree
          let mask := tags.zipIdx.foldl (fun acc e => acc + e.1.toNat * 2 ^ e.2) 0
          let ch : Chunk :=
            { owner := .stream s.turn.core p, hnd := v.hnd, dst := v.dst.movedTo (dest % 2 ^ 64), dstTile := none, n := n, off := v.off
              w0 := g5, src := wordOf x, issuer := s.turn, bytes := BitVec.ofNat 1024 val, via := s.turn.core
              tags := if c.has permLC && decide (x % 16 = 0) && decide (dest % 16 = 0) then BitVec.ofNat 8 (mask % 2 ^ (n / 16)) else 0, poison := 0 }
          let s := s.setCore s.turn.core (s.ownCore.setPort p (some { v with off := v.off + n, w0 := g5 }))
          ((s.sendChunk v.core ch).writeWord d 0).finish))))
/-- SCLS (R298). -/
def execScls (d : RegNum) (p : Bool) (s : State) : Out := .next (s.drained (fun s => s.irrevocably (fun s =>
  match s.ownCore.port p with
  | none => (s.writeWord d 1).finish
  | some v =>
    if v.closing then (s.writeWord d 1).finish
    else s.phased v.ck (fun s =>
      ((s.setCore s.turn.core (s.ownCore.setPort p (some { v with closing := true, ap := s.cur.ap }))).writeWord d 0).finish))))

/-- What an event leaves: the state its operation gives, once nothing that the device itself reads or writes in it is the host's (log entry 55),
or the same state when it is not enabled. -/
def State.event (s : State) (r : Option State) : Out := .next ((r.map s.settled).getD s)
/-- TRANSFER_START (R287). -/
def execTransferStart (s : State) : Out := s.event (s.tryStart s.ev.core)
/-- TRANSFER_SOURCE_READ (R287). -/
def execTransferSourceRead (s : State) : Out := s.event ((s.trySource s.ev.core s.ev.k).map State.settleAts)
/-- CHUNK_ARRIVAL (R293). -/
def execChunkArrival (s : State) : Out := s.event (s.tryArrive s.ev.core s.ev.k)
/-- CHUNK_REDELIVERY (R293). -/
def execChunkRedelivery (s : State) : Out := s.event (s.tryRedeliver s.ev.core)
/-- LANDING_HANDLER_START (R293). -/
def execLandingHandlerStart (s : State) : Out := s.event (s.tryHandler s.ev.core)
/-- HANDLER_TIMEOUT (R294): the handler ends in error (R289). -/
def execHandlerTimeout (s : State) : Out := .next (s.handlerEnd s.ev.core true)
/-- TRANSFER_COMPLETION (R288). -/
def execTransferCompletion (s : State) : Out := s.event (s.tryComplete s.ev.core s.ev.k)
/-- MULTICAST_JOIN (R296). -/
def execMulticastJoin (s : State) : Out := s.event (s.tryJoin s.ev.core s.ev.tag s.ev.join)
/-- MULTICAST_SEND (R297). -/
def execMulticastSend (s : State) : Out := s.event (s.tryMulticast s.ev.core s.ev.k)
/-- STREAM_ROUTE_HELD (R298). -/
def execStreamRouteHeld (s : State) : Out := s.event (s.tryRouteHeld s.ev.t)
/-- STREAM_ROUTE_TIMEOUT (R298). -/
def execStreamRouteTimeout (s : State) : Out := s.event (s.tryRouteTimeout s.ev.t)

end Sys2Proof.Machine
end

