-- ==== Sys2Proof/Machine/Gangs.lean ====
section
/-!
DEFINITION. Gang and neighbour instructions (majors 0x19 and 0x1A, R181 to R192) and their events.
-/
namespace Sys2Proof.Machine

/-- An instruction of major 0x19 but GRANK: it drains, is irrevocable, meets a broken gang, and needs a barrier entry. -/
def State.gangOp (s : State) (k : Nat × Nat → State → State) : State :=
  s.drained (fun s => s.irrevocably (fun s => s.unbroken (fun s => s.withBarrier k)))
/-- GWAIT's part once its phase is complete in the thread's view (R183): acquire, then the result. -/
def State.observe (s : State) (d : RegNum) (p : Nat × Nat) : State :=
  let h := s.cur
  if h.lv + 1 ≠ h.ap then s.park (.gwait d)
  else
    let b := Map.get { width := 1, live := [] } (s.cluster p.1).bars p.2
    let s := if h.lv = 0 then s else s.acquire .cluster (some b.lsig) b.lsat
    (s.writeWord d (wordOf (h.lv.toNat + b.late.toNat * 2 ^ 32 + b.ovr.toNat * 2 ^ 33))).finish
/-- GARR and GSYNC (R182, R183): ACCABS before any step, the arrival, then `k`, given the phase arrived at. -/
def State.arrive (s : State) (d : RegNum) (sync : Bool) (k : BitVec 32 → Nat × Nat → State → State) : State :=
  s.noRefused (fun s => (s.setCur { s.cur with past := true }).gangOp (fun p s =>
    if s.cur.lv + 1 ≠ s.cur.ap then s.park (.garr d sync)
    else s.release .cluster .arrive (fun s =>
      let h := s.cur
      let s := s.modBarrier (some p) (fun b => { b with msgs := b.msgs ++ [.arrive h.ap (h.own ||| h.inh) h.isat] })
      k h.ap p (s.setCur { s.cur.clearSig with ap := h.ap + 1 }))))
/-- GARR (R182). -/
def execGarr (d : RegNum) (s : State) : Out := .next (s.arrive d false (fun ap _ s => (s.writeWord d (ap.setWidth 64)).finish))
/-- GSYNC (R183). -/
def execGsync (d : RegNum) (s : State) : Out := .next (s.arrive d true (fun _ p s => s.observe d p))
/-- GWAIT (R183). -/
def execGwait (d : RegNum) (s : State) : Out := .next (s.gangOp (fun p s => s.observe d p))
/-- GEXP (R184). -/
def execGexp (a : RegNum) (s : State) : Out := .next (s.gangOp (fun p s =>
  (s.modBarrier (some p) (fun b => { b with msgs := b.msgs ++ [.expect s.cur.ap ((s.word a).setWidth 48)] })).finish))
/-- The gang threads on a core (Table 8-3). -/
def State.mates (s : State) (t : Tid) : List Tid :=
  ((List.range 15).map (fun i => (⟨t.core, i⟩ : Tid))).filter (fun u => (s.thread u).live && (s.thread u).task == (s.thread t).task)
/-- The value of a GRANK selector (Table 8-3). -/
def State.gangValue (s : State) (sel : Fin 5) : Nat :=
  let h := s.cur
  let t := s.turn
  match sel with
  | 0 => h.grnk.toNat
  | 1 => h.gsiz.toNat
  | 2 => t.core % 64 + t.slot * 2 ^ 8 + clusterOf t.core * 2 ^ 12
  | 3 => (s.mates t).length + ((s.mates t).foldl (fun a u => min a (s.thread u).grnk.toNat) 1023) * 2 ^ 16
  | 4 => h.ap.toNat + h.lv.toNat * 2 ^ 32
/-- GRANK (R185). -/
def execGrank (d : RegNum) (sel : Fin 5) (s : State) : Out := .next (s.drained (fun s => s.irrevocably (fun s => s.unbroken (fun s =>
  (s.writeWord d (wordOf (s.gangValue sel))).finish))))

/-- The neighbour of a core in a direction, absent at the edge of the package (R12, R188). -/
def neighbour (c : Nat) (dir : Dir) : Option Nat :=
  let x := coreCol c
  let y := coreRow c
  let at_ := fun (x y : Nat) => (y / 8 * 32 + x / 8) * 64 + y % 8 * 8 + x % 8
  match dir with
  | .e => if x = 255 then none else some (at_ (x + 1) y)
  | .w => if x = 0 then none else some (at_ (x - 1) y)
  | .s => if y = 255 then none else some (at_ x (y + 1))
  | .n => if y = 0 then none else some (at_ x (y - 1))
/-- The slot whose thread a put to slot `i` of a core names: a redundant pair is named by either of its slots (R188). -/
def State.putSlot (s : State) (c i : Nat) : Nat := if (s.thread ⟨c, i⟩).trail.isSome then i - 7 else i
/-- RPUT (R188): the status tells whether the slot holds a thread of the issuer's gang; a put then goes on its way. -/
def execRput (d a t : RegNum) (slot : Fin 15) (dir : Dir) (s : State) : Out := .next (s.irrevocably (fun s => s.unbroken (fun s =>
  match neighbour s.turn.core dir with
  | none => (s.writeWord d 1).finish
  | some c =>
    if (s.core c).contained then s.raise ⟨.contained, c⟩
    else
      let i := s.putSlot c slot.val
      let h := s.thread ⟨c, i⟩
      if h.live && h.task == s.cur.task && h.task.isSome then
        let s := s.setCore c { s.core c with puts := (s.core c).puts ++ [⟨i, t, s.reg a, s.turn.core, false⟩] }
        (s.writeWord d 0).finish
      else (s.writeWord d 1).finish)))
/-- Clear presence bits (R189); g0's stays set. -/
def Thread.clearPresence (h : Thread) (mask : BitVec 32) : Thread := { h with absent := h.absent ||| (mask &&& ~~~1) }
/-- RTAKE (R189). -/
def execRtake (d : RegNum) (s : State) : Out := .next (s.irrevocably (fun s => s.unbroken (fun s =>
  if s.cur.absent.getLsbD d.val then s.park (.rtake d)
  else (s.setCur (s.cur.clearPresence ((1 : BitVec 32) <<< d.val))).finish)))
/-- RPRES (R189); in a broken gang it takes CONTAINED (R192; log entry 51). -/
def execRpres (d a : RegNum) (s : State) : Out := .next (s.irrevocably (fun s => s.unbroken (fun s =>
  let p := s.cur.presence
  let mask := (s.word a).setWidth 32
  let s := s.writeWord d (p.setWidth 64)
  (s.setCur (s.cur.clearPresence mask)).finish)))
/-- A thread that waits in RTAKE for the presence of its register goes on once that is set (R189). -/
def State.takePresent (s : State) (t : Tid) : State :=
  match (s.thread t).wait with
  | some (.rtake d) =>
    if (s.thread t).absent.getLsbD d.val then s
    else s.as t (fun s => (s.setCur { s.cur.clearPresence ((1 : BitVec 32) <<< d.val) with status := .running }).finish)
  | _ => s
/-- A put is applied to its register, in both threads of a redundant pair (R188). -/
def State.applyPut (s : State) (c : Nat) (p : NPut) : State :=
  let t : Tid := ⟨c, p.slot⟩
  let h := s.thread t
  if !h.live then s
  else
    let s := s.setThread t (h.setReg p.t p.v)
    let u : Tid := ⟨c, p.slot + 7⟩
    let s := if h.dup && (s.thread u).trail.isSome then s.setThread u ((s.thread u).setReg p.t p.v) else s
    s.takePresent t
/-- The oldest put on its way to a core is delivered (R188), or diverted while the core is pre-empted (R190, R339). -/
def State.tryPut (s : State) (c : Nat) : Option State :=
  let co := s.core c
  match co.puts with
  | [] => none
  | p :: r =>
    let s0 := (s.setCore c { co with puts := r }).logPacket (clusterOf p.src) (clusterOf c) p.cut (.put c p)
    if !s.behind (clusterOf p.src) (clusterOf c) p.cut then none
    else if co.preempted || co.resuming then
      s0.divert c (.put p)
    else some (s0.applyPut c p)

/-- The leader's post reaches a thread parked at its ELECT (R186): it writes the posted value to the d of its own governed word
and continues past both words. -/
def State.tryElectPost (s : State) (t : Tid) : Option State :=
  let h := s.thread t
  match h.wait, s.barrierOf t with
  | some .elect, some p =>
    match (Map.find (s.cluster p.1).bars p.2).bind (fun b => b.post) with
    | some q =>
      if q.inst = h.electCount && q.left.contains t then
        let h := match q.v with
          | some v => h.setReg h.electReg v
          | none => h
        let s := s.setThread t ({ h with status := .running, electCount := h.electCount + 1 }.setPc (h.pc + 8))
        some ((s.modBarrier (some p) (fun b => { b with post := some { q with left := q.left.filter (fun u => u != t) } })).electGoOn p none)
      else none
    | none => none
  | _, _ => none

/-- BARRIER_CYCLE (R178). -/
def execBarrierCycle (s : State) : Out := s.event (s.tryBarrier s.ev.cluster s.ev.entry)
/-- BARRIER_WAKE (R180). -/
def execBarrierWake (s : State) : Out := s.event (s.tryBarrierWake s.ev.cluster s.ev.entry)
/-- ELECT_POST_ARRIVAL (R186). -/
def execElectPostArrival (s : State) : Out := s.event (s.tryElectPost s.ev.t)
/-- RPUT_DELIVERY (R188). -/
def execRputDelivery (s : State) : Out := s.event (s.tryPut s.ev.core)

end Sys2Proof.Machine
end

