-- ==== Sys2Proof/Machine/Regs.lean ====
section
/-!
DEFINITION. The registers that an instruction names: what it reads, what it writes (R27, R38, R39), and which of its fields a
repeat frame steps (R230).
-/
namespace Sys2Proof

/-- The registers an instruction reads and those it writes. An instruction that is not listed names none; RTAKE waits for a
presence bit and does neither, and the register of RPUT's target thread is not the issuer's. -/
def Instr.regs : Instr → List RegNum × List RegNum
  | .add d a b => ([a, b], [d])
  | .sub d a b => ([a, b], [d])
  | .mul d a b => ([a, b], [d])
  | .mulh d a b => ([a, b], [d])
  | .mulhn d a b => ([a, b], [d])
  | .div d a b => ([a, b], [d])
  | .divn d a b => ([a, b], [d])
  | .rem d a b => ([a, b], [d])
  | .remn d a b => ([a, b], [d])
  | .and d a b => ([a, b], [d])
  | .or d a b => ([a, b], [d])
  | .xor d a b => ([a, b], [d])
  | .andn d a b => ([a, b], [d])
  | .shl d a b => ([a, b], [d])
  | .shr d a b => ([a, b], [d])
  | .sha d a b => ([a, b], [d])
  | .rotr d a b => ([a, b], [d])
  | .clz d a => ([a], [d])
  | .ctz d a => ([a], [d])
  | .popc d a => ([a], [d])
  | .min d a b => ([a, b], [d])
  | .max d a b => ([a, b], [d])
  | .minn d a b => ([a, b], [d])
  | .maxn d a b => ([a, b], [d])
  | .seq d a b => ([a, b], [d])
  | .sne d a b => ([a, b], [d])
  | .slt d a b => ([a, b], [d])
  | .sltn d a b => ([a, b], [d])
  | .sle d a b => ([a, b], [d])
  | .slen d a b => ([a, b], [d])
  | .sel d a b c => ([a, b, c], [d])
  | .extb d a b => ([a, b], [d])
  | .extbn d a b => ([a, b], [d])
  | .insb d a b => ([d, a, b], [d])
  | .addi d a _ => ([a], [d])
  | .andi d a _ => ([a], [d])
  | .ori d a _ => ([a], [d])
  | .xori d a _ => ([a], [d])
  | .slti d a _ => ([a], [d])
  | .shli d a _ => ([a], [d])
  | .shri d a _ => ([a], [d])
  | .shai d a _ => ([a], [d])
  | .lih d _ => ([], [d])
  | .lihh d _ => ([], [d])
  | .cgadr d a => ([a], [d])
  | .csadr d a b => ([a, b], [d])
  | .cinc d a b => ([a, b], [d])
  | .cbnd d a b => ([a, b], [d])
  | .cbndx d a b => ([a, b], [d])
  | .candp d a b => ([a, b], [d])
  | .cseal d a b => ([a, b], [d])
  | .cunsl d a b => ([a, b], [d])
  | .cgbas d a => ([a], [d])
  | .cglen d a => ([a], [d])
  | .cgprm d a => ([a], [d])
  | .cgtyp d a => ([a], [d])
  | .cgtag d a => ([a], [d])
  | .cclrt d a => ([a], [d])
  | .cmov d a => ([a], [d])
  | .csub d a b => ([a, b], [d])
  | .ctsub d a b => ([a, b], [d])
  | .cjr a => ([a], [])
  | .cjlr d a => ([a], [d])
  | .csent d a => ([a], [d])
  | .cinci d a _ => ([a], [d])
  | .beq a b _ => ([a, b], [])
  | .bne a b _ => ([a, b], [])
  | .blt a b _ => ([a, b], [])
  | .bge a b _ => ([a, b], [])
  | .bltn a b _ => ([a, b], [])
  | .bgen a b _ => ([a, b], [])
  | .bez a _ => ([a], [])
  | .bnz a _ => ([a], [])
  | .blz a _ => ([a], [])
  | .bgz a _ => ([a], [])
  | .blez a _ => ([a], [])
  | .bgez a _ => ([a], [])
  | .jl _ => ([], [31])
  | .jr a => ([a], [])
  | .jlr d a => ([a], [d])
  | .ldS8 d base _ _ => ([base], [d])
  | .ldS16 d base _ _ => ([base], [d])
  | .ldS32 d base _ _ => ([base], [d])
  | .ldS64 d base _ _ => ([base], [d])
  | .ldN8 d base _ _ => ([base], [d])
  | .ldN16 d base _ _ => ([base], [d])
  | .ldN32 d base _ _ => ([base], [d])
  | .ldQ128 d base _ _ => ([base], [d])
  | .st8 d base _ _ => ([d, base], [])
  | .st16 d base _ _ => ([d, base], [])
  | .st32 d base _ _ => ([d, base], [])
  | .st64 d base _ _ => ([d, base], [])
  | .stQ128 d base _ _ => ([d, base], [])
  | .ldc d base _ => ([base], [d])
  | .stc d base _ => ([d, base], [])
  | .lde d base _ => ([base], [d])
  | .ldf d base _ => ([base], [d])
  | .stf d base _ => ([d, base], [])
  | .stx d base _ => ([d, base], [])
  | .fec d base _ => ([base], [d])
  | .feq d base _ => ([base], [d])
  | .aadd d a b _ _ _ => ([a, b], [d])
  | .aand d a b _ _ _ => ([a, b], [d])
  | .aor d a b _ _ _ => ([a, b], [d])
  | .axor d a b _ _ _ => ([a, b], [d])
  | .amin d a b _ _ _ => ([a, b], [d])
  | .amax d a b _ _ _ => ([a, b], [d])
  | .aminn d a b _ _ _ => ([a, b], [d])
  | .amaxn d a b _ _ _ => ([a, b], [d])
  | .aswp d a b _ _ _ => ([a, b], [d])
  | .acas d a b _ _ _ => ([a, b], [d])
  | .afadd d a b _ _ => ([a, b], [d])
  | .strel d a _ => ([d, a], [])
  | .ldacq d a _ => ([a], [d])
  | .sigrst a _ => ([a], [])
  | .sigmrg d a _ => ([a], [d])
  | .pref a b => ([a, b], [])
  | .cflu a b => ([a, b], [])
  | .cinv a b => ([a, b], [])
  | .disc a b => ([a, b], [])
  | .llck d a b => ([a, b], [d])
  | .lulk d a b => ([a, b], [d])
  | .tenq d a b => ([a, b], [d])
  | .tenqw d a b => ([a, b], [d])
  | .tabt a => ([a], [])
  | .tvt d _ => ([], [d])
  | .csig d a b => ([a, b], [d])
  | .garr d => ([], [d])
  | .gwait d => ([], [d])
  | .gsync d => ([], [d])
  | .gexp a => ([a], [])
  | .grank d _ => ([], [d])
  | .rput d a _ _ _ => ([a], [d])
  | .rpres d a => ([a], [d])
  | .vadd d a b _ _ => ([a, b], [d])
  | .vsub d a b _ _ => ([a, b], [d])
  | .vmul d a b _ _ => ([a, b], [d])
  | .vfma d a b c _ => ([a, b, c], [d])
  | .vfms d a b c _ => ([a, b, c], [d])
  | .vdot d a b c _ => ([a, b, c], [d])
  | .vmin d a b _ _ => ([a, b], [d])
  | .vmax d a b _ _ => ([a, b], [d])
  | .vabs d a _ _ => ([a], [d])
  | .vneg d a _ _ => ([a], [d])
  | .vdiv d a b _ => ([a, b], [d])
  | .vrsq d a _ => ([a], [d])
  | .vreda d a b _ _ => ([a, b], [d])
  | .vredm d a b _ _ => ([a, b], [d])
  | .vcmp d a b _ _ _ => ([a, b], [d])
  | .vand d a b => ([a, b], [d])
  | .vor d a b => ([a, b], [d])
  | .vxor d a b => ([a, b], [d])
  | .vsel d a b c => ([a, b, c], [d])
  | .vperm d a b c => ([a, b, c], [d])
  | .vshl d a b _ => ([a, b], [d])
  | .vshr d a b _ => ([a, b], [d])
  | .vsha d a b _ => ([a, b], [d])
  | .vsplt d a _ _ => ([a], [d])
  | .vins d a _ _ => ([d, a], [d])
  | .vextSigned d a _ _ => ([a], [d])
  | .vextNatural d a _ _ => ([a], [d])
  | .vcvt d a _ _ => ([a], [d])
  | .vdec d a _ _ _ => ([a], [d])
  | .venc d a _ _ _ => ([a], [d])
  | .vscl d a b _ => ([a, b], [d])
  | .vsclE8m0 d a b _ => ([a, b], [d])
  | .vsclSca d a _ => ([a], [d])
  | .vsclScb d a _ => ([a], [d])
  | .fcls d a _ => ([a], [d])
  | .tbld d a _ => ([a], [d])
  | .tbcf d _ _ => ([], [d])
  | .tbcfQuery d _ => ([], [d])
  | .mldb a b => ([a, b], [])
  | .mgeo d a => ([a], [d])
  | .manc d a => ([a], [d])
  | .mmv _ a _ _ => ([a], [])
  | .mmvs _ a _ _ => ([a], [])
  | .mcmd d a b => ([a, b], [d])
  | .msta d _ _ => ([], [d])
  | .achn d a b _ => ([a, b], [d])
  | .asnd _ _ a b _ => ([a, b], [])
  | .adrn d a => ([a], [d])
  | .adrnNw d a => ([a], [d])
  | .acls d a => ([a], [d])
  | .arsn d => ([], [d])
  | .arsnNw d => ([], [d])
  | .arsnDrop d => ([], [d])
  | .astaOutbox d => ([], [d])
  | .astaChain d a => ([a], [d])
  | .xfer d a b e => ([a, b, e], [d])
  | .xferb d a b e => ([a, b, e], [d])
  | .getx d a b e => ([a, b, e], [d])
  | .putx d a b e => ([a, b, e], [d])
  | .cwait d _ a => ([a], [d])
  | .crd d _ _ => ([], [d])
  | .lhnd a _ => ([a], [])
  | .tldef _ a b _ => ([a, b], [])
  | .tlstQuery d _ => ([], [d])
  | .tlstReady d _ => ([], [d])
  | .tlstEmpty d _ => ([], [d])
  | .caml d _ b => ([b], [d])
  | .camp d _ _ b => ([b], [d])
  | .camc d a => ([a], [d])
  | .getr d a b e => ([a, b, e], [d])
  | .spcf d a => ([a], [d])
  | .subj d a b => ([a, b], [d])
  | .subl d b => ([b], [d])
  | .sopn d a b => ([a, b], [d])
  | .ssnd d _ a b => ([a, b], [d])
  | .scls d _ => ([], [d])
  | .trap a _ => ([a], [])
  | .prmt d a => ([a], [d])
  | .rsum d a => ([a], [d])
  | .tlbiPg a _ => ([a], [])
  | .tlbiWake a => ([a], [])
  | .pmig d a _ => ([a], [d])
  | .halt d => ([], [d])
  | .cntnContain d a => ([a], [d])
  | .cntnRelease d a => ([a], [d])
  | .cntnQuery d a => ([a], [d])
  | .dupc d a => ([a], [d])
  | .dupcClear d a => ([a], [d])
  | .csrr d _ => ([], [d])
  | .csrw d _ a => ([a], [d])
  | .csrs d _ a => ([a], [d])
  | .csrc d _ a => ([a], [d])
  | .snap d a _ => ([a], [d])
  | .snpw d a => ([a], [d])
  | .snpq d a => ([a], [d])
  | .rbck d a => ([a], [d])
  | _ => ([], [])
/-- Every register that an instruction reads or writes. -/
def Instr.names (i : Instr) : List RegNum := i.regs.1 ++ i.regs.2

/-- The lowest bits of the register fields of a word that a repeat frame may hold (R230): d at 21, a at 16, b at 11, c at 6. -/
def Instr.stepped : Instr → List Nat
  | .vadd _ _ _ _ _ => [21, 16, 11]
  | .vsub _ _ _ _ _ => [21, 16, 11]
  | .vmul _ _ _ _ _ => [21, 16, 11]
  | .vfma _ _ _ _ _ => [21, 16, 11, 6]
  | .vfms _ _ _ _ _ => [21, 16, 11, 6]
  | .vdot _ _ _ _ _ => [21, 16, 11, 6]
  | .vmin _ _ _ _ _ => [21, 16, 11]
  | .vmax _ _ _ _ _ => [21, 16, 11]
  | .vabs _ _ _ _ => [21, 16]
  | .vneg _ _ _ _ => [21, 16]
  | .vdiv _ _ _ _ => [21, 16, 11]
  | .vrsq _ _ _ => [21, 16]
  | .vreda _ _ _ _ _ => [21, 16, 11]
  | .vredm _ _ _ _ _ => [21, 16, 11]
  | .vcmp _ _ _ _ _ _ => [21, 16, 11]
  | .vand _ _ _ => [21, 16, 11]
  | .vor _ _ _ => [21, 16, 11]
  | .vxor _ _ _ => [21, 16, 11]
  | .vsel _ _ _ _ => [21, 16, 11, 6]
  | .vperm _ _ _ _ => [21, 16, 11, 6]
  | .vshl _ _ _ _ => [21, 16, 11]
  | .vshr _ _ _ _ => [21, 16, 11]
  | .vsha _ _ _ _ => [21, 16, 11]
  | .vsplt _ _ _ _ => [21, 16]
  | .vins _ _ _ _ => [21, 16]
  | .vextSigned _ _ _ _ => [21, 16]
  | .vextNatural _ _ _ _ => [21, 16]
  | .vcvt _ _ _ _ => [21, 16]
  | .vdec _ _ _ _ _ => [21, 16]
  | .venc _ _ _ _ _ => [21, 16]
  | .vscl _ _ _ _ => [21, 16, 11]
  | .vsclE8m0 _ _ _ _ => [21, 16, 11]
  | .vsclSca _ _ _ => [21, 16]
  | .vsclScb _ _ _ => [21, 16]
  | .fcls _ _ _ => [21, 16]
  | .mldb _ _ => [16, 11]
  | .mgeo _ _ => [21, 16]
  | .manc _ _ => [21, 16]
  | .mmv _ _ _ _ => [16]
  | .mmvs _ _ _ _ => [16]
  | .mcmd _ _ _ => [21, 16, 11]
  | .msta _ _ _ => [21]
  | .achn _ _ _ _ => [21, 16, 11]
  | .asnd _ _ _ _ _ => [16, 11]
  | .adrn _ _ => [21, 16]
  | .adrnNw _ _ => [21, 16]
  | .acls _ _ => [21, 16]
  | .arsn _ => [21]
  | .arsnNw _ => [21]
  | .arsnDrop _ => [21]
  | .astaOutbox _ => [21]
  | .astaChain _ _ => [21, 16]
  | _ => []
/-- Field `lo` of a word stepped by `k` registers, modulo 32 (R30). -/
def stepField (w lo : Nat) (k : Int) : Nat :=
  let f := fld w lo 5
  w - f * 2 ^ lo + (((f : Int) + k).emod 32).toNat * 2 ^ lo
/-- The step of the field at bit `lo`, among those of d, a, b and c. -/
def stepAt (steps : List Int) (lo : Nat) : Int := (steps[(21 - lo) / 5]?).getD 0
/-- A body word as replay `i` issues it (R230). -/
def stepWord (w : Nat) (steps : List Int) (i : Nat) : Nat :=
  match decode w with
  | .undef => w
  | .rsvd => w
  | .instr q => q.stepped.foldl (fun acc lo => stepField acc lo (i * stepAt steps lo)) w

end Sys2Proof
end

