-- ==== Sys2Proof/Machine/Repeat.lean ====
section
/-!
DEFINITION. The prefixes: RPT with the repeat sequencer (R28 to R30, R229 to R233), and ELECT (R31, R186).
-/
namespace Sys2Proof.Machine

/-- Whether RPT admits a body word (R30). -/
def bodyWord (w : Nat) : Bool := [0x20, 0x21, 0x22, 0x28, 0x29].contains (w / 2 ^ 26)
/-- Whether a word makes its frame bound (R233). -/
def boundWord (w : BitVec 32) : Bool := w.toNat / 2 ^ 26 == 0x28 || w.toNat / 2 ^ 26 == 0x29
/-- Whether an instruction raises RSVD for the code in a format register (R201). -/
def Instr.formatBad (h : Thread) : Instr → Bool
  | .mldb _ _ => !fmtInOk h.fmtb
  | .mldbTile _ => !fmtInOk h.fmtb
  | .mmv _ _ _ _ => !fmtInOk h.fmta
  | .mmvs _ _ _ _ => !fmtInOk h.fmta
  | .mrd _ _ _ _ => !fmtOutOk h.fmto
  | _ => false
/-- The fault that a word raises at decode for a thread (R36 steps 2 and 3); none for an instruction. -/
def decodeFault (h : Thread) (w : Nat) : Option TrapVal :=
  match decode w with
  | .undef => some ⟨.undef, w⟩
  | .rsvd => some ⟨.rsvd, w⟩
  | .instr i => if Instr.formatBad h i then some ⟨.rsvd, w⟩ else none
/-- The `l` words that follow an RPT, captured through PCC (R230): else the thread has parked on a miss, or the RPT has raised. They are fetched and
decoded in turn, so that the first faulty word decides (log entry 51). -/
def State.capture (s : State) (l : Nat) : Except State (List (BitVec 32)) :=
  (List.range l).foldl (fun acc i =>
    match acc with
    | .error e => .error e
    | .ok ws =>
      match s.fetchAt s.turn.core (s.cur.pcc.withAddr ((s.cur.pc + 4 * (i + 1)) % 2 ^ 64)) with
      | .trap e => .error (s.raise e)
      | .miss y => .error (s.forfeit.park (.fetch y))
      | .word w =>
        if !bodyWord w then .error (s.raise ⟨.undef, w⟩)
        else match decodeFault s.cur w with
          | some e => .error (s.raise e)
          | none => .ok (ws ++ [BitVec.ofNat 32 w])) (.ok [])
/-- What replay `i` of a body word says of its registers, for a word that is an instruction. -/
def regsAt (f : Instr → List RegNum) (steps : List Int) (w : BitVec 32) (i : Nat) : List RegNum :=
  match decode (stepWord w.toNat steps i) with
  | .instr q => f q
  | .undef => []
  | .rsvd => []
/-- The registers that replay `i` of a body word names. -/
def namesAt (steps : List Int) (w : BitVec 32) (i : Nat) : List RegNum := regsAt Instr.names steps w i
/-- The registers that replay `i` of a body word reads. -/
def readsAt (steps : List Int) (w : BitVec 32) (i : Nat) : List RegNum := regsAt (fun q => q.regs.1) steps w i
/-- The word of a frame at a replay and index, with its registers stepped (R230). -/
def Frame.wordAt (f : Frame) (p : Nat × Nat) : Nat := ((f.words[p.2]?).map (fun w => stepWord w.toNat f.steps p.1)).getD 0
/-- The instruction of a frame at a replay and index. -/
def Frame.instrAt (f : Frame) (p : Nat × Nat) : Option Instr :=
  match decode (f.wordAt p) with
  | .instr i => some i
  | .undef => none
  | .rsvd => none
/-- What the word of a frame at a replay and index says of its registers. -/
def Frame.regsOf (f : Frame) (g : Instr → List RegNum) (p : Nat × Nat) : List RegNum :=
  ((f.words[p.2]?).map (fun w => regsAt g f.steps w p.1)).getD []
/-- The footprint of a frame: the registers that its words not yet completed name (R232). -/
def Frame.footprint (f : Frame) : List RegNum :=
  (List.range f.count).flatMap (fun i =>
    if i < f.replay then []
    else (f.words.drop (if i = f.replay then f.word else 0)).flatMap (fun w => namesAt f.steps w i))
  ++ (f.writes.map (fun w => w.pos) ++ f.late.toList ++ f.polled).flatMap (f.regsOf Instr.names)
/-- RPT (R230, R233): the body is captured and the frame begins; the thread goes on past the body, or parks while a bound frame
runs. A register that a replay would read and whose poison is pending is reported here (log entry 23). -/
def execRpt (l : Fin 16) (n : Fin 128) (sd sa sb sc : BitVec 3) (s : State) : Out := .next (
  match s.capture (l.val + 1) with
  | .error s => s
  | .ok ws =>
    let f : Frame :=
      { words := ws, steps := [sd.toInt, sa.toInt, sb.toInt, sc.toInt], count := n.val + 1, replay := 0, word := 0
        rmode := s.cur.rmode, satn := s.cur.satn, rptPc := s.cur.pcc, active := true, bound := ws.any boundWord }
    let go := fun (s : State) =>
      let h := (s.cur.setPc (s.cur.pc + 4 * (ws.length + 1)))
      s.setCur { h with frame := some f, status := if f.bound then .parked .frame else .running }
    let reads := (List.range f.count).flatMap (fun i => ws.flatMap (fun w => readsAt f.steps w i))
    match s.cur.poisonPend.find? (fun e => reads.any (fun r => r.val == e.1)) with
    | some (r, a) => (s.setCur { s.cur with poisonPend := Map.del s.cur.poisonPend r }).raise a
    | none => if f.bound then s.irrevocably go else go s)

/-- The meaning of a word that a repeat frame replays. Capture admits no other word (R30). -/
def State.replayed (s : State) : Instr → Out
  | .vadd d a b t mode => execVadd d a b t mode s
  | .vsub d a b t mode => execVsub d a b t mode s
  | .vmul d a b t mode => execVmul d a b t mode s
  | .vfma d a b c t => execVfma d a b c t s
  | .vfms d a b c t => execVfms d a b c t s
  | .vdot d a b c t => execVdot d a b c t s
  | .vmin d a b t nat => execVmin d a b t nat s
  | .vmax d a b t nat => execVmax d a b t nat s
  | .vabs d a t nat => execVabs d a t nat s
  | .vneg d a t nat => execVneg d a t nat s
  | .vdiv d a b t => execVdiv d a b t s
  | .vrsq d a t => execVrsq d a t s
  | .vreda d a b t nat => execVreda d a b t nat s
  | .vredm d a b t nat => execVredm d a b t nat s
  | .vcmp d a b t p nat => execVcmp d a b t p nat s
  | .vand d a b => execVand d a b s
  | .vor d a b => execVor d a b s
  | .vxor d a b => execVxor d a b s
  | .vsel d a b c => execVsel d a b c s
  | .vperm d a b c => execVperm d a b c s
  | .vshl d a b t => execVshl d a b t s
  | .vshr d a b t => execVshr d a b t s
  | .vsha d a b t => execVsha d a b t s
  | .vsplt d a t lane => execVsplt d a t lane s
  | .vins d a t lane => execVins d a t lane s
  | .vextSigned d a t lane => execVextSigned d a t lane s
  | .vextNatural d a t lane => execVextNatural d a t lane s
  | .vcvt d a dt st => execVcvt d a dt st s
  | .vdec d a t tbl four => execVdec d a t tbl four s
  | .venc d a t tbl four => execVenc d a t tbl four s
  | .vscl d a b t => execVscl d a b t s
  | .vsclE8m0 d a b t => execVsclE8m0 d a b t s
  | .vsclSca d a t => execVsclSca d a t s
  | .vsclScb d a t => execVsclScb d a t s
  | .fcls d a t => execFcls d a t s
  | .mldb a b => execMldb a b s
  | .mldbTile tl => execMldbTile tl s
  | .mgeo d a => execMgeo d a s
  | .manc d a => execManc d a s
  | .mmv f a m tl => execMmv f a m tl s
  | .mmvs f a m tl => execMmvs f a m tl s
  | .mrd tl f n clr => execMrd tl f n clr s
  | .mclr f n => execMclr f n s
  | .mcmd d a b => execMcmd d a b s
  | .msta d f lane => execMsta d f lane s
  | .msync  => execMsync s
  | .achn d a b clr => execAchn d a b clr s
  | .asnd f n a b clr => execAsnd f n a b clr s
  | .adrn d a => execAdrn d a s
  | .adrnNw d a => execAdrnNw d a s
  | .acls d a => execAcls d a s
  | .arsn d => execArsn d s
  | .arsnNw d => execArsnNw d s
  | .arsnDrop d => execArsnDrop d s
  | .astaOutbox d => execAstaOutbox d s
  | .astaChain d a => execAstaChain d a s
  | _ => .next s
/-- Whether ELECT may govern a word (R31). -/
def electable (w : Nat) : Bool :=
  let m := w / 2 ^ 26
  let z := fld w 13 3
  (decide (1 ≤ m) && decide (m ≤ 0x0A) && !(m == 9 && (fld w 0 6 == 0x11 || fld w 0 6 == 0x12)))
    || m == 0x10 || (m == 0x12 && z == 0) || (m == 0x13 && decide (z ≤ 1)) || m == 0x14 || (decide (0x20 ≤ m) && decide (m ≤ 0x22))
/-- Whether the issuing thread is the leader of its instance (R186): it leads it already, or none leads it and no live thread of
lower rank has yet to reach it. -/
def State.leads (s : State) (b : Barrier) : Bool :=
  let k := s.cur.electCount
  match b.lead with
  | some (t, i) => t == s.turn && (i == k || s.cur.electRx.isSome)
  | none => !(b.post.any (fun q => q.inst == k))
      && b.live.all (fun u => !(decide (tkey u < tkey s.turn) && decide ((k - (s.thread u).electCount).toNat < 2 ^ 31)))
/-- The leader goes on to the governed word; the others park until the post (R186). -/
def State.elect (s : State) (d : RegNum) : State :=
  let lead := fun (s : State) => s.setCur ({ s.cur with electing := some s.cur.pcc, electReg := d }.setPc (s.cur.pc + 4))
  match s.barrierOf s.turn with
  | none => lead s
  | some p => match Map.find (s.cluster p.1).bars p.2 with
    | none => lead s
    | some b =>
      if s.leads b then
        if b.post.isSome || (s.cur.electRx.isSome && b.live.any (fun u => u != s.turn)) then s.park .electPost
        else lead (s.modBarrier (some p) (fun b => { b with lead := some (s.turn, s.cur.electCount) }))
      else (s.setCur { s.cur with electReg := d }).park .elect
/-- The fetch of the word that the ELECT at the thread's PCC governs, with UNDEF for one that it may not govern or that is none (R31, R36 steps 1
and 2). -/
def State.governed (s : State) : Fetched :=
  match s.fetchAt s.turn.core (s.cur.pcc.withAddr ((s.cur.pc + 4) % 2 ^ 64)) with
  | .word w => if electable w && decode w != .undef then .word w else .trap ⟨.undef, w⟩
  | r => r
/-- ELECT (R29, R31, R186): the governed word is fetched and decoded first. -/
def execElect (s : State) : Out := .next (
  match s.governed with
  | .trap e => s.raise e
  | .miss y => s.forfeit.park (.fetch y)
  | .word w => match decodeFault s.cur w with
    | some e => s.raise e
    | none => s.irrevocably (fun s => s.unbroken (fun s => s.elect (reg5 w 21))))

end Sys2Proof.Machine
end

