-- ==== Sys2Proof/Machine/Pair.lean ====
section
/-!
DEFINITION. Redundant pairs (R341, R342): the leading and the trailing thread of a pair, the load-value queue, what a released action leaves
the trailing thread, and the context that a pair is saved with (R337).
-/
namespace Sys2Proof.Machine

/-- The trailing part of a pair changed. -/
def State.setTrail (s : State) (t : Tid) (q : Trail) : State := s.setThread (trailTid t) { s.thread (trailTid t) with trail := some q }
/-- What becomes of an entry of the load-value queue as the leading thread `h` stands: its load is done, it has trapped, it is an outstanding
`.rx` load, or it issues again (none). -/
def LoadEntry.resolve (h : Thread) (e : LoadEntry) : Option LoadEntry :=
  let done := LoadResult.value (h.reg e.d) (Map.find h.poisonPend e.d.val)
  if e.res.isSome then some e
  else if e.rx then some (if h.rxRegs.contains e.d then e else { e with res := some done })
  else if h.status ≠ .running then some e
  else if h.instret = e.count then none
  else if h.traps ≠ e.traps then some { e with res := some (.trap h.causeCode h.tval) }
  else if h.rxRegs.contains e.d then some { e with rx := true }
  else some { e with res := some done }
/-- The context of the trailing thread `u` on the leading thread `h` (R337 step 5): what the pair keeps once stays the leading thread's. -/
def Thread.foldTrail (h u : Thread) : Thread :=
  let u := match u.wait with
    | some (.fault _ _) => u.again
    | some (.faultFull _) => u.again
    | some (.release _) => u.again
    | _ => u
  { h with
    status := match u.wait with
      | some .frame => u.status
      | _ => .running
    regs := u.regs, absent := u.absent, poisonPend := u.poisonPend, pcc := u.pcc, mode := u.mode, satn := u.satn
    irv := u.irv, intrap := u.intrap, pmode := u.pmode, rmode := u.rmode, causeCode := u.causeCode, causeImpr := u.causeImpr, tval := u.tval
    tepc := u.tepc, tvec := u.tvec, fmta := u.fmta, fmtb := u.fmtb, fmto := u.fmto, sca := u.sca, scb := u.scb, fflags := u.fflags
    instret := u.instret, traps := u.traps, frame := u.frame, inFrame := false, lihhNow := u.lihhNow, lihhPrev := u.lihhPrev
    lihhPc := u.lihhPc }
/-- Both contexts of a pair take their own slots again, after the trailing thread's performance of an action in the leading slot. -/
def State.unswap (s : State) (t : Tid) (q : Trail) : State :=
  let p := s.thread t
  let sv := s.thread (trailTid t)
  (s.setThread t { p.foldTrail sv with status := sv.status }).setThread (trailTid t) { p with trail := some q, pendMchk := [], rx := [] }
/-- The trailing slot of a pair starts with the context of its leading thread. -/
def State.startTrail (s : State) (t : Tid) : State := s.setThread (trailTid t) { s.thread t with trail := some {}, pendMchk := [], rx := [] }
/-- The registers that an action has written, as the leading thread `h` stands behind it. -/
def Action.results (a : Action) (h : Thread) : List RegNum :=
  if a.elect then (if h.electing.isSome then [] else [h.electReg]) else a.dests
/-- The trailing thread `u` once the released action `a` of its leading thread `h` is done: its results are written to both threads, and a trap is
taken by both at the same instruction (R321, R341). -/
def Thread.afterAction (u h : Thread) (a : Action) : Thread :=
  let trapped := h.traps != a.traps
  let v := if trapped then u else (a.results h).foldl (fun x r => x.setReg r (h.reg r)) u
  { v with
    absent := h.absent
    poisonPend := h.poisonPend
    mode := h.mode
    pmode := h.pmode
    intrap := h.intrap
    causeCode := h.causeCode
    causeImpr := h.causeImpr
    tval := h.tval
    traps := h.traps
    tepc := if trapped then u.faultPcc else u.tepc
    spec := h.spec
    irv := h.irv
    fflags := u.fflags ||| (h.fflags &&& ~~~a.fflags)
    instret := u.instret + (h.instret - a.count)
    electing := if h.electing.isSome then some (u.electing.getD u.pcc) else none
    lihhNow := none
    lihhPrev := u.lihhNow
    pcc := if trapped then u.tvec.unsealed else if u.pc = a.pc then h.pcc else u.pcc.withAddr ((u.pc + 2 ^ 64 + h.pc - a.pc) % 2 ^ 64) }
/-- The trailing thread `u` once a word of its bound frame, performed for both by its leading thread `h`, is done (R234, R341): the word's results
are written to it too, and a trap is taken by both. -/
def Thread.afterWord (u h : Thread) (p : Nat × Nat) (dests : List RegNum) : Thread :=
  let u := { u with inFrame := true }
  if h.traps = u.traps then
    let v := dests.foldl (fun x r => x.setReg r (h.reg r)) u
    let v := { v with fflags := u.fflags ||| h.fflags }
    match u.frame.filter (fun f => f.polled.contains p) with
    | some f => { v with inFrame := false }.withFrame { f with polled := f.polled.erase p }
    | none => v.frameNext
  else { u.enter ⟨.none, h.tval.toNat⟩ h.causeImpr u.faultPcc with causeCode := h.causeCode, traps := h.traps }
/-- The frame word that the leading thread of a pair performs for both is done, or is to issue again: the trailing thread gets its results, or it is
compared again (R234, R341). -/
def State.wordSync (s : State) (t : Tid) : State :=
  match s.trailOf t with
  | none => s
  | some q => match q.word with
    | none => s
    | some p =>
      let h := s.thread t
      let u := s.thread (trailTid t)
      if h.inFrame || (match h.wait with
          | some (.tendAcks _) => true
          | _ => false) then s
      else
        let s := s.setTrail t { q with word := none }
        let u' := s.thread (trailTid t)
        if h.traps = u.traps && h.frame.any (fun f => f.replay == p.1 && f.word == p.2) then s
        else s.setThread (trailTid t) (u'.afterWord h p ((u.frame.map (fun f => f.regsOf (fun i => i.regs.2) p)).getD []))
/-- The pair that a thread leads goes on as far as the leading thread's state allows: values enter the load-value queue, and an action that is
done reaches the trailing thread. An action whose instruction is to issue again is compared again. -/
def State.pairSync (s : State) (t : Tid) : State :=
  let s := s.wordSync t
  match s.trailOf t with
  | none => s
  | some q =>
    let h := s.thread t
    let loads := q.loads.filterMap (LoadEntry.resolve h)
    let q := { q with loads := loads, waiting := q.waiting && loads == q.loads }
    match q.action with
    | none => s.setTrail t q
    | some a =>
      if h.status ≠ .running then s.setTrail t q
      else if a.ahead then
        if h.instret = a.count then s.unswap t { q with action := none }
        -- a trap is taken by both threads at the same instruction: what the leading thread did behind it is undone
        else if h.traps ≠ a.traps then s.startTrail t
        else s.unswap t { q with action := none, ahead := q.ahead.drop 1, waiting := false }
      else if h.instret = a.count then s.setTrail t { q with action := none }
      -- the result of an `.rx` load that ELECT governs reaches both threads when it lands
      else if (a.results h).any h.rxRegs.contains then s.setTrail t q
      else
        let s := s.as (trailTid t) (fun s =>
          let u := s.cur
          let s := s.takePosition
          s.setCur (u.afterAction h a))
        s.setTrail t { q with action := none, waiting := false }
/-- Whether a pair may be saved at its trailing thread's position: no action at which the leading thread waits is being performed, and the leading
thread is not ending. -/
def State.foldable (s : State) (t : Tid) : Bool :=
  match s.trailOf t with
  | none => false
  | some q => q.action.all (fun a => a.ahead) && q.word.isNone && !q.stopped && (match (s.thread t).wait with
    | some (.tendAcks _) => false
    | some .aborting => false
    | _ => true)
/-- A thread as a context record, a snapshot or a context message takes it: a pair that can be saved at its trailing thread's position is; an action
that the trailing thread has begun behind its leading thread issues again. -/
def State.paired (s : State) (t : Tid) : Thread :=
  let h := s.thread t
  if !s.foldable t then h
  else if (s.trailOf t).any (fun q => q.action.isSome) then (if h.status = .running then h else h.again)
  else h.foldTrail (s.thread (trailTid t))
/-- A pair is brought to its trailing thread's position, if it can be, in both slots (R337 step 5). -/
def State.foldPair (s : State) (t : Tid) : State := if s.foldable t then (s.setThread t (s.paired t)).startTrail t else s
/-- Whether a pair has come as far as it can while its core quiesces: the trailing thread is where the leading one is, or is parked (R337). -/
def State.pairSettled (s : State) (t : Tid) : Bool :=
  match s.trailOf t with
  | none => true
  | some q => q.word.isNone && (q.stopped || q.action.any (fun a => !a.ahead || (s.thread t).status != .running) || q.waiting || (s.thread (trailTid t)).status != .running
      || (s.thread (trailTid t)).instret == (s.thread t).instret)
/-- What a thread's record in a core record is (Table 16-7): a trailing thread's is its pair's, while the pair can be saved. -/
def State.slotThread (s : State) (t : Tid) : Thread :=
  if (s.thread t).trail.isSome && s.foldable (leadTid t) then { s.paired (leadTid t) with trail := some {} } else s.paired t
/-- What an instruction of a thread may read. -/
def Thread.operands (u : Thread) : Operands :=
  { regs := u.regs, absent := u.absent, poisonPend := u.poisonPend, satn := u.satn, rmode := u.rmode, fmta := u.fmta, fmtb := u.fmtb
    fmto := u.fmto, sca := u.sca, scb := u.scb }
/-- A thread with other operands. -/
def Thread.withOps (h : Thread) (o : Operands) : Thread :=
  { h with
    regs := o.regs, absent := o.absent, poisonPend := o.poisonPend, satn := o.satn, rmode := o.rmode, fmta := o.fmta, fmtb := o.fmtb
    fmto := o.fmto, sca := o.sca, scb := o.scb }
/-- The leading thread `h` with the operands of the trailing thread `u`. -/
def Thread.withOperands (h u : Thread) : Thread := h.withOps u.operands
/-- A thread without the operands that the comparator does not see by themselves; `h` gives the modes. -/
def Thread.masked (x h : Thread) : Thread :=
  { x with
    regs := [], absent := 0, poisonPend := [], satn := h.satn, rmode := h.rmode, fmta := h.fmta, fmtb := h.fmtb, fmto := h.fmto, sca := h.sca
    scb := h.scb }
/-- Whether the two threads of a pair have taken the same traps (R321, R342). -/
def Thread.sameTraps (h u : Thread) : Bool :=
  h.traps == u.traps && h.mode == u.mode && h.intrap == u.intrap && h.pmode == u.pmode && h.causeCode == u.causeCode
    && h.causeImpr == u.causeImpr && h.tval == u.tval
/-- The operands of an instruction that the comparator sees although its effect outside the registers may not show them (R265, R307, R342): the
address range of cache control, the handle of a chain, the key of a CAM instruction, the pointer capability of a GETR. -/
def Instr.posted (h : Thread) : Instr → List Nat
  | .pref a b => [(lo64 (h.reg a).val).toNat, (lo64 (h.reg b).val).toNat]
  | .cflu a b => [(lo64 (h.reg a).val).toNat, (lo64 (h.reg b).val).toNat]
  | .cinv a b => [(lo64 (h.reg a).val).toNat, (lo64 (h.reg b).val).toNat]
  | .disc a b => [(lo64 (h.reg a).val).toNat, (lo64 (h.reg b).val).toNat]
  | .llck _ a b => [(lo64 (h.reg a).val).toNat, (lo64 (h.reg b).val).toNat]
  | .lulk _ a b => [(lo64 (h.reg a).val).toNat, (lo64 (h.reg b).val).toNat]
  | .astaChain _ a => [(lo64 (h.reg a).val).toNat]
  | .adrn _ a => [(lo64 (h.reg a).val).toNat]
  | .adrnNw _ a => [(lo64 (h.reg a).val).toNat]
  | .camc _ a => [wfld (lo64 (h.reg a).val) 0 32]
  | .spcf _ a => [wfld (lo64 (h.reg a).val) 0 2]
  | .getr _ a b e => [a, b, e].flatMap (fun r => [(h.reg r).val.toNat, (h.reg r).tag.toNat])
  | _ => []
/-- A released action that returns nothing to its thread, so that the leading thread goes on behind it (R341): stores and the releases, resets and cache
control that write no register. -/
def Instr.silent : Instr → Bool
  | .st8 _ _ _ _ => true
  | .st16 _ _ _ _ => true
  | .st32 _ _ _ _ => true
  | .st64 _ _ _ _ => true
  | .stQ128 _ _ _ _ => true
  | .stc _ _ _ => true
  | .stf _ _ _ => true
  | .stx _ _ _ => true
  | .sigrst _ _ => true
  | .pref _ _ => true
  | .cflu _ _ => true
  | .cinv _ _ => true
  | .disc _ _ => true
  | _ => false
/-- Whether two performances of one action by thread `t` have the same effect outside the registers (R342). -/
def sameEffect (t : Tid) (h : Thread) : Out → Out → Bool
  | .next x, .next y => decide (x.setThread t ((x.thread t).masked h) = y.setThread t ((y.thread t).masked h))
  | .fault a, .fault b => decide (a = b)
  | .refused a, .refused b => decide (a = b)
  | .next _, .fault _ => false
  | .next _, .refused _ => false
  | .fault _, .next _ => false
  | .fault _, .refused _ => false
  | .refused _, .next _ => false
  | .refused _, .fault _ => false

end Sys2Proof.Machine
end

