-- ==== Sys2Proof/Machine/Sparse.lean ====
section
/-!
DEFINITION. Sparse instructions (major 0x2E): the intersection CAM and GETR (R305 to R315).
-/
namespace Sys2Proof.Machine

/-- Whether a tile that an instruction of this major names as a source or an output lets it issue (R308). -/
def State.readyTile (s : State) (tl : TileNum) : Bool := s.tileOk (some tl) Tile.free
/-- The tiles of a CAM instruction (R308): TILE for an undefined one; a forfeit unless each is ready with no transition waiting; then CAPBND. -/
def State.camTiles (s : State) (tls : List TileNum) (bounds : Option TrapVal) (k : State → State) : State :=
  s.checked (tls.findSome? (fun tl => s.checkTile tl 0)) (fun s =>
    if !tls.all s.readyTile then s.forfeit else s.checked bounds (fun s => s.irrevocably k))
/-- An operation enters the CAM engine with its tiles held; its thread parks until it completes (R307, R308). -/
def State.enterCam (s : State) (d : RegNum) (tls : List TileNum) (op : CamOp) : State :=
  let c := s.turn.core
  let s := tls.foldl (fun acc tl => (acc.tileAcquire tl).holdTile c tl true) s
  (s.setCore c { s.core c with camq := (s.core c).camq ++ [op] }).park (.cam d)
/-- CAML (R309). -/
def execCaml (d : RegNum) (tl : TileNum) (b : RegNum) (s : State) : Out := .next (s.drained (fun s =>
  let n := min (wfld (s.word b) 0 16) 256
  s.camTiles [tl] (s.checkTile tl (4 * n)) (fun s => s.enterCam d [tl] (.load s.turn d tl n (wfld (s.word b) 16 16) s.ownCore.tilebase))))
/-- CAMP (R310). -/
def execCamp (d : RegNum) (o p : TileNum) (b : RegNum) (s : State) : Out := .next (s.drained (fun s =>
  let m := wfld (s.word b) 0 16
  s.camTiles [o, p] (s.checkTile p (4 * m)) (fun s => s.enterCam d [o, p] (.probe s.turn d o p m (wfld (s.word b) 16 16) s.ownCore.tilebase))))
/-- The lowest entry of a CAM that holds a key (R305). -/
def camFind (cam : Map CamEntry) (key : Nat) : Option (Nat × CamEntry) := cam.find? (fun e => e.2.key == key)
/-- Whether a CAML runs in a core's CAM engine or waits for it (R311). -/
def Core.camLoading (c : Core) : Bool := c.camq.any (fun o => match o with
  | .load _ _ _ _ _ _ => true
  | .probe _ _ _ _ _ _ _ => false)
/-- CAMC (R311). -/
def execCamc (d a : RegNum) (s : State) : Out := .next (s.drained (fun s => s.irrevocably (fun s =>
  let co := s.ownCore
  if co.camLoading then s.forfeit
  else
    let hit := match camFind co.cam (wfld (s.word a) 0 32) with
      | some (i, e) => 2 ^ 32 + i * 2 ^ 16 + e.pos
      | none => 0
    (s.writeWord d (wordOf (co.cam.length * 2 ^ 40 + hit))).finish)))
/-- The keys of a fibre in a tile, as 32-bit words. -/
def State.tileKeys (s : State) (c : Nat) (t : Tile) (n : Nat) : List Nat := (List.range n).map (fun i => s.tileRead c t (4 * i) 4)
/-- How many keys of a list stand earlier in it too. -/
def dupCount : List Nat → List Nat → Nat
  | _, [] => 0
  | seen, k :: r => (if seen.contains k then 1 else 0) + dupCount (k :: seen) r
/-- The pairs that a probe writes, and how many probes matched (R310). -/
def camPairs (cam : Map CamEntry) (base : Nat) (keys : List Nat) : List Nat :=
  keys.zipIdx.filterMap (fun p => (camFind cam p.1).map (fun e => (base + p.2) % 2 ^ 16 + e.2.pos * 2 ^ 16))
/-- The CAM engine of a core finishes its operation (R307, R309, R310): its thread goes on with the result. -/
def State.tryCam (s : State) (c : Nat) : Option State :=
  let co := s.core c
  let reply := fun (s : State) (t : Tid) (d : RegNum) (v : Nat) =>
    if (s.thread t).wait = some (.cam d) then s.as t (fun s => ((s.setCur { s.cur with status := .running }).writeWord d (wordOf v)).finish) else s
  match co.camq with
  | [] => none
  | .load t d tl n base tb :: r =>
    let s := s.setCore c { co with camq := r }
    match (s.core c).tileUnder tb tl with
    | none => some s
    | some ti =>
      let keys := s.tileKeys c ti n
      let cam := keys.zipIdx.map (fun p => (p.2, ({ key := p.1, pos := (base + p.2) % 2 ^ 16 } : CamEntry)))
      let s := (s.setCore c { s.core c with cam := cam }).holdTile c tl false
      some (reply s t d (n + dupCount [] keys * 2 ^ 16))
  | .probe t d o p m base tb :: r =>
    if s.copying c then none
    else
    let s := s.setCore c { co with camq := r }
    match (s.core c).tileUnder tb o, (s.core c).tileUnder tb p with
    | some dest, some tp =>
      let pairs := camPairs co.cam base (s.tileKeys c tp m)
      let w := min pairs.length (dest.len / 4)
      let s := (pairs.take w).zipIdx.foldl (fun (acc : State) e => acc.tileWrite c dest (4 * e.2) 4 e.1) s
      let s := (s.holdTile c o false).holdTile c p false
      some (reply s t d (pairs.length + w * 2 ^ 32))
    | _, _ => some s
/-- CAM_OPERATION_END (R307). -/
def execCamOperationEnd (s : State) : Out := s.event (s.tryCam s.ev.core)
/-- SPCF (R315). -/
def execSpcf (d a : RegNum) (s : State) : Out := .next (s.drained (fun s => s.irrevocably (fun s =>
  let co := s.ownCore
  let v := s.word a
  let s := s.writeWord d (wordOf (co.negEmpty.toNat + 2 * co.negRow.toNat))
  (s.setCore s.turn.core { s.ownCore with negEmpty := wbit v 0, negRow := co.negRow && !wbit v 1 }).finish)))

/-- A malformed GETR descriptor (R312). -/
def badGather (w0 : Word) : Bool := decide (wfld w0 30 2 ≠ 0) || decide (wfld w0 27 2 = 3) || decide (4096 < wfld w0 0 16)
/-- What a GETR has read, and the state after it; or the state in which it waits or has trapped. -/
abbrev Read (α : Type) := Except State (α × State)
/-- The address of a row pointer (R313). -/
def ptrAddr (c : CReg) (w r : Nat) : Nat := (c.addr + r * w) % 2 ^ 64
/-- A row pointer, read by the issuing core (R313), with the lowest poisoned word. -/
def State.rowPtr (s : State) (a : RegNum) (w r : Nat) : Read (Nat × Option Nat) :=
  let c := s.reg a
  match s.blockRead (ptrAddr c w r) w a (c.has permD) with
  | .error s => .error s
  | .ok (v, _, p, s) => .ok ((v, p), s)
/-- The two pointers of row `r`: CAPBND and ALIGN of both come before CONTAINED, and that before POISON (R48, R317). -/
def State.rowPtrs (s : State) (a : RegNum) (w r : Nat) : Read (Nat × Nat) :=
  let c := s.reg a
  let rs := [r, r + 1]
  match (rs.findSome? (fun r => checkAccess c a.val (ptrAddr c w r) w [permL])).orElse
      (fun _ => rs.findSome? (fun r => s.blockRefused (ptrAddr c w r) w a (c.has permD))) with
  | some e => .error (s.raise e)
  | none => match s.rowPtr a w r with
    | .error s => .error s
    | .ok ((lo, p), s) => match s.rowPtr a w (r + 1) with
      | .error s => .error s
      | .ok ((hi, q), s) => match p.orElse (fun _ => q) with
        | some x => .error (s.raise ⟨.poison, x⟩)
        | none => .ok ((lo, hi), s)
/-- The first byte of a range that lies outside a capability (R313). -/
def firstOutside (c : CReg) (lo hi : Nat) : Option Nat :=
  if hi ≤ lo then none else if lo < c.base then some lo else if c.top < hi then some (max lo c.top) else none
/-- Row `r` of the list: its pointers are read and its columns and values checked (R313). -/
def State.gatherRow (s : State) (a b : RegNum) (w0 voff : Word) (r : Nat) : Read ((Nat × Nat × Nat) × Bool) :=
  let w := if wbit w0 26 then 8 else 4
  let body := s.reg b
  let z := gSize w0
  match s.rowPtrs a w r with
  | .error s => .error s
  | .ok ((lo, hi), s) =>
    if hi < lo && !s.ownCore.negEmpty then .error (s.raise ⟨.spmal, r⟩)
    else
      let top := max lo hi
      let cols := firstOutside body (body.addr + 4 * lo) (body.addr + 4 * top)
      let vals := firstOutside body (body.addr + voff.toNat + z * lo) (body.addr + voff.toNat + z * top)
      match cols.orElse (fun _ => vals) with
      | some x => .error (s.raise ⟨.capBnd, x⟩)
      | none => .ok (((r, lo, top), decide (hi < lo)), s)
/-- The rows of the `n` row numbers in tile `t`, in order, and whether one of them has decreasing pointers (R106, R313). -/
def State.gatherRows (s : State) (a b : RegNum) (w0 voff : Word) (t : Tile) (n : Nat) : Read (List (Nat × Nat × Nat) × Bool) :=
  (List.range n).foldl (fun acc j =>
    match acc with
    | .error e => .error e
    | .ok ((l, neg), s) => match s.tilePoison s.turn.core t (4 * j) 4 with
      | some p => .error (s.raise ⟨.poison, p⟩)
      | none => match s.gatherRow a b w0 voff (s.tileRead s.turn.core t (4 * j) 4) with
        | .error e => .error e
        | .ok ((x, m), s) => .ok ((l ++ [x], neg || m), s)) (.ok (([], false), s))
/-- The issuing GETR takes its hold of the row list, unless it has it from before it parked (R308). -/
def State.holdRows (s : State) (rl : TileNum) : State :=
  if s.cur.getr.isSome then s
  else ((s.tileAcquire rl).setCur { (s.tileAcquire rl).cur with getr := some { rl := rl } }).holdTile s.turn.core rl true
/-- A GETR that has parked keeps what it has read and its hold of the row list; done, trapped or forfeited it has none (R308, R313). -/
def State.gatherStop (s : State) : State :=
  match s.cur.wait with
  | none => s.dropGetr s.turn
  | some (.tendAcks _) => s.dropGetr s.turn
  | some _ => s
/-- The rows of a GETR and whether one of them is negative, once they are all read: kept from before it parked, or read now. The hold of the
row list ends with its last word (R308, R313). -/
def State.readRows (s : State) (a b : RegNum) (w0 voff : Word) (rl : TileNum) : Read (List (Nat × Nat × Nat) × Bool) :=
  match s.cur.getr.bind (fun g => g.rows), s.ownCore.tile rl with
  | some r, _ => .ok (r, s)
  | none, none => .ok (([], false), s)
  | none, some t => match (s.holdRows rl).gatherRows a b w0 voff t (wfld w0 0 16) with
    | .error s => .error s
    | .ok (r, s) =>
      let s := s.dropGetr s.turn
      .ok (r, s.setCur { s.cur with getr := some { rl := rl, rows := some r } })
/-- A GETR whose checks have passed reads its rows and pushes its request (R313). -/
def State.gather (s : State) (d a b : RegNum) (w0 voff : Word) (rl dt : TileNum) : State :=
  match s.readRows a b w0 voff rl with
  | .error s => s
  | .ok ((l, neg), s) =>
    let bytes := gatherBytes w0 l
    match s.checkTile dt bytes with
    | some e => s.raise e
    | none =>
      if 16 ≤ s.ownCore.fifo.length then s.park .fifoFull
      else s.release .device .again (fun s =>
        let s := s.dropGetr s.turn
        let q : XReq :=
          { kind := .getr, w0 := w0, w3 := 0, src := s.reg b, dst := {}, dstTile := some dt, issuer := s.turn, ap := s.cur.ap, tbase := s.ownCore.tilebase
            rows := l, voff := voff.toNat }
        let s := s.onTile (some dt) (fun t => { t.fillIssued with pending := t.pending + bytes })
        let co := s.ownCore
        ((s.setCore s.turn.core { co with fifo := co.fifo ++ [q], negRow := co.negRow || neg }).writeWord d 0).finish)
/-- GETR (R312, R313): the checks of the capabilities come before those of the tiles (R48, R317; log entry 50). -/
def execGetr (d a b e : RegNum) (s : State) : Out := .next (
  let w0 := s.word e
  let voff := hi64 (s.reg e).val
  State.gatherStop (if badGather w0 then s.drained (fun s => s.irrevocably (fun s => (s.writeWord d 2).finish))
  else
    let rl : TileNum := Fin.ofNat 32 (wfld w0 16 5)
    let dt : TileNum := Fin.ofNat 32 (wfld w0 21 5)
    let read := s.cur.getr.any (fun g => g.rows.isSome)
    s.checked (((checkTag (s.reg a) a.val false [permL]).orElse (fun _ => checkTag (s.reg b) b.val false [permL])).orElse
      -- the hold of RL ends once every pointer is read (R308)
      (fun _ => (if read then none else s.checkTile rl 0).orElse (fun _ => s.checkTile dt 0))) (fun s =>
      if !((s.cur.getr.isSome || s.readyTile rl) && s.tileOk (some dt) Tile.canFill) then s.forfeit
      else s.checked (if read then none else s.checkTile rl (4 * wfld w0 0 16)) (fun s => s.irrevocably (fun s => s.drained (fun s =>
        s.gather d a b w0 voff rl dt))))))

end Sys2Proof.Machine
end

