-- ==== Sys2Proof/Machine/TaskUnit.lean ====
section
/-!
DEFINITION. The task unit: records, placement, queues and spilling (R137 to R145), dispatch (R147, R148, R402), abort (R153,
R154), and the end of a thread (R169).
-/
namespace Sys2Proof.Machine

/-- `n` bytes of a record at an offset (Table 7-1). -/
def TaskRec.get (r : TaskRec) (off n : Nat) : Nat := r.bytes.toNat / 256 ^ off % 256 ^ n
/-- The width of a record's task. -/
def TaskRec.width (r : TaskRec) : Nat := r.get 14 2 % 1024 + 1
/-- SPEC, honoured for width 1 only (R137, R138). -/
def TaskRec.spec (r : TaskRec) : Bool := decide (r.get 14 2 / 2 ^ 10 % 2 = 1) && r.width == 1
/-- DUP. -/
def TaskRec.dup (r : TaskRec) : Bool := decide (r.get 14 2 / 2 ^ 11 % 2 = 1)
/-- NOHINT. -/
def TaskRec.nohint (r : TaskRec) : Bool := decide (r.get 14 2 / 2 ^ 12 % 2 = 1)
/-- The spatial hint. -/
def TaskRec.hint (r : TaskRec) : Nat := r.get 12 2
/-- A width that no cluster can hold (R138). -/
def TaskRec.tooWide (r : TaskRec) : Bool := decide (960 < r.width) || (r.dup && decide (448 < r.width))
/-- The record with its timestamp replaced (R167). -/
def TaskRec.withTs (r : TaskRec) (ts : Word) : TaskRec := { r with bytes := r.bytes.extractLsb' 64 448 ++ ts }
/-- The place of the least element of a list of counts, the first among equals. -/
def leastIndex (l : List Nat) : Nat :=
  (l.zipIdx.foldl (fun (acc : Option (Nat × Nat)) e => match acc with
    | none => some e
    | some (v, i) => if e.1 < v then some e else some (v, i)) none).elim 0 Prod.snd
/-- Placement (R141): by the hint, or the own cluster while it holds fewer than 1,536 entries, else the emptiest cluster of the
last round result. -/
def State.place (s : State) (dk own : Nat) (r : TaskRec) : Nat :=
  let d := s.domain dk
  if !r.nohint then d.clusterAt (r.hint * 40503 % 65536 % d.count)
  else if (s.cluster own).queue.length < 1536 then own
  else match d.round with
    | some x => d.clusterAt (leastIndex x.occ)
    | none => own
/-- The tiebreak of an enqueue at cluster `cl` by a task with tiebreak `p` (R139): the counter's new value with it, or none when
that would pass its limit. -/
def State.tiebreak (s : State) (dk cl : Nat) (p : Word) : Option (Nat × Word) :=
  let n := max (s.cluster cl).ctr.toNat (p.toNat / 2 ^ 10) + 1
  if 2 ^ 54 ≤ n then none else some (n, wordOf (n * 2 ^ 10 + (s.domain dk).indexOf cl))

/-- Insert into a list sorted by virtual time, after equals. -/
def insertVT {α : Type} (key : α → VT) (x : α) : List α → List α
  | [] => [x]
  | y :: r => if (key x).lt (key y) then x :: y :: r else y :: insertVT key x r
/-- A list sorted by virtual time, lowest first. -/
def sortVT {α : Type} (key : α → VT) (l : List α) : List α := l.foldl (fun acc x => insertVT key x acc) []

/-- Where the spill blocks of a cluster lie: the first address and how many there are (R144). -/
def State.spillArea (s : State) (dk cl : Nat) : Nat × Nat :=
  let d := s.domain dk
  let per := d.desc 88 4 / d.count
  (d.spilla.toNat + d.indexOf cl * per * 4096, per)
/-- A free spill block of a cluster: one that no records lie in, on a page that the device can write (log entry 49). -/
def State.freeBlock (s : State) (dk cl : Nat) : Option Nat :=
  let a := s.spillArea dk cl
  ((List.range a.2).map (fun i => a.1 + 4096 * i)).find? (fun x => !(s.cluster cl).blocks.any (fun b => b.addr == x) && s.domWritable dk x)
/-- A record as the device writes it: its reserved flags are zero (R5, Table 7-1). -/
def TaskRec.written (r : TaskRec) : BitVec 512 := r.bytes &&& ~~~((7 : BitVec 512) <<< 125)
/-- Write a spill block to memory (Table 7-4), its reserved bytes as zero (R5). -/
def State.writeBlock (s : State) (dk : Nat) (b : SpillBlock) : State :=
  match b.recs with
  | [] => s
  | (_, v, _) :: _ =>
    let s := s.devFields dk b.addr [(0, 8, v.ts.toNat), (8, 8, v.tb.toNat), (16, 2, b.recs.length), (18, 46, 0)]
    b.recs.zipIdx.foldl (fun (acc : State) e =>
      let r := e.1.1
      let acc := acc.devWrite dk (b.addr + 64 + 8 * e.2) 8 e.1.2.1.tb.toNat
      let acc := acc.devWrite dk (b.addr + 512 + 64 * e.2) 64 r.written.toNat
      (List.range 3).foldl (fun (acc : State) i =>
        if r.tags.getLsbD i then
          acc.devWriteCap dk (b.addr + 512 + 64 * e.2 + 16 + 16 * i) { val := r.bytes.extractLsb' (128 + 128 * i) 128, tag := true }
        else acc) acc) s
/-- The records of a spill block as memory holds them (Table 7-4), with the parents that the directory holds (R154). None when the block
cannot be read. -/
def State.readBlock (s : State) (dk : Nat) (b : SpillBlock) : Option (List (TaskRec × VT × Option RunId)) :=
  (s.domRead dk b.addr 4096).map (fun v =>
    let at_ := fun (o n : Nat) => v / 256 ^ o % 256 ^ n
    b.recs.zipIdx.map (fun e =>
      let base := 512 + 64 * e.2
      let tags := (List.range 3).foldl (fun acc i => acc + (s.domTag dk (b.addr + base + 16 + 16 * i)).toNat * 2 ^ i) 0
      ({ bytes := BitVec.ofNat 512 (at_ base 64), tags := BitVec.ofNat 3 tags }, ⟨wordOf (at_ base 8), wordOf (at_ (64 + 8 * e.2) 8)⟩, e.1.2.2)))
/-- Whether a record is not one of a run on a cancel list (R154). -/
def Cluster.keeps (c : Cluster) (r : TaskRec × VT × Option RunId) : Bool := !r.2.2.any c.cancel.contains
/-- A cluster refills, purges and rewrites the blocks that hold a record of a listed run (R154). -/
def State.purgeSpilled (s : State) (dk cl : Nat) : State :=
  let c := s.cluster cl
  let bs := c.blocks.map (fun b => (b, { b with recs := b.recs.filter c.keeps }))
  let s := s.setCluster cl { c with blocks := (bs.map Prod.snd).filter (fun b => !b.recs.isEmpty) }
  bs.foldl (fun acc p => if p.1 = p.2 then acc else acc.writeBlock dk p.2) s
/-- A run's pair enters the cancel list of a cluster that has spilled a child of it; a full list of 256 makes the cluster purge and
rewrite its blocks (R154). -/
def State.listCancel (s : State) (dk cl : Nat) (id : RunId) : State :=
  let c := s.cluster cl
  if !c.blocks.any (fun b => b.recs.any (fun r => r.2.2 == some id)) || c.cancel.contains id then s
  else
    let c := { c with cancel := c.cancel ++ [id] }
    let s := s.setCluster cl c
    if c.cancel.length < 256 then s
    else
      let s := s.purgeSpilled dk cl
      s.setCluster cl { s.cluster cl with cancel := [] }
/-- The pairs for which `p` holds leave the cancel lists of a domain, and the records they name its spilled blocks (R154). -/
def State.unlist (s : State) (dk : Nat) (p : RunId → Bool) : State :=
  (s.domain dk).clusters.foldl (fun (acc : State) k =>
    if !(acc.cluster k).cancel.any p then acc
    else
      let acc := acc.purgeSpilled dk k
      acc.setCluster k { acc.cluster k with cancel := (acc.cluster k).cancel.filter (fun id => !p id) }) s
/-- A task leaves: its children are linked to it no more, and spilled children of its aborted runs go (R154, R156). -/
def State.unlink (s : State) (dk cl entry : Nat) : State :=
  let mine := fun (id : RunId) => id.cluster == cl && id.entry == entry
  let free := fun (p : Option RunId) => if p.any mine then none else p
  (s.domain dk).clusters.foldl (fun (acc : State) k =>
    let c := acc.cluster k
    acc.setCluster k { c with
      queue := c.queue.map (fun e => (e.1, { e.2 with parent := free e.2.parent }))
      flying := c.flying.map (fun f => { f with parent := free f.parent })
      blocks := c.blocks.map (fun b => { b with recs := b.recs.map (fun r => (r.1, r.2.1, free r.2.2)) }) }) (s.unlist dk mine)

/-- A queue entry for a record (R143). -/
def FlyRec.entry (f : FlyRec) : TaskEntry :=
  { rcd := f.rcd, vt := f.vt, run := f.run, parent := f.parent, spec := f.rcd.spec, dup := f.rcd.dup, width := f.rcd.width, ran := f.ran
    again := if f.ran then 1 else 0 }
/-- Spill to make room at a full queue (R144): the block of the highest-VT entries that no thread has run, the arriving record
among them when it is above them all. None when no block is free; the flag says that the record itself was spilled. -/
def State.spillFor (s : State) (dk cl : Nat) (f : FlyRec) : Option (State × Bool) :=
  match s.freeBlock dk cl with
  | none => none
  | some a =>
    let c := s.cluster cl
    let old := (c.queue.filter (fun e => e.2.st == .queued && !e.2.ran && !c.aborts.any (fun x => x.1 == e.1))).map
      (fun e => (some e.1, e.2.rcd, e.2.vt, e.2.parent))
    let old := sortVT (fun (e : Option Nat × TaskRec × VT × Option RunId) => e.2.2.1) old
    let above := !f.ran && old.all (fun e => e.2.2.1.lt f.vt)
    let top := if above then old.drop (old.length - 55) ++ [(none, f.rcd, f.vt, f.parent)] else old.drop (old.length - 56)
    if top.isEmpty then none
    else
      let b : SpillBlock := { addr := a, recs := top.map Prod.snd }
      let keys := top.filterMap Prod.fst
      let s := s.setCluster cl { c with queue := c.queue.filter (fun e => !keys.contains e.1), blocks := c.blocks ++ [b] }
      some (s.writeBlock dk b, above)
/-- The status of an enqueue reaches its thread (R168). -/
def State.enqStatus (s : State) (d : RegNum) (hint st : Nat) : State :=
  if st ≠ 0 && d = 0 then s.raise ⟨.qfull, hint⟩ else (s.writeWord d (wordOf st)).finish
/-- What becomes of a record's sender when its target has accepted or refused it (R145, R167, R375). -/
def State.enqReply (s : State) (dk cl : Nat) (f : FlyRec) (ok : Bool) : State :=
  match f.issuer with
  | some t => match (s.thread t).wait with
    | some (.tenqSent d wait hint) =>
      if !ok && wait then s.setThread t { s.thread t with status := .parked (.tenqHeld f) }
      else s.as t (fun s => (s.setCur { s.cur with status := .running }).enqStatus d hint (if ok then 0 else 1))
    | _ => s
  | none =>
    let d := s.domain dk
    if f.wait then
      if ok then s.setDomain dk { d with ingress := d.ingress.drop 1, ingressHead := none }
      else s.setDomain dk { d with ingressHead := some (f, false) }
    else if ok then s
    else s.fly cl f
/-- TASK_RECORD_ARRIVAL (R144): the oldest record on its way to a cluster is queued, spilled or refused. -/
def State.tryRecord (s : State) (cl : Nat) : Option State :=
  match (s.cluster cl).flying, s.domainOf cl with
  | f :: r, some dk =>
    if f.issuer.any (fun t => !s.withHome (clusterOf t.core) cl) then none
    else
    let s := s.setCluster cl { s.cluster cl with flying := r }
    let d := s.domain dk
    let s := s.setDomain dk { d with arrived := true, busy := true }
    let put := fun (s : State) => match Map.firstFree (s.cluster cl).queue 2048 with
      | some k => s.setCluster cl { s.cluster cl with queue := Map.set (s.cluster cl).queue k f.entry }
      | none => s
    if (s.cluster cl).queue.length < 2048 then some ((put s).enqReply dk cl f true)
    else match s.spillFor dk cl f with
      | none => some (s.enqReply dk cl f false)
      | some (s, spilled) => some ((if spilled then s else put s).enqReply dk cl f true)
  | _, _ => none
/-- TASK_REFILL (R144): below 1,024 entries, the block with the lowest first VT returns whole; records on the cancel list are
dropped (R154). -/
def State.tryRefill (s : State) (cl : Nat) : Option State :=
  let c := s.cluster cl
  if 1024 ≤ c.queue.length then none
  else match sortVT (fun (b : SpillBlock) => ((b.recs.head?).map (fun r => r.2.1)).getD {}) c.blocks, s.domainOf cl with
  | b :: _, some dk =>
    (s.readBlock dk b).map (fun recs =>
      let queue := (recs.filter c.keeps).foldl (fun (q : Map TaskEntry) r =>
        match Map.firstFree q 2048 with
        | some k => Map.set q k (FlyRec.entry { rcd := r.1, vt := r.2.1, parent := r.2.2, target := cl, issuer := none, d := 0, wait := false })
        | none => q) c.queue
      (s.devNeeds dk b.addr 4096 false).setCluster cl { c with blocks := c.blocks.filter (fun x => x.addr != b.addr), queue := queue })
  | _, _ => none

/-- The free general slots of core `k` of a cluster, or the free pairs by their leading slots (R138, R147): a dispatch clears the tags of its
private frame, which waits while a snapshot has yet to copy that (R148, R357). -/
def State.freeSlots (s : State) (cl k : Nat) (dup : Bool) : List Nat :=
  let c := cl * 64 + k
  let co := s.core c
  let held := fun (i : Nat) => s.uncopied (s.frameBase c i) || s.uncopied (s.frameBase c i + 512)
  let idle := fun (i : Nat) => (s.thread ⟨c, i⟩).status == .idle && !held i
  if co.preempted || co.resuming || co.contained || co.quiescing then []
  else (List.range (if dup then 7 else 15)).filter (fun i => idle i && (!dup || idle (i + 7)))
/-- The slots that a dispatch of width `w` takes, in passes over the cores (R402), in rank order (R175). -/
def State.pickSlots (s : State) (cl w : Nat) (dup : Bool) : Option (List Tid) :=
  let free := (List.range 64).map (fun k => (k, s.freeSlots cl k dup))
  let all := (List.range 15).flatMap (fun p => free.filterMap (fun e => (e.2[p]?).map (fun i => (⟨cl * 64 + e.1, i⟩ : Tid))))
  if all.length < w then none
  else some ((all.take w).foldl (fun acc t => (acc.filter (fun u => decide (tkey u < tkey t))) ++ [t] ++ acc.filter (fun u => decide (tkey t < tkey u))) [])
/-- How many general slots of a cluster are free. -/
def State.countFree (s : State) (cl : Nat) : Nat := ((List.range 64).map (fun k => (s.freeSlots cl k false).length)).foldl (· + ·) 0
/-- Whether a task of virtual time `v` may run at the frontier (R157). -/
def State.eligible (s : State) (dk : Nat) (v : VT) : Bool :=
  match (s.domain dk).round with
  | some x => match x.u with
    | some u => v == u || (v.ts == u.ts && (match x.s with
      | some z => v.lt z
      | none => true))
    | none => false
  | none => false
/-- Where the format entry of a record lies (R138, R142). -/
def State.formatVa (s : State) (dk : Nat) (r : TaskRec) : Nat := (s.domain dk).desc 64 8 + 16 * r.get 11 1
/-- The thread of rank `rank` of a task at dispatch (R40, R148, Table 7-5). -/
def State.newThread (s : State) (dk : Nat) (id : RunId) (e : TaskEntry) (t : Tid) (rank : Nat) : Thread :=
  let d := s.domain dk
  let code := d.descCap 0
  let fmt := (s.domRead dk (s.formatVa dk e.rcd) 16).getD 0
  let arg := fun (i : Nat) => ({ val := e.rcd.bytes.extractLsb' (128 + 128 * i) 128, tag := e.rcd.tags.getLsbD i } : CReg)
  let stack := d.desc 72 8 + (d.indexOf (clusterOf t.core) * 960 + t.core % 64 * 15 + t.slot) * 16384
  { status := .running
    regs := [(2, arg 0), (3, arg 1), (4, arg 2),
      (27, capFor (d.lwin.toNat + s.frameBase t.core t.slot) 0x400 [permL, permS, permLC, permSC, permQ]),
      (28, d.descCap 16),
      (29, (capFor stack 16384 [permL, permS, permLC, permSC, permA, permG]).withAddr (stack + 16384))]
    pcc := code.movedTo ((code.base + 4 * e.rcd.get 8 3) % 2 ^ 64)
    spec := e.spec
    dup := e.dup
    satn := decide (fmt / 2 ^ 24 % 2 = 1)
    tvec := d.descCap 32
    vt := e.vt
    thint := BitVec.ofNat 16 e.rcd.hint
    grnk := BitVec.ofNat 10 rank
    gsiz := BitVec.ofNat 10 e.width
    fmta := BitVec.ofNat 7 fmt
    fmtb := BitVec.ofNat 7 (fmt / 2 ^ 8)
    fmto := BitVec.ofNat 7 (fmt / 2 ^ 16)
    sca := BitVec.ofNat 16 (fmt / 2 ^ 32)
    scb := BitVec.ofNat 16 (fmt / 2 ^ 48)
    task := some id
    domain := some dk }
/-- A queued entry is dispatched to slots (R146, R148): the device reads the descriptor (R142), a cancelled run of the same number leaves the
lists (R154), its threads start, the private frames lose their tags, a speculative task
takes its commit entry with an empty undo log, and a non-speculative one acquires. -/
def State.start (s : State) (dk cl k : Nat) (e : TaskEntry) (ts : List Tid) (commit bar : Option Nat) : State :=
  let id : RunId := ⟨cl, k, e.run.toNat⟩
  let s := s.loadDesc dk
  let s := (s.devNeeds dk (s.formatVa dk e.rcd) 16 false).unlist dk (fun p => p == id)
  let s := match commit with
    | some ce =>
      let s := s.setUndoCount dk (s.undoVa dk cl ce) 0
      s.setCluster cl { s.cluster cl with commits := Map.set (s.cluster cl).commits ce { entry := k } }
    | none => s
  let s := match bar with
    | some b => s.setCluster cl { s.cluster cl with bars := Map.set (s.cluster cl).bars b { width := e.width, live := ts } }
    | none => s
  let s := s.modTask id (fun e => { e with st := .running, threads := ts, commit := commit, bar := bar, ran := true })
  ts.zipIdx.foldl (fun (acc : State) p =>
    let t := p.1
    let acc := { acc with scratch := acc.scratch.clearTags (acc.frameBase t.core t.slot) 0x400 }
    let acc := acc.setThread t (acc.newThread dk id e t p.2)
    let acc := if e.dup then
        let acc := { acc with scratch := acc.scratch.clearTags (acc.frameBase t.core (t.slot + 7)) 0x400 }
        acc.setThread ⟨t.core, t.slot + 7⟩ { acc.thread t with trail := some {} }
      else acc
    if e.spec then acc else acc.as t (fun s => s.acquire .device none false)) s
/-- What dispatch does with one queued entry: start it, make room by a yield, or pass it over (R147). -/
def State.dispatchOne (s : State) (dk cl : Nat) (p : Nat × TaskEntry) : Option State :=
  let c := s.cluster cl
  let e := p.2
  let low := s.isLowest dk e.vt
  let room := fun (w : Nat) => low || decide (w < s.countFree cl)
  if c.aborts.any (fun a => a.1 == p.1) then none
  else if e.spec then
    if e.again ≠ 0 || !room (if e.dup then 2 else 1) || decide ((if low then 512 else 511) ≤ c.commits.length) then none
    else match s.pickSlots cl 1 e.dup, Map.firstFree c.commits 512 with
      | some ts, some ce => some (s.start dk cl p.1 e ts (some ce) none)
      | _, _ => none
  else if !s.eligible dk e.vt then none
  else
    let bar := if e.width = 1 then some none else (s.barrierFree cl low).map some
    match (if room (if e.dup then 2 * e.width else e.width) then s.pickSlots cl e.width e.dup else none), bar with
    | some ts, some b => some (s.start dk cl p.1 e ts none b)
    | some _, none => none
    | none, _ =>
      if !c.aborts.isEmpty then none
      else
        let victims := sortVT (fun (x : Nat × TaskEntry) => x.2.vt) (c.queue.filter (fun x =>
          x.2.spec && (x.2.st == .running || x.2.st == .waiting) && !s.isLowest dk x.2.vt))
        (victims.getLast?).map (fun v => s.requestAbort ⟨cl, v.1, v.2.run.toNat⟩ .requeue)
/-- TASK_DISPATCH (R147): queued entries, lowest VT first; the first that can start does. -/
def State.tryDispatch (s : State) (cl : Nat) : Option State :=
  match s.domainOf cl with
  | none => none
  | some dk =>
    let q := sortVT (fun (x : Nat × TaskEntry) => x.2.vt) ((s.cluster cl).queue.filter (fun x => x.2.st == .queued))
    q.findSome? (s.dispatchOne dk cl)

/-- A posted write of a thread that a home holds, with its place in the queue of its line. -/
structure Held where
  o : HeldBy
  r : Req
  l : Loc
  e : TlbEntry
  bad : Bool
/-- What becomes of a posted write of a thread: it is performed and recorded at its home (R152), a part of a poisoned word is not written
(R106), or the home holds it, after asking for the aborts that it needs. The flag says that it needs the irrevocable path. -/
def State.postedWrite (s : State) (t : Tid) (p : Held) : Bool × State :=
  match s.atHome t p.o p.r p.l p.e with
  | .done s q => (false, if q.partialPoison then s.addMchk (some p.e.dom) (s.mchkOf t 2 (p.r.x / 8 * 8) 0) else s)
  | .hold s => (false, s)
  | .full s => (false, s)
  | .gone s => (false, s)
  | .irrevocable s => (true, s)
/-- The posted writes of a thread that homes hold, oldest first at each home. -/
def State.postedOf (s : State) (t : Tid) : List Held :=
  s.clusters.flatMap (fun c => c.2.lineQueue.filterMap (fun w => match w.by_ with
    | .posted u _ r l e => if u = t then some ⟨w.by_, r, l, e, w.bad⟩ else none
    | .thread _ => none
    | .fill _ _ => none
    | .writeBack _ _ => none
    | .engine _ => none
    | .reload _ => none))
/-- The places of a thread in the queues of lines go, those of its posted writes too. -/
def State.leaveQueues (s : State) (t : Tid) : State :=
  s.clusters.foldl (fun (acc : State) e =>
    let q := e.2.lineQueue.filter (fun w => match w.by_ with
      | .posted u _ _ _ _ => u != t
      | .thread u => u != t
      | .fill _ _ => true
      | .writeBack _ _ => true
      | .engine _ => true
      | .reload _ => true)
    if q.length = e.2.lineQueue.length then acc else acc.setCluster e.1 { acc.cluster e.1 with lineQueue := q }) s
/-- A thread that waits for its own access gives up its places in the queues of lines; its posted writes keep theirs (R153, R337). -/
def State.leaveHomes (s : State) (t : Tid) : State :=
  s.clusters.foldl (fun (acc : State) e =>
    let q := e.2.lineQueue.filter (fun w => w.by_ != .thread t)
    if q.length = e.2.lineQueue.length then acc else acc.setCluster e.1 { acc.cluster e.1 with lineQueue := q }) s
/-- A thread stops for an abort (R153): its accesses that have not left the core are withdrawn, its slot is freed. Its posted writes reach their
homes first, where what cannot be performed yet counts as performed and undone (log entry 49). -/
def State.stopThread (s : State) (t : Tid) : State :=
  let cl := clusterOf t.core
  let s := ((s.postedOf t).foldl (fun acc p => (acc.postedWrite t p).2) s).leaveQueues t
  let s := if (s.thread t).dup then s.setThread ⟨t.core, t.slot + 7⟩ {} else s
  let s := s.setThread t {}
  let s := s.clusters.foldl (fun (acc : State) e =>
    if e.2.waiters.any (fun w => w.t == t) then
      acc.setCluster e.1 { acc.cluster e.1 with waiters := (acc.cluster e.1).waiters.filter (fun w => w.t != t) }
    else acc) s
  let c := s.cluster cl
  s.setCluster cl { c with
    faults := c.faults.map (fun e => (e.1, { e.2 with waiters := e.2.waiters.filter (fun u => u != t) }))
    hostReqs := c.hostReqs.filter (fun q => q.thread != some t) }
/-- Whether a run appears in a line record. -/
def LineRec.names (r : LineRec) (id : RunId) : Bool := r.readers.any (fun a => a.id == id) || r.writer.any (fun a => a.id == id)
/-- A line record without a run's entries. -/
def LineRec.drop (r : LineRec) (id : RunId) : LineRec :=
  { r with readers := r.readers.filter (fun a => a.id != id), writer := if r.writer.any (fun a => a.id == id) then none else r.writer
           probe := if r.probe.any (fun p => p.1 == id) then none else r.probe }
/-- A line record that holds nothing. -/
def LineRec.empty (r : LineRec) : Bool := r.readers.isEmpty && r.writer.isNone && r.ovf.isNone && r.probe.isNone
/-- The access records of a run leave the homes of a domain (R149, R153). -/
def State.purge (s : State) (dk : Nat) (id : RunId) : State :=
  (s.domain dk).clusters.foldl (fun (acc : State) k =>
    let c := acc.cluster k
    if c.lines.any (fun e => e.2.names id || e.2.probe.any (fun p => p.1 == id)) then
      acc.setCluster k { c with lines := (c.lines.map (fun e => (e.1, e.2.drop id))).filter (fun e => !e.2.empty) }
    else acc) s
/-- The uncommitted speculative tasks of a cluster, later than `v`, whose read signature hits a line (R151). -/
def State.hitBy (s : State) (cl : Nat) (v : VT) (y : Nat) : List RunId :=
  (s.cluster cl).queue.filterMap (fun e =>
    if e.2.spec && v.lt e.2.vt && (e.2.commit.bind (Map.find (s.cluster cl).commits)).any (fun c => c.reads y) then
      some ⟨cl, e.1, e.2.run.toNat⟩ else none)
/-- The dependants of a run (R153): later readers of the lines it wrote, by record or, for lines with OVF, by signature. -/
def State.dependants (s : State) (dk : Nat) (id : RunId) (v : VT) : List RunId :=
  let cs := (s.domain dk).clusters
  cs.flatMap (fun k => (s.cluster k).lines.flatMap (fun e =>
    if e.2.writer.any (fun a => a.id == id) then
      (e.2.readers.filter (fun a => a.id != id && v.lt a.vt)).map (fun a => a.id)
        ++ (if e.2.ovf.isSome then cs.flatMap (fun q => s.hitBy q v (e.2.va / 64)) else [])
    else []))
/-- The homes apply the undo records of a commit entry, last first (R146, R153). -/
def State.undo (s : State) (dk cl ce : Nat) : State :=
  let va := s.undoVa dk cl ce
  let n := (s.domRead dk va 2).getD 0
  let s := (List.range n).reverse.foldl (fun (acc : State) i =>
    let base := va + 32 + 80 * i
    let line := (acc.domRead dk base 8).getD 0
    let tags := (acc.domRead dk (base + 8) 8).getD 0
    match locate acc cl dk line {} true with
    | .at l e =>
      let acc := acc.beforeWrite e
      let m := (List.range 8).foldl (fun (m : Store) j => m.write (l.addr + 8 * j) 8 ((acc.domRead dk (base + 16 + 8 * j) 8).getD 0)) (acc.store l.space)
      acc.setStore l.space ((List.range 4).foldl (fun (m : Store) j => m.setTag (l.addr + 16 * j) (decide (tags / 2 ^ j % 2 = 1))) m)
    | _ => acc) s
  s.setUndoCount dk va 0
/-- The children of a run are cancelled (R153): queued ones and those in flight go, others are aborted, spilled ones are listed. -/
def State.cancelChildren (s : State) (dk : Nat) (id : RunId) : State :=
  (s.domain dk).clusters.foldl (fun (acc : State) k =>
    let c := acc.cluster k
    let kids := c.queue.filter (fun e => e.2.parent == some id)
    let gone := (kids.filter (fun e => e.2.st == .queued)).map Prod.fst
    let acc := acc.setCluster k { c with queue := c.queue.filter (fun e => !gone.contains e.1), flying := c.flying.filter (fun f => f.parent != some id) }
    let acc := (kids.filter (fun e => e.2.st != .queued)).foldl (fun a e => a.requestAbort ⟨k, e.1, e.2.run.toNat⟩ .cancel) acc
    acc.listCancel dk k id) s
/-- What becomes of a task whose aborts merge (R153, Table 7-8): a parent's abort or a discarding TABT ends it. -/
def AbortMode.merge (m p : AbortMode) : AbortMode :=
  match p with
  | .requeue => m
  | .moveTo _ => m
  | .cancel => .cancel
  | .discard => .discard
/-- The abort of the task in a queue entry (R153), and what becomes of the task (Table 7-8); an abort that was requested for it merges with
this one. -/
def State.abortTask (s : State) (dk cl k : Nat) (e : TaskEntry) (m : AbortMode) : State :=
  let id : RunId := ⟨cl, k, e.run.toNat⟩
  let m := (((s.cluster cl).aborts.find? (fun a => a.1 == k)).map (fun a => m.merge a.2)).getD m
  let s := s.setCluster cl { s.cluster cl with aborts := (s.cluster cl).aborts.filter (fun a => a.1 != k) }
  let s := e.threads.foldl State.stopThread s
  -- what the thread's own writes asked for is this abort (R153)
  let s := s.setCluster cl { s.cluster cl with aborts := (s.cluster cl).aborts.filter (fun a => a.1 != k) }
  let s := (s.dependants dk id e.vt).foldl (fun acc i => acc.requestAbort i .requeue) s
  let s := match e.commit with
    | some ce =>
      let s := s.undo dk cl ce
      s.setCluster cl { s.cluster cl with commits := Map.del (s.cluster cl).commits ce }
    | none => s
  let s := (s.purge dk id).cancelChildren dk id
  let drop := fun (s : State) => s.setCluster cl { s.cluster cl with queue := Map.del (s.cluster cl).queue k }
  match m with
  | .requeue => s.modTask id (fun e => { e with st := .queued, run := e.run + 1, again := 1, threads := [], commit := none, bar := none })
  | .cancel => drop s
  | .discard => drop s
  | .moveTo dest =>
    let f : FlyRec :=
      { rcd := e.rcd, vt := e.vt, parent := e.parent, target := dest, issuer := none, d := 0, wait := false, run := e.run + 1, ran := true }
    let s := drop s
    s.fly dest f
/-- TASK_ABORT of a queue entry that an abort was requested for. -/
def State.tryAbort (s : State) (cl k : Nat) : Option State :=
  let c := s.cluster cl
  match c.aborts.find? (fun a => a.1 == k), s.domainOf cl with
  | some a, some dk =>
    match Map.find c.queue k with
    | some e => some (s.abortTask dk cl k e a.2)
    | none => some (s.setCluster cl { c with aborts := c.aborts.filter (fun x => x.1 != k) })
  | _, _ => none

/-- Whether a thread has no outstanding acknowledgement of the kinds of R173, nor a posted write (R169). -/
def State.quiet (s : State) (t : Tid) : Bool :=
  let co := s.core t.core
  co.fifo.all (fun q => q.issuer != t) && co.inflight.all (fun e => e.2.issuer != t) && (s.thread t).cmdsOut == 0
    && (s.ownRows t).all (fun e => e.2.isRefused) && !(co.portA.toList ++ co.portB.toList).any (fun p => p.owner == t && p.closing)
    && s.released t && !s.hasPosted t
/-- Whether the matrix unit holds an operation of a thread. -/
def State.streaming (s : State) (t : Tid) : Bool := (s.core t.core).ops.any (fun o => o.issuer == t && !o.cmd)
/-- TEND closes the streams its thread has open, and its subscriptions leave (R296, R298); its dirty lines are on their way. -/
def State.tendLeave (s : State) (t : Tid) : State :=
  let co := s.core t.core
  let shut := fun (p : Option Port) => p.map (fun v => if v.owner = t && !v.closing then { v with closing := true, ap := (s.thread t).ap } else v)
  let mine := co.subs.filter (fun b => b.owner == t)
  s.setCore t.core (({ co with
    portA := shut co.portA, portB := shut co.portB
    subs := co.subs.filter (fun b => b.owner != t)
    joins := co.joins ++ mine.map (fun b => ⟨b.tag.toNat, false, t⟩) } : Core).drain (fun e => writes e.2.writers t.slot))
/-- The end of a thread that waits for its acknowledgements (R169, R257, R348): none while one is missing. `silent` drops refused
rows instead of raising ACCABS. -/
def State.tryEnd (s : State) (t : Tid) (silent : Bool) : Option State :=
  let s' := s.tendLeave t
  let h := s.thread t
  if s' != s then some s'
  else if s.streaming t || !s.quiet t || (s.core t.core).joins.any (fun j => j.t == t) || !h.rx.isEmpty then none
  else
    let n := (s.refusedRows t).length
    if n ≠ 0 && !silent then some (s.as t (fun s => (s.setCur { s.cur with status := .running }).raise ⟨.accabs, n⟩))
    else
      let s := (s.dropRefused t).outboxWake t.core
      let s := match h.matrixPoison with
        | some a => s.addMchk (s.domainOfCore t.core) (s.mchkOf t 5 a 0)
        | none => s
      some (s.endThread t)

end Sys2Proof.Machine
end

