-- ==== Sys2Proof/Machine/Tasks.lean ====
section
/-!
DEFINITION. Task instructions (major 0x18, R166 to R173), the Belvedere round, commit and domain completion (R155 to R165), and
the events of the speculative engine.
-/
namespace Sys2Proof.Machine

/-- The record that TENQ reads, as a speculative load when the task is speculative, which is irrevocable when it is routed to scratch outside
the private frame (R167). -/
def State.recordRead (s : State) (x : Nat) (base : RegNum) (permD : Bool) : Except State (Nat × List Bool × Option Nat × State) :=
  if s.cur.spec && (scratchOf (s.domainAt s.turn.core) x).any (fun o => !s.inOwnFrame o 64) then .error (s.parkWaiting .irrevocable)
  else s.blockRead x 64 base permD
/-- The device checks a record and sends it to its cluster; the thread parks until the reply (R138, R139, R141, R167).
The machine check of kind 8 has address 0, as no rule names one (log entry 50). -/
def State.sendRecord (s : State) (d : RegNum) (r : TaskRec) (wait : Bool) : State :=
  let cl := clusterOf s.turn.core
  let dk := (s.domainOfCore s.turn.core).getD 0
  if r.tooWide then s.enqStatus d r.hint 2
  else match s.tiebreak dk cl s.cur.vt.tb with
  | none => (s.addMchk (some dk) (s.mchkOf s.turn 8 0 0)).enqStatus d r.hint 3
  | some (n, tb) =>
    let s := s.setCluster cl { s.cluster cl with ctr := BitVec.ofNat 54 n }
    let dest := s.place dk cl r
    let f : FlyRec :=
      { rcd := r, vt := ⟨wordOf (r.get 0 8), tb⟩, parent := s.cur.task, target := dest, issuer := some s.turn, d := d, wait := wait }
    (s.fly dest f).park (.tenqSent d wait r.hint)
/-- TENQ and TENQW (R167). -/
def State.enqueue (s : State) (d a b : RegNum) (wait : Bool) : State :=
  let c := s.reg a
  let ts := s.word b
  s.checked (checkAccess c a.val c.addr 64 [permL, permQ]) (fun s => s.drained (fun s =>
    if ts.toNat < s.cur.vt.ts.toNat then s.raise ⟨.tsback, ts.toNat⟩
    else
      let go := fun (s : State) => match s.recordRead c.addr a (c.has permD) with
        | .error s => s
        | .ok (_, _, some p, s) => s.raise ⟨.poison, p⟩
        | .ok (v, tags, none, s) =>
          let tag := fun (i : Nat) => (c.has permLC && (tags[i + 1]?).getD false).toNat * 2 ^ i
          let r : TaskRec := { bytes := BitVec.ofNat 512 v, tags := BitVec.ofNat 3 (tag 0 + tag 1 + tag 2) }
          s.sendRecord d (r.withTs ts) wait
      if s.cur.spec then go s else s.release .device .again go))
/-- TENQ (R167). -/
def execTenq (d a b : RegNum) (s : State) : Out := .next (s.enqueue d a b false)
/-- TENQW (R167). -/
def execTenqw (d a b : RegNum) (s : State) : Out := .next (s.enqueue d a b true)
/-- TEND (R169): ACCABS while refused rows are held; then the thread waits for its acknowledgements and ends. -/
def execTend (s : State) : Out := .next (s.drained (fun s => s.noRefused (fun s => (s.tendLeave s.turn).park (.tendAcks false))))
/-- TABT (R170): a speculative task is aborted; a thread of another one ends as by TEND. -/
def execTabt (a : RegNum) (s : State) : Out := .next (s.drained (fun s =>
  match s.cur.spec, s.cur.task with
  | true, some id => (s.requestAbort id (if wbit (s.word a) 0 then .discard else .requeue)).park .aborting
  | _, _ => (s.tendLeave s.turn).park (.tendAcks true)))
/-- TIRV (R171). -/
def execTirv (s : State) : Out := .next (s.drained (fun s => s.irrevocably (fun s => (s.setCur { s.cur with irv := true }).finish)))
/-- The virtual time that TVT reads (R172). -/
def State.vtOf (s : State) (sel : Fin 2) : VT :=
  if sel = 0 then s.cur.vt
  else match (s.domainAt s.turn.core).round with
    | none => {}
    | some r => r.u.getD ⟨BitVec.allOnes 64, BitVec.allOnes 64⟩
/-- TVT (R172). -/
def execTvt (d : RegNum) (sel : Fin 2) (s : State) : Out := .next (s.drained (fun s =>
  let v := s.vtOf sel
  (s.writeQuad d (quadOf v.tb v.ts)).finish))
/-- CSIG (R173). -/
def execCsig (d a b : RegNum) (s : State) : Out := .next (
  s.checked (checkAccess (s.reg a) a.val (s.reg a).addr 8 [permL, permS, permA]) (fun s => s.drained (fun s => s.irrevocably (fun s =>
    if !s.quiet s.turn then (s.setCore s.turn.core (s.ownCore.drain (fun e => writes e.2.writers s.turn.slot))).park .acks
    else s.release .system .again (fun s =>
      let c := s.reg a
      s.access { op := .csig (s.word b) d, x := c.addr, base := a, permD := c.has permD } false)))))

/-- The lowest of a list of virtual times. -/
def leastVT (l : List VT) : Option VT :=
  l.foldl (fun acc v => match acc with
    | none => some v
    | some u => some (if v.lt u then v else u)) none
/-- Whether a finished entry commits once `u` is the frontier (R156). -/
def State.commits (s : State) (cl : Nat) (u : Option VT) : List (Nat × TaskEntry) :=
  let c := s.cluster cl
  (sortVT (fun (e : Nat × TaskEntry) => e.2.vt) (c.queue.filter (fun e => e.2.st == .finished && !c.aborts.any (fun a => a.1 == e.1)
    && (match u with
      | some v => e.2.vt.lt v
      | none => true)))).take 256
/-- The virtual times of a domain's uncommitted speculative tasks, without those that this round commits (R155). -/
def State.speculative (s : State) (dk : Nat) (u : Option VT) : List VT :=
  let d := s.domain dk
  d.clusters.flatMap (fun k =>
    let c := s.cluster k
    let going := (s.commits k u).map Prod.fst
    (c.queue.filter (fun e => e.2.spec && !going.contains e.1)).map (fun e => e.2.vt)
      ++ c.blocks.flatMap (fun b => (b.recs.filter (fun r => r.1.spec)).map (fun r => r.2.1))
      ++ (c.flying.filter (fun f => f.rcd.spec)).map (fun f => f.vt))
    ++ ((s.heldRecords dk).filter (fun f => f.rcd.spec)).map (fun f => f.vt)
    ++ (d.ingress.filter TaskRec.spec).map (fun r => ⟨d.raiseTs (wordOf (r.get 0 8)), 0⟩)
/-- The cores of a domain. -/
def Domain.cores (d : Domain) : List Nat := d.clusters.flatMap (fun k => (List.range 64).map (fun i => 64 * k + i))
/-- The cores of a domain that the state lists. -/
def State.coresIn (s : State) (dk : Nat) : List Nat :=
  (s.cores.map Prod.fst).filter (fun c => (s.domain dk).holds (clusterOf c))
/-- The threads of a domain that the state lists. -/
def State.threadsIn (s : State) (dk : Nat) : List Tid :=
  (s.threads.map (fun e => tidOf e.1)).filter (fun t => (s.domain dk).holds (clusterOf t.core))
/-- Whether no task is left in a domain, but for those that the round commits, and nothing is outstanding (R165); a detached supervisor counts
as committed (R331). -/
def State.empty (s : State) (dk : Nat) : Bool :=
  let d := s.domain dk
  d.clusters.all (fun k => let c := s.cluster k
      c.queue.all (fun e => e.2.detached || e.2.st == .finished) && c.blocks.isEmpty && c.flying.isEmpty && c.contexts.isEmpty)
    && (s.heldRecords dk).isEmpty && d.ingress.isEmpty && (s.threadsIn dk).all (fun t => !(s.thread t).live || (s.thread t).detached || s.quiet t)
/-- Whether the stores of a line are all those of detached supervisors, for which domain completion never waits (R331). -/
def State.detachedOnly (s : State) (c : Nat) (writers : BitVec 16) : Bool :=
  writers != 0 && (List.range 16).all (fun i => !writes writers i || (s.thread ⟨c, i⟩).detached)
/-- Whether every store of a domain is acknowledged, the landing threads' included (R165), but for those of detached supervisors (R331). -/
def State.allReleased (s : State) (dk : Nat) : Bool :=
  (s.coresIn dk).all (fun c => (s.core c).l1.all (fun e => e.2.dirty == 0 || s.detachedOnly c e.2.writers)
    && (s.owed c).all (fun w => s.detachedOnly c w.l.writers))
/-- BELVEDERE_SAMPLE (R155): the round samples every cluster of the domain. -/
def execBelvedereSample (s : State) : Out := .next (
  let dk := s.ev.domain
  let d := s.domain dk
  if (Map.find s.domains dk).isNone then s
  else
    let u := leastVT (s.unfinished dk)
    let empty := s.empty dk && d.busy
    let r : Round :=
      { u := u, s := leastVT (s.speculative dk u)
        ctr := d.clusters.foldl (fun a k => if a.toNat < (s.cluster k).ctr.toNat then (s.cluster k).ctr else a) 0
        occ := d.clusters.map (fun k => (s.cluster k).queue.length)
        spillFree := d.clusters.map (fun k => (s.freeBlock dk k).isSome)
        empty := empty
        quiet := empty && s.allReleased dk }
    -- the completion release puts what is left on its way
    let s := if empty then (s.coresIn dk).foldl (fun acc c => acc.setCore c ((acc.core c).drain (fun _ => true))) s else s
    let s := d.clusters.foldl (fun (acc : State) k =>
      let c := acc.cluster k
      acc.setCluster k { c with queue := c.queue.map (fun e => (e.1, { e.2 with again := if e.2.again = 1 then 2 else e.2.again })) }) s
    s.setDomain dk { s.domain dk with sample := some r, arrived := false })
/-- A finished task commits (R156). -/
def State.commitTask (s : State) (dk cl : Nat) (p : Nat × TaskEntry) : State :=
  let id : RunId := ⟨cl, p.1, p.2.run.toNat⟩
  let s := match p.2.commit with
    | some ce =>
      let s := s.setUndoCount dk (s.undoVa dk cl ce) 0
      s.setCluster cl { s.cluster cl with commits := Map.del (s.cluster cl).commits ce }
    | none => s
  let s := (s.purge dk id).unlink dk cl p.1
  s.setCluster cl { s.cluster cl with queue := Map.del (s.cluster cl).queue p.1 }
/-- Whether the completion capability and its word can be used (R165). -/
def State.completionOk (s : State) (dk : Nat) (c : CReg) : Bool :=
  c.tag && c.otype == 0 && c.has permL && c.has permS && c.has permA && c.inBounds c.addr 8 && decide (c.addr % 8 = 0)
    && (match locate s ((s.domain dk).clusterAt 0) dk c.addr { r := true, w := true } (c.has permD) with
      | .at l _ => ((s.store l.space).poisoned l.addr 8).isNone
      | _ => false)
/-- The interrupt of a completion goes behind the device's writes to host pages, once the host has completed them (R376). -/
def State.postMsix (s : State) (dk : Nat) : State :=
  let d := s.domain dk
  match d.msix with
  | none => s
  | some v =>
    if d.clusters.any (fun k => (s.cluster k).hostReqs.any (fun q => match q with
      | .wrote _ => true
      | _ => false)) then s
    else { s.setDomain dk { d with msix := none } with hostOut := s.hostOut ++ [.msix v] }
/-- Domain completion (R165, R376): the add to the completion word, the interrupt, and the counters at zero; the domain's locked lines are
released (R105, log entry 43). -/
def State.complete (s : State) (dk : Nat) : State :=
  let d := s.domain dk
  let c := d.descCap 48
  let s := s.devNeeds dk c.addr 8 true
  let s := if s.completionOk dk c then s.devWrite dk c.addr 8 (((s.domRead dk c.addr 8).getD 0 + 1) % 2 ^ 64)
    else s.addMchk (some dk) { kind := 14, addr := c.addr }
  let v := d.desc 100 2
  let s := d.clusters.foldl (fun (acc : State) k => acc.setCluster k { acc.cluster k with ctr := 0, pinned := [] }) s
  (s.setDomain dk { s.domain dk with busy := false, msix := if v / 2 ^ 15 % 2 = 1 then some (v % 2 ^ 11) else none }).postMsix dk
/-- Whether a round reports a free spill block for a cluster. -/
def Round.frees (r : Round) (d : Domain) (cl : Nat) : Bool := (r.spillFree[d.indexOf cl]?).getD false
/-- The parked TENQWs and the head of the ingress buffer send their records again (R145, R375). -/
def State.resendRecords (s : State) (dk : Nat) (r : Round) : State :=
  let d := s.domain dk
  let fly := fun (s : State) (f : FlyRec) => s.fly f.target f
  let s := (s.threads.map (fun e => tidOf e.1)).foldl (fun (acc : State) t =>
    match (acc.thread t).wait with
    | some (.tenqHeld f) =>
      if (acc.thread t).domain = some dk && r.frees d f.target then
        (fly acc f).setThread t { acc.thread t with status := .parked (.tenqSent f.d f.wait f.rcd.hint) }
      else acc
    | _ => acc) s
  match d.ingressHead with
  | some (f, false) => if r.frees d f.target then fly (s.setDomain dk { s.domain dk with ingressHead := some (f, true) }) f else s
  | _ => s
/-- What a round result does at one cluster (R139, R149, R151, R156, R330): records below its U are those of committed tasks, and the lowest-VT
task may take the barrier entry kept for it (R175). With `keep` every ctr stays (R165). -/
def State.roundAt (s : State) (dk : Nat) (r : Round) (keep : Bool) (cl : Nat) : State :=
  let s := (s.commits cl r.u).foldl (fun acc p => acc.commitTask dk cl p) s
  let c := s.cluster cl
  let past := fun (v : VT) => match r.u with
    | some u => v.lt u
    | none => true
  let s := s.setCluster cl { c with
    ctr := if !keep && decide (c.ctr.toNat < r.ctr.toNat) then r.ctr else c.ctr
    queue := c.queue.map (fun e => (e.1, { e.2 with again := if e.2.again = 2 then 0 else e.2.again }))
    lines := (c.lines.map (fun e => (e.1, { e.2 with
      readers := e.2.readers.filter (fun a => !past a.vt), writer := e.2.writer.filter (fun a => !past a.vt)
      ovf := e.2.ovf.filter (fun o => !past o.2) }))).filter (fun e => !e.2.empty) }
  let s := (s.threadsIn dk).foldl (fun (acc : State) t =>
    if clusterOf t.core = cl && (acc.thread t).wait == some .barrierEntry && acc.isLowest dk (acc.thread t).vt then acc.retry t else acc) s
  (s.cluster cl).faults.foldl (fun acc e => acc.postFault cl e.1) s
/-- ROUND_RESULT (R156): the sampled round takes effect at every cluster of its domain. -/
def State.tryRound (s : State) (dk : Nat) : Option State :=
  let d := s.domain dk
  match d.sample with
  | none => none
  | some r =>
    let s := s.setDomain dk { d with round := some r, sample := none }
    let s := d.clusters.foldl (fun acc k => acc.roundAt dk r (r.empty && d.arrived) k) s
    let s := s.resendRecords dk r
    let left := d.clusters.any (fun k => (s.cluster k).queue.any (fun e => !e.2.detached))
    some (if r.quiet && !d.arrived && !left then s.complete dk else s)

/-- A task that has become strictly eligible turns non-speculative, and thread `t` of it, whose core acquires, does `k` (R159). None while it
is not, or is to be aborted; one that has turned so already does `k` at once. -/
def State.turnIrrevocable (s : State) (t : Tid) (k : State → State) : Option State :=
  let h := s.thread t
  match h.task, h.domain with
  | some id, some dk =>
    if !h.spec then some (s.as t k)
    else if !s.isLowest dk h.vt || (s.cluster id.cluster).aborts.any (fun a => a.1 == id.entry) then none
    else
      let s := s.modTask id (fun e => { e with spec := false, st := .running })
      let s := s.setThread t { h with spec := false, irv := true }
      some (s.as t (fun s => k (s.acquire .device none false)))
  | _, _ => none
/-- IRREVOCABLE_PASS (R49, R159): the task of a thread parked at an irrevocable action or with a held trap has become strictly
eligible; it issues the action again or takes the trap. Its posted writes have been performed by then. -/
def State.tryPass (s : State) (t : Tid) : Option State :=
  if s.hasPosted t then none
  else match (s.thread t).wait with
  | some .irrevocable => s.turnIrrevocable t (fun s => s.setCur s.cur.again)
  | some (.heldTrap e epc) => s.turnIrrevocable t (fun s => (s.setCur { s.cur with status := .running }).raiseAt epc e)
  | _ => none
/-- HOME_SPECULATIVE_ACCESS for the posted writes of a thread that homes hold (R150, R152): the first of them that can be is performed; one
that needs the irrevocable path gives its machine check, if it has one, once (R146), and makes its task non-speculative once that is strictly
eligible (R152, R159). -/
def State.tryPosted (s : State) (t : Tid) : Option State :=
  (s.postedOf t).findSome? (fun p =>
    match s.postedWrite t p with
    | (false, s') => if s' = s then none else some s'
    | (true, s') =>
      if p.bad then (s.turnIrrevocable t id).map (fun s => (s.postedWrite t p).2)
      else
        let c := s'.cluster p.l.home
        some (s'.setCluster p.l.home { c with lineQueue := c.lineQueue.map (fun w => if w.by_ == p.o then { w with bad := true } else w) }))
/-- HOME_SPECULATIVE_ACCESS (R150): a posted write, or the access of a thread that waits at its home, is checked again. -/
def State.tryHome (s : State) (t : Tid) : Option State :=
  match s.tryPosted t with
  | some s' => some s'
  | none => match (s.thread t).wait with
    | some (.home r) =>
      let s' := s.as t (fun s => (s.setCur { s.cur with status := .running }).homeAccess r)
      if s' = s then none else some s'
    | _ => none
/-- OVF_PROBE (R151): a probe for line `y` by a task of virtual time `v` reaches a cluster, which aborts its later readers. -/
def State.tryProbe (s : State) (cl y : Nat) (v : VT) : Option State :=
  let at_ := fun (r : LineRec) => r.va / 64 == y && r.probe.any (fun p => p.2.1 == v && p.2.2.contains cl)
  match s.clusters.find? (fun e => e.2.lines.any (fun x => at_ x.2)) with
  | none => none
  | some (k, c) =>
    let f := fun (r : LineRec) => if at_ r then { r with probe := r.probe.map (fun p => (p.1, p.2.1, p.2.2.filter (fun q => q != cl))) } else r
    let s := s.setCluster k { c with lines := c.lines.map (fun e => (e.1, f e.2)) }
    some ((s.hitBy cl v y).foldl (fun acc id => acc.requestAbort id .requeue) s)

/-- TASK_RECORD_ARRIVAL (R144). -/
def execTaskRecordArrival (s : State) : Out := s.event (s.tryRecord s.ev.cluster)
/-- TASK_REFILL (R144). -/
def execTaskRefill (s : State) : Out := s.event (s.tryRefill s.ev.cluster)
/-- TASK_DISPATCH (R147). -/
def execTaskDispatch (s : State) : Out := s.event (s.tryDispatch s.ev.cluster)
/-- HOME_SPECULATIVE_ACCESS (R150). -/
def execHomeSpeculativeAccess (s : State) : Out := s.event (s.tryHome s.ev.t)
/-- OVF_PROBE (R151). -/
def execOvfProbe (s : State) : Out := s.event (s.tryProbe s.ev.cluster s.ev.line ⟨s.ev.ts, s.ev.tb⟩)
/-- TASK_ABORT (R153). -/
def execTaskAbort (s : State) : Out := s.event (s.tryAbort s.ev.cluster s.ev.entry)
/-- ROUND_RESULT (R156). -/
def execRoundResult (s : State) : Out := s.event (s.tryRound s.ev.domain)
/-- IRREVOCABLE_PASS (R159). -/
def execIrrevocablePass (s : State) : Out := s.event (s.tryPass s.ev.t)

end Sys2Proof.Machine
end

