-- ==== Sys2Proof/Machine/Resume.lean ====
section
/-!
DEFINITION. The events on which parked threads go on, and the events of the caches, the banks, the matrix unit and the Trellis plane.
-/
namespace Sys2Proof.Machine

/-- A result only when the state has changed. -/
def State.ifNew (s s' : State) : Option State := if s' = s then none else some s'
/-- A parked access of a thread is tried again where it waits, as its one issue. -/
def State.resume (s : State) (t : Tid) (k : State → State) : State := s.as t (fun s => k (s.setCur { s.cur with status := .running }))
/-- The bytes that an event brings, as a number. -/
def State.evBytes (s : State) (n : Nat) : Nat := (List.range n).foldl (fun a i => a + ((s.ev.bytes[i]?).getD 0).toNat * 256 ^ i) 0

/-- The page requests that the ring of a thread's domain holds (R331). -/
def State.ringPending (s : State) (t : Tid) : Nat :=
  match s.domainOfCore t.core with
  | none => 0
  | some dk =>
    let base := (s.domain dk).ctxa.toNat
    ((s.domRead dk base 8).getD 0 + 2 ^ 64 - (s.domRead dk (base + 8) 8).getD 0) % 2 ^ 64
/-- What reading the ring's indices lacks (R380, R382). -/
def State.ringNeeds (s : State) (t : Tid) : State :=
  match s.domainOfCore t.core with
  | none => s
  | some dk => s.devNeeds dk (s.domain dk).ctxa.toNat 16 false
/-- Whether the line that a block instruction waits for can be read now (R118, R380, R382): then the instruction issues again; else what the
home asks for meanwhile. -/
def State.tryBlockLine (s : State) (t : Tid) (x : Nat) : Option State :=
  let cl := clusterOf t.core
  let changed := fun (s' : State) => if s' = s then none else some s'
  match s.domainOfCore t.core with
  | none => some (s.retry t)
  | some dk => match locateOld s cl dk x { r := true } true (fun v => v.threads.any (fun p => p.1 == t)) with
    | .at l _ =>
      if s.owes t.core (x / 64) || (l.space != .host && !s.withHome cl l.home) then none
      else if (s.thread t).spec then some (s.retry t)
      else if l.space = .host then
        match s.hostRead cl dk x l.addr with
        | (true, _) => some (s.retry t)
        | (false, s') => changed s'
      else match (if l.flat then s.flatClear l false else s.homeClear dk (.thread t) l x false) with
        | (true, s) => some (s.retry t)
        | (false, s') => changed s'
    | _ => some (s.retry t)
/-- The issuing thread's access to another module is refused: CONTAINED with its fabric address (R383). -/
def State.fabricRefused (s : State) (t : Tid) (dev addr : Nat) : State :=
  (s.dropReads t).as t (fun s => (s.setCur { s.cur with status := .running }).raise ⟨.contained, s.fabricAddr dev addr⟩)
/-- Another module answers a block instruction's read of a line (R383). -/
def State.tryBlockPeer (s : State) (t : Tid) (x dev addr : Nat) : Option State :=
  if !s.ev.peer then none
  else if s.ev.full then some (s.fabricRefused t dev addr)
  else s.ev.line64.map (fun f => (s.setThread t { s.thread t with blockBuf := Map.set (s.thread t).blockBuf (x / 64) f }).retry t)
/-- The bytes that another module answers an access with (R383). -/
def MemOp.answerBytes (op : MemOp) : Nat :=
  match op with
  | .store _ _ => 0
  | .storeCap _ => 0
  | .stf _ => 0
  | .stx _ => 0
  | .strel _ _ => 0
  | .sigrst => 0
  | .load _ n _ => n
  | .loadCap _ _ => 16
  | .lde _ => 8
  | .ldf _ => 8
  | .fec _ => 8
  | .feq _ => 8
  | .atomic _ n _ _ _ _ _ _ => n
  | .ldacq _ _ => 128
  | .sigmrg _ => 128
  | .csig _ _ => 8
/-- The answer of another module to an access (R383): its words are full (R102), it has no tags, and AFADD raises the flags of its sum (R132). -/
def State.peerAnswer (s : State) (r : Req) : Resp :=
  let v := s.evBytes r.op.answerBytes
  { v := match r.op with
      | .feq _ => 1
      | _ => v
    tag := match r.op with
      | .fec _ => true
      | _ => false
    fl := match r.op with
      | .atomic op n x cmp _ _ _ rm => (atomicNew op n v x cmp rm).2
      | _ => 0
    poison := ((List.range 16).find? (fun i => s.ev.value.getLsbD i && decide (8 * i < r.op.size))).map (fun i => r.x / 8 * 8 + 8 * i)
    sig := BitVec.ofNat 768 (v / 256 ^ 32), sat := decide (v / 2 ^ 99 % 2 = 1) }
/-- DATA_ARRIVAL (R18, R93, R380, R383): the data that a thread waits for is there. A line must have been filled, a host request
answered; what another module answers comes with the event (`full` says that it refuses). A HALT goes on when its ring is not empty (R340). -/
def State.tryData (s : State) (t : Tid) : Option State :=
  match (s.thread t).wait with
  | some (.load r) =>
    match s.l1Load t.core r with
    | some p => some (s.resume t (fun s => s.deliver r r.x p))
    | none =>
      if NatSet.has (s.core t.core).fills (r.x / 64) then none
      else some (s.setCore t.core { s.core t.core with fills := NatSet.ins (s.core t.core).fills (r.x / 64) })
  | some (.host r) =>
    if (s.cluster (clusterOf t.core)).hostReqs.any (fun q => q.thread == some t) then none
    else s.ifNew (s.resume t (fun s => s.homeAccess r))
  | some (.fabric r dev addr) =>
    if !s.ev.peer then none
    else if s.ev.full then some (s.resume t (fun s => s.raise ⟨.contained, s.fabricAddr dev addr⟩))
    else if s.ev.bytes.length < r.op.answerBytes then none
    else some (s.resume t (fun s => s.replied r r.x (s.peerAnswer r)))
  | some (.blockLine x) => s.tryBlockLine t x
  | some (.blockPeer x dev addr) => s.tryBlockPeer t x dev addr
  | some .bread => s.tryBread t
  | some (.chain d h _ _ _) =>
    if handleDev h == s.devnum.toNat || !s.ev.peer then none
    else if s.ev.full then some (s.resume t (fun s => s.raise ⟨.contained, h.toNat % 2 ^ 32⟩))
    else some (s.resume t (fun s => s.chainStatusTo d h s.ev.value.toNat))
  | some (.halt d) =>
    let n := s.ringPending t
    if n = 0 then s.ifNew (s.settled (s.ringNeeds t))
    else some (s.resume t (fun s => (s.writeWord d (wordOf n)).finish))
  | _ => none
/-- WAKE_MESSAGE (R18, R330, R332): the fault entry that held the thread is free; the instruction issues again in full. -/
def State.tryWake (s : State) (t : Tid) : Option State :=
  match (s.thread t).wait with
  | some (.fault cl k) =>
    if (Map.find (s.cluster cl).faults k).any (fun f => f.waiters.contains t) then none else some (s.retry t)
  | _ => none
/-- A write to another module is refused, and its request leaves the port: a write-back is discarded with a machine check of kind 11 (R332), the
request of a write of the transfer engine ends in error (R289, R383). -/
def State.peerRefused (s : State) (q : PeerReq) : State :=
  match q with
  | .write c w _ => s.addMchk (s.domainOfCore c) { kind := 11, addr := 64 * w.line, core := c, cycle := (s.core c).cycle }
  | .engine c k x _ _ => match Map.find (s.core c).inflight k with
    | some r => s.sourceGone c k r x
    | none => s
  | .line c y d a => s.dropFill c y (some (s.fabricAddr d a))
  | .fetch c y d a => (List.range 16).foldl (fun (acc : State) i => if (acc.thread ⟨c, i⟩).wait = some (.fetch y) then
      acc.fetchTrap ⟨c, i⟩ ⟨.contained, s.fabricAddr d a / 64 * 64 + (acc.thread ⟨c, i⟩).pcc.addr % 64⟩ else acc) s
/-- Another module acknowledges the oldest write to it that a port has had no answer to, or refuses it (R109, R383). -/
def State.peerAck (s : State) (cl dev : Nat) (refused : Bool) : Option State :=
  let sent := fun (q : PeerReq) => q.dev == dev && (q.back.isSome || q.engineOf.isSome)
  ((s.cluster cl).peerReqs.find? sent).bind (fun q =>
    -- the acknowledgement of a write-back that is not PRE is logged (Table 16-3)
    let note : Option Logged := (q.back.filter (fun w => !w.2.l.pre)).map (fun w => .wbAck w.1 w.2.line)
    let s' := match s.domainOf cl with
      | some dk => s.throughPort dk cl s.ev.port 1 (dev * 2 ^ 16) note
      | none => some s
    s'.map (fun s =>
      let s := s.setCluster cl { s.cluster cl with peerReqs := (s.cluster cl).peerReqs.erase q }
      if refused then s.peerRefused q else s))
/-- HOME_ACKNOWLEDGEMENT (R109): what a thread waits for is acknowledged, or its next lines are put on their way. -/
def State.tryAck (s : State) (t : Tid) : Option State :=
  let c := t.core
  let more := fun (p : Nat × L1Line → Bool) => s.ifNew (s.setCore c ((s.core c).drain p))
  match (s.thread t).wait with
  | some (.release k) =>
    match k with
    | .cacheRange inv lo hi =>
      if s.rangeClean c lo hi then some (s.resume t (fun s => s.rangeEnd inv lo hi))
      else more (fun e => decide (lo ≤ e.1) && decide (e.1 < hi))
    | .mem r => if s.released t then some (s.resume t (fun s => s.access r false)) else more (fun e => writes e.2.writers t.slot)
    | .fence sets sc => if s.released t then some (s.resume t (fun s => s.fenceEnd sets sc)) else more (fun e => writes e.2.writers t.slot)
    | .again => if s.released t then some (s.retry t) else more (fun e => writes e.2.writers t.slot)
    | .arrive => if s.released t then some (s.retry t) else more (fun e => writes e.2.writers t.slot)
  | some (.ackMem r) => s.ifNew (s.resume t (fun s => s.homeAccess r))
  | some .writeQueue => if (s.core c).wbq.length < 8 then some (s.retry t) else none
  | some .acks => if s.quiet t then some (s.retry t) else more (fun e => writes e.2.writers t.slot)
  | some (.tendAcks quiet) => s.tryEnd t quiet
  | _ => none
/-- FE_WAITER_RESEND (R100). -/
def State.tryResendWaiter (s : State) (t : Tid) : Option State :=
  match (s.thread t).wait with
  | some (.waiterFull r) => s.ifNew (s.resume t (fun s => s.homeAccess r))
  | _ => none
/-- FAULT_ENTRY_RETRY (R330): a fault entry is free, or its page has one by now. -/
def State.tryFaultEntry (s : State) (t : Tid) : Option State :=
  let cl := clusterOf t.core
  match (s.thread t).wait with
  | some (.faultFull x) =>
    if (Map.firstFree (s.cluster cl).faults 64).isSome || (s.domainOfCore t.core).any (fun dk => (s.faultOf cl dk x).isSome) then some (s.retry t) else none
  | _ => none
/-- MESH_SCRATCH_REQUEST (R87): a remote scratch access wins its bank. -/
def State.tryMesh (s : State) (t : Tid) : Option State :=
  match (s.thread t).wait with
  | some (.mesh r) => match scratchOf (s.domainAt t.core) r.x with
    | none => none
    | some o =>
      if (r.op.isWrite && s.uncopied o) || !s.withHome (clusterOf t.core) (clusterOf (scratchCore o)) then none
      else match s.as t (fun s => (s.bankLost o).getD s) with
        | s' => if s' = s then some (s.resume t (fun s => s.bankAccess r o)) else some s'
  | _ => none
/-- RX_ACCESS_PERFORM (R91): outstanding access `k` of a thread is performed, no earlier one being to the same word. A load's register is present
then, for an RTAKE that waits for it (R189) and for the post of an ELECT (R186). -/
def State.tryRx (s : State) (t : Tid) (k : Nat) : Option State :=
  let h := s.thread t
  match h.rx[k]? with
  | none => none
  | some e =>
    let r := e.r
    if (h.rx.take k).any (fun q => decide (q.r.x < r.x + r.op.size) && decide (r.x < q.r.x + q.r.op.size)
        || (wordsOf q.r.x q.r.op.size).any (fun w => (wordsOf r.x r.op.size).contains w)) then none
    else match scratchOf (s.domainAt t.core) r.x with
      | none => none
      | some o =>
        if (r.op.isWrite && s.uncopied o) || !s.withHome (clusterOf t.core) (clusterOf (scratchCore o)) then none
        else
          let l : Loc := { space := .scratch, addr := o, home := clusterOf (scratchCore o) }
          let p := s.performPlain t r.op l none
          let s := p.1
          let h := { s.thread t with rx := (s.thread t).rx.eraseIdx k }
          let h := match r.op with
            | .load d n sgn =>
              let v : Quad := if n = 16 then BitVec.ofNat 128 p.2.v
                else (if sgn then sextBytes n p.2.v else wordOf p.2.v).setWidth 128
              let h := h.setReg d { val := v }
              match p.2.poison with
              | some w => { h with poisonPend := Map.set h.poisonPend d.val ⟨.poison, r.x + w - o⟩ }
              | none => h
            | _ => h
          let s := ((s.setThread t h).electLanded t).takePresent t
          some (if p.2.partialPoison then s.addMchk (s.domainOfCore t.core) (s.mchkOf t 2 (r.x / 8 * 8) 0) else s)
/-- OMEGA_REQUEST (R86): an omega request meets a bank; when the core's own instruction wants the bank too, the loser of the
bank's previous conflict wins, and the other request is lost. -/
def State.omega (s : State) (c bank : Nat) (own : Bool) : State :=
  let co := s.core c
  let b := (1 : BitVec 8) <<< (bank % 8)
  if !own then s
  else if co.omegaWins &&& b = 0 then s.setCore c { co with omegaWins := co.omegaWins ||| b, omegaLost := co.omegaLost ||| b }
  else s.setCore c { co with omegaWins := co.omegaWins &&& ~~~b, ownLost := co.ownLost ||| b }
/-- LINE_PORT_PRIORITY (R88): the word requests that a line-port access displaces are lost. -/
def State.linePort (s : State) (c bank : Nat) : State :=
  let co := s.core c
  let b := (1 : BitVec 8) <<< (bank % 8)
  s.setCore c { co with ownLost := co.ownLost ||| b, omegaLost := co.omegaLost ||| b }
/-- LINE_FILL (R93). The answer of another module to a fill that nobody waits for any more is dropped. -/
def State.tryLine (s : State) (c line : Nat) : Option State :=
  if NatSet.has (s.core c).fills line then s.ifNew (s.fillLine c line)
  else if s.ev.peer then 
    let k := s.cluster (clusterOf c)
    s.ifNew (s.setCluster (clusterOf c) { k with peerReqs := k.peerReqs.filter (fun q => q.lineOf != some (c, line)) })
  else none
/-- The oldest write-back of a core that waits at its port after a page's wake is tried again (R332). -/
def State.tryRetryWb (s : State) (c : Nat) : Option State :=
  let cl := clusterOf c
  match (s.cluster cl).retryWbs.find? (fun p => p.1 == c) with
  | none => none
  | some p =>
    let k := s.cluster cl
    match (s.setCluster cl { k with retryWbs := k.retryWbs.erase p }).writeBackNow c p.2 with
    | .done s1 => some s1
    | .stays s1 => s.ifNew (s1.setCluster cl { s1.cluster cl with retryWbs := p :: (s1.cluster cl).retryWbs })
/-- WRITE_BACK (R95): the oldest write-back of a core reaches its home, those that its port holds after a wake first. -/
def State.tryWriteBack (s : State) (c : Nat) : Option State :=
  match s.tryRetryWb c with
  | some s' => some s'
  | none => match (s.core c).wbq with
    | [] => none
    | w :: r => match (s.setCore c { s.core c with wbq := r }).writeBackLine c w with
      | .done s1 => some s1
      | .stays s1 => s.ifNew (s1.setCore c { s1.core c with wbq := w :: (s1.core c).wbq })

/-- TABLE_BUILD (R206): the load at the head of the table engine's queue ends; it waits while its image is read or a matrix
operation names its table. -/
def State.tryTable (s : State) (c : Nat) : Option State :=
  let co := s.core c
  match co.engine with
  | [] => none
  | l :: r =>
    if co.ops.any (fun o => o.names l.n) then none
    else l.image.map (fun image =>
      let s := s.setCore c { co with engine := r, tables := Map.set co.tables l.n image }
      match (s.thread l.t).wait with
      | some (.table _) => s.resume l.t (fun s => (s.writeWord l.d (Table.summary image)).finish)
      | _ => s)
/-- Whether no acknowledgement that a core sent to a thread's core before `a` is still on its way (R24). -/
def State.ackIsNext (s : State) (t : Tid) (a : CmdAck) : Bool :=
  (List.range 16).all (fun i => (s.thread ⟨t.core, i⟩).cmdAcks.all (fun b => b.core != a.core || decide (a.seq ≤ b.seq)))
/-- MCMD_ACK (R255, R257): acknowledgement `k` of a command reaches its issuer, in the order of its core's sending (R24). -/
def State.tryCmdAck (s : State) (t : Tid) (k : Nat) : Option State :=
  let h := s.thread t
  match h.cmdAcks[k]? with
  | none => none
  | some p =>
    if !s.ackIsNext t p || !s.behind (clusterOf p.core) (clusterOf t.core) p.cut then none
    else
      let s := s.logPacket (clusterOf p.core) (clusterOf t.core) p.cut (.cmdAck t p)
      some ((s.setThread t { h with
        cmdAcks := h.cmdAcks.eraseIdx k, cmdsOut := h.cmdsOut - 1, matrixPoison := if h.matrixPoison.isSome then h.matrixPoison else p.poison }).matrixWake t.core)
/-- A chain request of a thread reaches its target in this module, and the status goes back (R266, R274). -/
def State.tryChain (s : State) (t : Tid) (close : Bool) : Option State :=
  match (s.thread t).wait with
  | some (.chain d h desc clr cl) =>
    if cl != close || handleDev h != s.devnum.toNat || !s.withHome (clusterOf t.core) (clusterOf (handleCore h)) then none
    else
      let r := if close then s.closeChain h else s.openChain h desc clr
      some (r.2.resume t (fun s => s.chainStatusTo d h r.1))
  | _ => none
/-- A chain request of another module reaches its target here (R266, R274). -/
def State.chainFrom (s : State) (close : Bool) : State :=
  let h := s.ev.handle
  if handleDev h != s.devnum.toNat then s
  else
    let r := if close then s.closeChain h else s.openChain h s.ev.desc s.ev.clr
    { r.2 with hostOut := r.2.hostOut ++ [.chainReply h r.1] }
/-- A row of another module reaches its target here through port `port` of the event (R269); the answer goes back. -/
def State.packetArrives (s : State) (p : RowPacket) : State :=
  let cl := clusterOf (handleCore p.handle)
  let sender := (p.senderDev + 1) * 2 ^ 16 + p.senderCore
  let l : Logged := .row p.handle p.row p.anch p.lanes sender 0
  match (match s.domainOf cl with
    | some dk => s.throughPort dk cl s.ev.port 2 (p.senderDev * 2 ^ 16 + clusterOf p.senderCore) (some l)
    | none => some s) with
  | none => s
  | some s1 =>
  if handleDev p.handle != s.devnum.toNat then s
  else
    let r := s1.rowArrives p.handle p.row p.anch p.lanes sender
    { r.2.2 with hostOut := r.2.2.hostOut ++ [.rowAnswer p.senderCore p.senderDev p.handle p.row r.1 r.2.1] }
/-- The answer to row `k` of a core's outbox arrives (R268); another module's answer comes with the event, and a module that no route leads to
any more refuses the row (R269, R385). -/
def State.tryAnswer (s : State) (c k : Nat) : Option State :=
  match Map.find (s.core c).outbox k with
  | none => none
  | some r => match r.st with
    | .answered reason ready late =>
      let from_ := clusterOf (handleCore r.handle)
      if handleDev r.handle != s.devnum.toNat then some (s.rowAnswered c k reason ready late)
      else if !s.behind from_ (clusterOf c) r.cut then none
      else some ((s.logPacket from_ (clusterOf c) r.cut (.rowAck c k reason ready late)).rowAnswered c k reason ready late)
    | .sent =>
      if handleDev r.handle == s.devnum.toNat then none
      else if !s.reaches (handleDev r.handle) then some (s.rowAnswered c k 2 true false)
      else if !s.ev.peer || decide (5 < s.ev.value.toNat) then none
      else
        let ready := decide (s.ev.value.toNat ≠ 1)
        let s' := match s.domainOfCore c with
          | some dk => s.throughPort dk (clusterOf c) s.ev.port 2 (handleDev r.handle * 2 ^ 16 + clusterOf (handleCore r.handle))
              (some (.rowAck c k s.ev.value.toNat ready s.ev.full))
          | none => some s
        s'.map (fun s => s.rowAnswered c k s.ev.value.toNat ready s.ev.full)
    | .reserved => none
    | .refused _ _ _ => none
/-- RESUME_NOTICE (R271): the notice of `target` reaches a sender of this module. -/
def State.tryNotice (s : State) (c target : Nat) : Option State :=
  if (s.core target).notices.contains c then
    let s := s.setCore target { s.core target with notices := (s.core target).notices.filter (fun x => x != c) }
    some (s.makeReady c (fun _ r => handleDev r.handle == s.devnum.toNat && handleCore r.handle == target))
  else none

/-- DATA_ARRIVAL (R18). -/
def execDataArrival (s : State) : Out := s.event ((s.tryData s.ev.t).map State.settleAts)
/-- WAKE_MESSAGE (R18). -/
def execWakeMessage (s : State) : Out := s.event (s.tryWake s.ev.t)
/-- HOME_ACKNOWLEDGEMENT (R109): of another module when `peer` is set (R383). -/
def execHomeAcknowledgement (s : State) : Out :=
  s.event ((if s.ev.peer then s.peerAck s.ev.cluster s.ev.target s.ev.full else s.tryAck s.ev.t).map State.settleAts)
/-- FE_WAITER_RESEND (R100). -/
def execFeWaiterResend (s : State) : Out := s.event (s.tryResendWaiter s.ev.t)
/-- FAULT_ENTRY_RETRY (R330). -/
def execFaultEntryRetry (s : State) : Out := s.event (s.tryFaultEntry s.ev.t)
/-- MESH_SCRATCH_REQUEST (R87). -/
def execMeshScratchRequest (s : State) : Out := s.event (s.tryMesh s.ev.t)
/-- RX_ACCESS_PERFORM (R91). -/
def execRxAccessPerform (s : State) : Out := s.event (s.tryRx s.ev.t s.ev.k)
/-- OMEGA_REQUEST (R86, R87). -/
def execOmegaRequest (s : State) : Out := .next (s.omega s.ev.target s.ev.bank s.ev.own)
/-- LINE_PORT_PRIORITY (R88). -/
def execLinePortPriority (s : State) : Out := .next (s.linePort s.ev.core s.ev.bank)
/-- LINE_FILL (R93). -/
def execLineFill (s : State) : Out := s.event ((s.tryLine s.ev.core s.ev.line).map State.settleAts)
/-- WRITE_BACK (R95). -/
def execWriteBack (s : State) : Out := s.event (s.tryWriteBack s.ev.core)
/-- TABLE_BUILD (R206). -/
def execTableBuild (s : State) : Out := s.event (s.tryTable s.ev.core)
/-- MATRIX_OP_START (R241). -/
def execMatrixOpStart (s : State) : Out := s.event (s.matrixStart s.ev.core)
/-- MATRIX_OP_COMPLETE (R242). -/
def execMatrixOpComplete (s : State) : Out := s.event (s.matrixComplete s.ev.core s.ev.k)
/-- MACRO_PARITY_ERROR (R247). -/
def execMacroParityError (s : State) : Out := s.event (s.parityError s.ev.core)
/-- MCMD_ARRIVAL (R255). -/
def execMcmdArrival (s : State) : Out := s.event (s.commandArrives s.ev.core)
/-- MCMD_ACK (R255). -/
def execMcmdAck (s : State) : Out := s.event (s.tryCmdAck s.ev.t s.ev.k)
/-- CHAIN_OPEN_ARRIVAL (R266): of thread `t` when `own` is set, else of another module, as `handle`, `desc` and `clr` say. -/
def execChainOpenArrival (s : State) : Out := if s.ev.own then s.event (s.tryChain s.ev.t false) else .next (s.faleus .chainOpenArrival (fun s => s.chainFrom false))
/-- CHAIN_CLOSE_ARRIVAL (R274): of thread `t` when `own` is set, else of another module, as `handle` says. -/
def execChainCloseArrival (s : State) : Out := if s.ev.own then s.event (s.tryChain s.ev.t true) else .next (s.faleus .chainCloseArrival (fun s => s.chainFrom true))
/-- TRELLIS_ROW_ARRIVAL (R269). -/
def execTrellisRowArrival (s : State) : Out :=
  match s.ev.src with
  | some (.outbox c k) => s.event (s.outboxArrives c k)
  | some (.packet p) => .next (s.faleus .trellisRowArrival (fun s => s.packetArrives p))
  | none => .next s
/-- TRELLIS_ACK_ARRIVAL (R268). -/
def execTrellisAckArrival (s : State) : Out := s.event (s.tryAnswer s.ev.core s.ev.k)
/-- RESUME_NOTICE (R271): of core `target` of this module when `own` is set, else of the core of another module that `handle`
names. -/
def execResumeNotice (s : State) : Out :=
  if s.ev.own then s.event (s.tryNotice s.ev.core s.ev.target)
  else .next (s.faleus .resumeNotice (fun s => s.makeReady s.ev.core (fun _ r =>
    handleDev r.handle == handleDev s.ev.handle && handleCore r.handle == handleCore s.ev.handle && handleDev r.handle != s.devnum.toNat)))
/-- REFUSAL_READY_TIMEOUT (R271). -/
def execRefusalReadyTimeout (s : State) : Out := .next (s.makeReady s.ev.core (fun k r => k == s.ev.k && (match r.st with
  | .refused _ _ late => late
  | .reserved => false
  | .sent => false
  | .answered _ _ _ => false)))

end Sys2Proof.Machine
end

