-- ==== Sys2Proof/Machine/System.lean ====
section
/-!
DEFINITION. System instructions (major 0x30) that act at their issue: software traps, ERET, TLBI, PMIG, HALT, FENCEI and DUPC, and
the requests of PRMT and RSUM (R318 to R336, R343).
-/
namespace Sys2Proof.Machine

/-- Every word of major 0x30 drains and is irrevocable (R91, R318). -/
def State.system (s : State) (k : State → State) : State := s.drained (fun s => s.irrevocably k)
/-- SYSC (R320). -/
def execSysc (imm : BitVec 12) (s : State) : Out := .next (s.system (fun s => s.raise ⟨.syscall, imm.toNat⟩))
/-- TRAP (R320). -/
def execTrap (a : RegNum) (imm : BitVec 12) (s : State) : Out := .next (s.system (fun s =>
  if s.word a = 0 then s.finish else s.raise ⟨.syscall, imm.toNat⟩))
/-- BRK (R320). -/
def execBrk (imm : BitVec 12) (s : State) : Out := .next (s.system (fun s => s.raise ⟨.brk, encodeNat (.brk imm)⟩))
/-- ERET (R322). -/
def execEret (s : State) : Out := .next (s.system (fun s => s.setCur s.cur.leave))
/-- FENCEI (R324). -/
def execFencei (s : State) : Out := .next (s.system (fun s => s.release .device .again (fun s =>
  (s.setCore s.turn.core { s.ownCore with icache := [] }).finish)))

/-- PRMT and RSUM (R336): the request leaves, with its place in its core's sending order (R24), unless its status is known at once; the thread
parks until the core reports. -/
def State.coreRequest (s : State) (d a : RegNum) (w : RegNum → Nat → Wait) : State := s.system (fun s =>
  let c := wfld (s.word a) 0 16
  if (s.core c).contained then s.raise ⟨.contained, c⟩
  else if (s.domainOfCore c).isNone || s.domainOfCore c != s.domainOfCore s.turn.core then (s.writeWord d 2).finish
  else if c = s.turn.core then (s.writeWord d 3).finish
  else
    let k := s.ownCore
    ((s.setCore s.turn.core { k with outNext := k.outNext + 1 }).setCur { s.cur with sysSeq := k.outNext }).park (w d c))
/-- PRMT (R336). -/
def execPrmt (d a : RegNum) (s : State) : Out := .next (s.coreRequest d a .prmt)
/-- RSUM (R336). -/
def execRsum (d a : RegNum) (s : State) : Out := .next (s.coreRequest d a .rsum)

/-- Whether a virtual address lies in the aligned page of `z` bytes that holds `a<56:0>` (R333); size 0 stands for every address. -/
def inPage (a z x : Nat) : Bool := z == 0 || x % 2 ^ 57 / z == a % 2 ^ 57 / z
/-- The write-backs of a core that the host or another module has yet to acknowledge; those that a port holds under R332 count as taken (R337). -/
def State.unanswered (s : State) (c : Nat) : List WriteBack :=
  let k := s.cluster (clusterOf c)
  let mine := fun (p : Nat × WriteBack) => if p.1 = c then some p.2 else none
  k.hostReqs.filterMap (fun q => q.back.bind mine) ++ k.peerReqs.filterMap (fun q => q.back.bind mine) ++ s.lateBacks c
/-- Whether an access of a domain's thread or engine that was translated in a range has yet to be performed and answered (R333): by the host, by
another module, or at the home that holds it. -/
def State.translated (s : State) (dk : Nat) (inr : Nat → Bool) : Bool :=
  (s.threadsIn dk).any (fun t => match (s.thread t).wait with
    | some (.fabric r _ _) => inr (r.x / 64)
    | some (.host r) => inr (r.x / 64)
    | some (.home r) => inr (r.x / 64)
    | some (.blockPeer x _ _) => inr (x / 64)
    | _ => false)
    || (s.domain dk).clusters.any (fun k => (s.cluster k).peerReqs.any (fun q => inr (q.va / 64)))
    || (s.coresIn dk).any (fun c => (s.unanswered c).any (fun w => inr w.line))
    || (s.domain dk).clusters.any (fun k => (s.cluster k).hostReqs.any (fun q => match q with
      | .wrote (.engine _ _ x _) => inr (x / 64)
      | _ => false))
    || (s.domain dk).clusters.any (fun k => (s.cluster k).lineQueue.any (fun w => match w.by_ with
      | .posted _ _ r _ e => e.dom == dk && inr (r.x / 64)
      | .thread _ => false
      | .fill _ _ => false
      | .writeBack _ _ => false
      | .engine _ => false
      | .reload _ => false))
/-- One core's part of TLBI: dirty bytes of the range are written back and acknowledged, misses of it complete under the old entries, its lines
go. False while something of it cannot be performed yet. -/
def State.tlbiCore (s : State) (a z c : Nat) : Bool × State :=
  let co := s.core c
  let inr := fun (y : Nat) => inPage a z (64 * y)
  let r := ((co.l1.map Prod.fst ++ co.wbq.map (fun w => w.line)).filter inr).foldl (fun (acc : Bool × State) y =>
    let f := acc.2.flushLine c y
    (acc.1 && f.1, f.2)) (true, s)
  let s := (co.fills.filter inr).foldl (fun (acc : State) y => acc.fillLine c y) r.2
  let s := (List.range 16).foldl (fun (acc : State) i =>
    match (acc.thread ⟨c, i⟩).wait with
    | some (.load q) => if inr (q.x / 64) then (match acc.l1Load c q with
      | some p => acc.resume ⟨c, i⟩ (fun s => s.deliver q q.x p)
      | none => acc) else acc
    | _ => acc) s
  if !r.1 || (s.core c).fills.any inr || (s.unanswered c).any (fun w => inr w.line) then (false, s)
  else (true, s.setCore c { s.core c with l1 := (s.core c).l1.filter (fun e => !inr e.1) })
/-- The ports of a domain drop the translations that cover a range (R333). -/
def State.dropTlb (s : State) (dk a z : Nat) : State :=
  (s.domain dk).clusters.foldl (fun (acc : State) k =>
    let c := acc.cluster k
    if c.tlb.isEmpty then acc
    else acc.setCluster k { c with tlb := c.tlb.filter (fun e => !(e.dom == dk && (inPage a z e.va || inPage e.va e.size a))) }) s
/-- TLBI.pg and TLBI.all (R333). -/
def State.tlbi (s : State) (a z : Nat) : State := s.system (fun s => s.release .device .again (fun s =>
  match s.domainOfCore s.turn.core with
  | none => s.finish
  | some dk =>
    let r := (s.coresIn dk).foldl (fun (acc : Bool × State) c =>
      let q := acc.2.tlbiCore a z c
      (acc.1 && q.1, q.2)) (true, s)
    if r.1 && !r.2.translated dk (fun y => inPage a z (64 * y)) then (r.2.dropTlb dk a z).finish else r.2.forfeit))
/-- TLBI.pg (R333). -/
def execTlbiPg (a : RegNum) (size : Fin 12) (s : State) : Out := .next (s.tlbi (s.word a).toNat (sizeBytes size.val))
/-- TLBI.all (R333). -/
def execTlbiAll (s : State) : Out := .next (s.tlbi 0 0)
/-- A fault entry is freed (R333): its held write-backs are tried again in their order, from the port, and its threads wake by
WAKE_MESSAGE. -/
def State.freeFault (s : State) (cl k : Nat) : State :=
  let c := s.cluster cl
  match Map.find c.faults k with
  | none => s
  | some f => s.setCluster cl { c with faults := Map.del c.faults k, retryWbs := c.retryWbs ++ f.held }
/-- TLBI.wake (R333): a token of another domain's entry, as of a free one, does nothing. -/
def execTlbiWake (a : RegNum) (s : State) : Out := .next (s.system (fun s => s.release .device .again (fun s =>
  let w := s.word a
  let cl := wfld w 0 10
  let k := wfld w 10 6
  let mine := (Map.find (s.cluster cl).faults k).any (fun f => some f.dom == s.domainOfCore s.turn.core)
  (if mine then s.freeFault cl k else s).finish)))

/-- A place in a line's queue at the line's new home. -/
def HeldBy.rehome (o : HeldBy) (home : Nat) : HeldBy :=
  match o with
  | .posted t k r l e => .posted t k r { l with home := home } e
  | .thread t => .thread t
  | .fill c y => .fill c y
  | .writeBack c y => .writeBack c y
  | .engine c => .engine c
  | .reload c => .reload c
/-- The page's state at its old home moves to the new one: access records, waiters, queues, filtered lines (R335). -/
def State.moveHome (s : State) (old new frame size : Nat) : State :=
  if old = new then s
  else
    let mine := fun (a : Nat) => decide (frame ≤ a) && decide (a < frame + size)
    let key := fun (k : Nat) => k % 2 == 0 && mine (k / 2 * 64)
    let c := s.cluster old
    let n := s.cluster new
    let moved := (c.waiters.filter (fun w => w.loc.space == .hbm && mine w.loc.addr)).map (fun w => { w with loc := { w.loc with home := new } })
    let n := { n with
      lines := (c.lines.filter (fun e => key e.1)).foldl (fun m e => Map.set m e.1 e.2) n.lines
      waiters := n.waiters ++ moved
      lineQueue := n.lineQueue ++ (c.lineQueue.filter (fun w => key w.key)).map (fun w => { w with by_ := w.by_.rehome new })
      snoopOld := n.snoopOld ++ c.snoopOld.filter (fun y => mine (64 * y))
      snoop := (c.snoop.filter (fun e => mine (64 * e.1))).foldl (fun m e => Map.set m e.1 e.2) n.snoop
      biWait := (c.biWait.filter (fun y => mine (64 * y))).foldl NatSet.ins n.biWait }
    let c := { c with
      lines := c.lines.filter (fun e => !key e.1)
      lineQueue := c.lineQueue.filter (fun w => !key w.key)
      waiters := c.waiters.filter (fun w => !(w.loc.space == .hbm && mine w.loc.addr))
      snoop := c.snoop.filter (fun e => !mine (64 * e.1))
      snoopOld := c.snoopOld.filter (fun y => !mine (64 * y))
      biWait := c.biWait.filter (fun y => !mine (64 * y)) }
    (s.setCluster old c).setCluster new n
/-- The move of PMIG, as one step (R335): the leaf's entries, the FHOME entries of the page's frames with their reserved bits
as zero (R5, R381), the state of the
page at its home, and the ports' translations. -/
def State.migrate (s : State) (dk : Nat) (e : TlbEntry) (home : Nat) : State :=
  let frame := pteFrame e.pte
  let s := s.writeLeaf e (e.pte.toNat - pteHome e.pte * 2 ^ 16 + home * 2 ^ 16)
  let fh := fun (m : Store) (i : Nat) =>
    let a := s.fhome.toNat * 4096 + 2 * (frame / 4096 + i)
    m.write a 2 (m.read a 2 / 2 ^ 14 * 2 ^ 14 + home)
  let s := s.physNeeds (s.fhome.toNat * 4096 + 2 * (frame / 4096)) (2 * (e.size / 4096))
  let s := { s with hbm := (List.range (e.size / 4096)).foldl fh s.hbm }
  (s.moveHome (pteHome e.pte) home frame e.size).dropTlb dk e.va e.size
/-- PMIG (R335). -/
def execPmig (d a : RegNum) (home : BitVec 10) (s : State) : Out := .next (s.system (fun s =>
  let x := signed57 (s.word a).toNat
  match s.domainOfCore s.turn.core with
  | none => (s.writeWord d 1).finish
  | some dk =>
    let dom := s.domain dk
    match walkFrom s dk x 5 dom.ptroot.toNat with
    | .error _ => (s.writeWord d 1).finish
    | .ok e =>
      let pinned := (s.cluster (pteHome e.pte)).pinned.any (fun y => decide (pteFrame e.pte ≤ 64 * y) && decide (64 * y < pteFrame e.pte + e.size))
      if pteType e.pte ≠ 0 then (s.writeWord d 1).finish
      else if pinned || !dom.holds home.toNat then (s.writeWord d 2).finish
      else if pteMig e.pte then (s.writeWord d 3).finish
      else s.tries ((s.migrate dk e home.toNat).writeWord d 0).finish))

/-- The first HALT of a width-1 task detaches it (R331): its access records and its commit entry go, and its children are linked
to it no more, as if it had committed. -/
def State.detach (s : State) : State :=
  match s.cur.task, s.domainOfCore s.turn.core with
  | some id, some dk =>
    if s.cur.detached then s
    else match s.taskOf id with
      | none => s
      | some e =>
        let s := match e.commit with
          | some ce =>
            let s := s.setUndoCount dk (s.undoVa dk id.cluster ce) 0
            s.setCluster id.cluster { s.cluster id.cluster with commits := Map.del (s.cluster id.cluster).commits ce }
          | none => s
        let s := ((s.purge dk id).unlink dk id.cluster id.entry).modTask id (fun e => { e with detached := true, commit := none })
        let s := s.setCur { s.cur with detached := true }
        s.setDomain dk { s.domain dk with supervisors := (s.domain dk).supervisors ++ [s.turn] }
  | _, _ => s
/-- HALT (R331). -/
def execHalt (d : RegNum) (s : State) : Out := .next (s.system (fun s =>
  if 2 ≤ s.cur.gsiz.toNat then (s.writeWord d (wordOf (2 ^ 63))).finish
  else s.tries (
    let s := s.detach.ringNeeds s.turn
    let n := s.ringPending s.turn
    if n = 0 then s.park (.halt d) else (s.writeWord d (wordOf n)).finish)))

/-- The pair statistics of a core (R343). -/
def State.pairs (s : State) (d a : RegNum) (clr : Bool) : State := s.system (fun s =>
  let c := wfld (s.word a) 0 16
  if (s.domainOfCore c).isNone || s.domainOfCore c != s.domainOfCore s.turn.core then (s.writeWord d 0).finish
  else
    let n := ((List.range 15).filter (fun i => (s.thread ⟨c, i⟩).live && (s.thread ⟨c, i⟩).dup)).length
    let v := (s.core c).mismatches.toNat + n * 2 ^ 32
    let s := if clr then s.setCore c { s.core c with mismatches := 0 } else s
    (s.writeWord d (wordOf v)).finish)
/-- DUPC, read (R343). -/
def execDupc (d a : RegNum) (s : State) : Out := .next (s.pairs d a false)
/-- DUPC, read and clear (R343). -/
def execDupcClear (d a : RegNum) (s : State) : Out := .next (s.pairs d a true)

end Sys2Proof.Machine
end

