-- ==== Sys2Proof/Machine/Preempt.lean ====
section
/-!
DEFINITION. Pre-emption: context records, the arrival of PRMT and RSUM at a core, and the spill queue (R162, R336 to R340).
-/
namespace Sys2Proof.Machine

/-- A set of register numbers as a mask. -/
def maskOf (l : List Nat) : Nat := l.foldl (fun a i => a ||| 2 ^ i) 0
/-- A step as its 3-bit field. -/
def step3 (k : Int) : Nat := (k.emod 8).toNat
/-- The place at which a context record says that a frame stands: that of an overtaken word, where there is one (log entry 54). -/
def Frame.restPlace (f : Frame) : Nat × Nat := (f.late.toList ++ f.polled).head?.getD (f.replay, f.word)
/-- The frame state word of a context record (Table 15-6). -/
def Frame.stateWord (f : Frame) : Nat :=
  let st := fun i => step3 ((f.steps[i]?).getD 0)
  (f.words.length - 1) + (f.count - 1) * 2 ^ 4 + (st 3 + st 2 * 8 + st 1 * 64 + st 0 * 512) * 2 ^ 11 + f.restPlace.1 * 2 ^ 23 + f.restPlace.2 * 2 ^ 30
    + f.rmode.toNat * 2 ^ 34 + f.satn.toNat * 2 ^ 37 + f.active.toNat * 2 ^ 38 + (!f.active).toNat * 2 ^ 39
/-- The state registers of a context record, in number order (Table 15-6). -/
def contextCsrs : List Csr :=
  [.tstat, .rmode, .tcause, .tval, .tstamp, .ttie, .thint, .grnk, .gsiz, .fmta, .fmtb, .fmto, .sca, .scb, .fflags, .instret]
/-- The fields of a thread's context record that hold data: offset, width, value (Table 15-6). -/
def State.contextFields (s : State) (t : Tid) : List (Nat × Nat × Nat) :=
  let h := s.thread t
  [(560, 4, h.presence.toNat), (564, 4, maskOf ((h.poisonPend.map Prod.fst).filter (fun i => decide (i < 32))))]
    ++ contextCsrs.zipIdx.map (fun e => (568 + 8 * e.2, 8, (s.csrValue t e.1).toNat))
    ++ [(696, 4, h.ap.toNat), (700, 4, h.electCount.toNat), (704, 96, h.own.toNat), (800, 96, h.inh.toNat), (896, 2, h.cnt.toNat),
      (898, 1, h.isat.toNat + 2 * h.tableBound.toNat + 4 * h.detached.toNat)]
    ++ (List.range 8).flatMap (fun i =>
      let c := Map.get ({} : Counter) h.cc i
      [(1024 + 104 * i, 8, c.cnt.toNat + c.sat.toNat * 2 ^ 63), (1024 + 104 * i + 8, 96, c.sig.toNat)])
    ++ (match h.frame with
      | none => []
      | some f => f.words.zipIdx.map (fun e => (1856 + 4 * e.2, 4, e.1.toNat)) ++ [(1920, 8, f.stateWord)])
/-- The capabilities of a context record: offset and value (Table 15-6). -/
def Thread.contextCaps (h : Thread) : List (Nat × CReg) :=
  (List.range 32).map (fun i => (16 * i, h.reg (Fin.ofNat 32 i))) ++ [(512, h.pcc), (528, h.tepc), (544, h.tvec)]
/-- Write a thread's context record at a virtual address of its domain. -/
def State.putContext (s : State) (dk base : Nat) (t : Tid) : State :=
  (s.thread t).contextCaps.foldl (fun acc e => acc.domWriteCap dk (base + e.1) e.2) (s.domFields dk base (s.contextFields t))
/-- Write a thread's context record to a page of its own, which is cleared first. -/
def State.writeContext (s : State) (dk base : Nat) (t : Tid) : State := (s.devWrite dk base 4096 0).putContext dk base t
/-- Where the context of a slot lies (Table 15-4). -/
def State.contextVa (s : State) (dk : Nat) (t : Tid) : Nat :=
  let d := s.domain dk
  d.ctxa.toNat + 0x10000 + (d.indexOf (clusterOf t.core) * 64 + t.core % 64) * 0x10000 + t.slot * 0x1000

/-- What becomes of a wait when the core is pre-empted (R337, R339, R191): it is kept, withdrawn so that the instruction issues
again, or stands for something that must end first. -/
inductive Withdrawal where
  | keep
  | again
  | first
  deriving DecidableEq, Repr
/-- How each wait meets pre-emption (R337). `staged` says that the matrix unit holds the thread's image, `inFrame` that a word of a repeat frame
waits, which completes first but for the waits that R337 withdraws (R234). -/
def Wait.withdrawal (staged inFrame : Bool) : Wait → Withdrawal
  | .fetch _ | .frame | .irrevocable | .heldTrap _ _ | .tendAcks _ | .aborting | .prmt _ _ | .rsum _ _ | .gwait _ => .keep
  | .mesh _ | .host _ | .fabric _ _ _ | .tenqSent _ _ _ | .mcmd _ _ | .chain _ _ _ _ _ | .join _ | .selfTest => .first
  | .staging _ => if staged then .keep else .again
  | .msta _ _ _ _ | .matrix | .arsn _ | .bread => if inFrame then .first else .again
  | .load _ | .ats | .release _ | .waiter _ | .waiterFull _ | .fault _ _ | .faultFull _ | .home _ | .blockLine _ | .blockPeer _ _ _ | .writeQueue | .matrixQueue
  | .fifoFull | .barrierEntry | .outbox | .ackMem _ | .tenqHeld _ | .acks | .garr _ _ | .rtake _ | .elect | .electPost | .cwait _ _ _
  | .tile _ | .table _ | .adrn _ _ | .stream _ _ _ | .cam _ | .migrate _ | .halt _ | .snapDone _ _ => .again
/-- How a live thread of a core meets pre-emption. -/
def State.withdrawal (s : State) (t : Tid) : Withdrawal :=
  match (s.thread t).wait with
  | none => .keep
  | some w => w.withdrawal ((s.core t.core).staged.any (fun o => o.issuer == t)) (s.thread t).inFrame
/-- A context goes back to an LIHH that it has issued, which the word behind it must follow (R70, log entry 53). -/
def Thread.rewound (h : Thread) : Thread :=
  if h.lihhNow.isSome then { h with pcc := h.lihhPc, instret := h.instret - 1, lihhNow := none, lihhPrev := none } else h
/-- A context as it leaves its core: the words of its frame that have issued are complete (R234), and it stands at an LIHH, not behind it (R70). -/
def Thread.leaving (h : Thread) : Thread := h.flushWrites.rewound
/-- The live threads in the general slots of a core. -/
def State.liveOn (s : State) (c : Nat) : List Tid :=
  ((List.range 15).map (fun i => (⟨c, i⟩ : Tid))).filter (fun t => (s.thread t).live)
/-- A thread waits no more for a word's full/empty bit (R100). -/
def State.leaveWaiters (s : State) (t : Tid) : State :=
  s.clusters.foldl (fun (acc : State) e =>
    if e.2.waiters.any (fun w => w.t == t) then
      acc.setCluster e.1 { acc.cluster e.1 with waiters := (acc.cluster e.1).waiters.filter (fun w => w.t != t) }
    else acc) s
/-- The waits of a thread leave the units that know of them (R337). -/
def State.withdraw (s : State) (t : Tid) : State :=
  let cl := clusterOf t.core
  let s := ((s.dropBread t).dropGetr t).leaveHomes t
  let s := s.leaveWaiters t
  let k := s.cluster cl
  let s := s.setCluster cl { k with faults := k.faults.map (fun e => (e.1, { e.2 with waiters := e.2.waiters.filter (fun u => u != t) })) }
  let co := s.core t.core
  let mine := fun (o : CamOp) => match o with
    | .load u _ _ _ _ _ => u == t
    | .probe u _ _ _ _ _ _ => u == t
  let tiles := (co.camq.filter mine).flatMap (fun o => match o with
    | .load _ _ tl _ _ _ => [tl]
    | .probe _ _ o p _ _ _ => [o, p])
  let s := s.setCore t.core { co with camq := co.camq.filter (fun o => !mine o), engine := co.engine.filter (fun l => l.t != t) }
  (tiles.foldl (fun (acc : State) tl => acc.holdTile t.core tl false) s).setThread t { s.thread t with past := false, blockBuf := [] }
/-- What completes first when a core quiesces: the matrix operation, `.rx` accesses and scratch accesses in flight (R337 step 3).
None when none is left. -/
def State.quiesceStep (s : State) (c : Nat) : Option State :=
  (s.matrixComplete c 0).orElse (fun _ =>
    (s.liveOn c).findSome? (fun t =>
      match (s.thread t).wait with
      | some (.mesh _) => s.tryMesh t
      | _ => if (s.thread t).rx.isEmpty then none else (List.range (s.thread t).rx.length).findSome? (s.tryRx t)))
/-- The write-back of a whole L1 (R120, R337 step 6): false while a line cannot be written back yet, or has not been acknowledged. -/
def State.flushAll (s : State) (c : Nat) : Bool × State :=
  let r := (((s.core c).wbq.map (fun w => w.line)) ++ ((s.core c).l1.map Prod.fst)).foldl (fun (acc : Bool × State) y =>
    let r := acc.2.flushLine c y
    (acc.1 && r.1, r.2)) (true, s)
  (r.1 && (r.2.unanswered c).isEmpty, r.2)
/-- A speculative task on the core is aborted, unless it is the domain's lowest-VT task (R337 step 4). -/
def State.abortOn (s : State) (dk : Nat) (t : Tid) : State :=
  let h := s.thread t
  match h.task with
  | none => s
  | some id =>
    if !h.spec || s.isLowest dk h.vt then s
    else match s.taskOf id with
      | some e => s.abortTask dk id.cluster id.entry e .requeue
      | none => s
/-- The PRMT (true) or RSUM of a core that a thread has sent, with its destination. -/
def Thread.requestTo (h : Thread) (c : Nat) : Option (Bool × RegNum) :=
  match h.wait with
  | some (.prmt d k) => if k = c then some (true, d) else none
  | some (.rsum d k) => if k = c then some (false, d) else none
  | _ => none
/-- A PRMT or RSUM that reaches a core next: requests of one core arrive in the order of their sending (R24, R336), those of different cores in any
order, which the event's thread decides. -/
def State.requestOf (s : State) (c : Nat) (prmt : Bool) : Option (Tid × RegNum) :=
  let reqs := s.threads.filterMap (fun e => (e.2.requestTo c).bind (fun q =>
    if (s.core c).requests.any (fun r => r.2.1 == tidOf e.1) then none else some (tidOf e.1, e.2.sysSeq, q)))
  let first := reqs.filter (fun e => e.2.2.1 == prmt && reqs.all (fun o => o.1.core != e.1.core || decide (e.2.1 ≤ o.2.1)))
  ((first.find? (fun e => e.1 == s.ev.t)).orElse (fun _ => first.head?)).map (fun e => (e.1, e.2.2.2))
/-- The status of a request reaches its thread, if that still waits for it. -/
def State.answer (s : State) (r : Tid × RegNum) (v : Nat) : State :=
  match (s.thread r.1).wait with
  | some (.prmt _ _) => s.resume r.1 (fun s => (s.writeWord r.2 (wordOf v)).finish)
  | some (.rsum _ _) => s.resume r.1 (fun s => (s.writeWord r.2 (wordOf v)).finish)
  | _ => s
/-- The oldest request of a core has been performed. -/
def State.requestDone (s : State) (c : Nat) (r : Tid × RegNum) (v : Nat) : State :=
  (s.setCore c { s.core c with requests := (s.core c).requests.drop 1 }).answer r v
/-- A PRMT or RSUM arrives at a core (R336): a PRMT that finds it quiescing, with no RSUM behind that, is answered at once; else it takes its turn. -/
def State.requestArrives (s : State) (c : Nat) (prmt : Bool) : Option State :=
  (s.requestOf c prmt).map (fun r =>
    let co := s.core c
    if prmt && !co.requests.isEmpty && co.requests.all (fun q => q.1) then s.answer r 1
    else s.setCore c { co with requests := co.requests ++ [(prmt, r)] })
/-- PRMT at a core (R337): one step brings it closer to the quiesce, or the contexts are saved. None while it must wait. -/
def State.tryPrmt (s : State) (c : Nat) : Option State :=
  match (s.core c).requests.head?, s.domainOfCore c with
  | some (true, r), some dk =>
    if (s.core c).preempted then some (s.requestDone c r 1)
    else if (s.core c).resuming then none
    else match s.quiesceStep c with
      | some s => some s
      | none =>
        let s := (s.liveOn c).foldl State.pairSync s
        let co := s.core c
        if !(s.liveOn c).all s.pairSettled then none
        else if co.running.isSome || co.mrun.isSome || (!co.camq.isEmpty && (s.tryCam c).isNone) || (s.liveOn c).any (fun t => s.withdrawal t == .first || !(s.thread t).rx.isEmpty || s.hasPosted t) then none
        else
            let s1 := (s.liveOn c).foldl (fun (acc : State) t => acc.abortOn dk t) s
            match s1.flushAll c with
            | (false, s2) => s.ifNew s2
            | (true, s) =>
              -- the running table build and CAM operation complete; the waiting ones are withdrawn
              let s := (s.tryTable c).getD s
              let s := (s.tryCam c).getD s
              let s := (s.liveOn c).foldl (fun (acc : State) t =>
                let w := acc.withdrawal t
                let pair := (acc.trailOf t).isSome
                let acc := acc.withdraw t
                let acc := if acc.foldable t then
                    let acc := (acc.withdraw (trailTid t)).setThread t { (acc.paired t).leaving with status := .preempted none }
                    acc.startTrail t
                  else
                    let k := acc.thread t
                    let acc := match w with
                      | .again => acc.setThread t { k.again.leaving with status := .preempted k.again.wait }
                      | .keep => acc.setThread t { k.leaving with status := .preempted k.leaving.wait }
                      | .first => acc
                    if pair then acc.setThread (trailTid t) { acc.thread (trailTid t) with status := .preempted none } else acc
                let acc := acc.writeContext dk (acc.contextVa dk t) t
                -- both slot records receive the same context
                if pair then acc.writeContext dk (acc.contextVa dk (trailTid t)) t else acc) s
              some (((s.setCore c { s.core c with preempted := true, fills := [] }).tilePt c).requestDone c r 0)
  | _, _ => none
/-- A thread whose context is back at a core goes on, or waits as before, after acquire(device, none) (R120). A GWAIT looks at its phase again; the
arrival of a GSYNC stays applied (R191, log entry 53). -/
def State.goOn (s : State) (t : Tid) : State :=
  s.as t (fun s =>
    let d? := match s.cur.wait with
      | some (.gwait d) => some d
      | _ => none
    match d? with
    | some d => ((s.setCur { s.cur with status := .running }).acquire .device none false).unbroken (fun s => s.withBarrier (fun p s => s.observe d p))
    | none => s.acquire .device none false)
/-- A restored thread goes on, or waits as before (R340); a pair's trailing thread goes on with it. -/
def State.restore (s : State) (t : Tid) : State :=
  let s := if (s.trailOf t).isSome && (match (s.thread (trailTid t)).status with
      | .preempted _ => true
      | _ => false) then s.setThread (trailTid t) { s.thread (trailTid t) with status := .running } else s
  match (s.thread t).status with
  | .preempted none => (s.setThread t { s.thread t with status := .running }).goOn t
  | .preempted (some w) => (s.setThread t { s.thread t with status := .parked w }).goOn t
  | _ => s
/-- RSUM at a core (R340): the spill queue is redelivered packet by packet (chunks by CHUNK_REDELIVERY); then the resume notices
leave and the threads go on together. -/
def State.tryRsum (s : State) (c : Nat) : Option State :=
  match (s.core c).requests.head? with
  | none => none
  | some (true, _) => none
  | some (false, r) =>
    let co := s.core c
    if co.resuming then
      match co.diverted with
      | .put p :: rest => some ((s.setCore c { co with diverted := rest }).applyPut c p)
      | .chunk _ :: _ => none
      | [] =>
        let far := co.refusals.filter (fun x => decide (2 ^ 16 ≤ x))
        let s := s.setCore c { co with resuming := false, refusals := [], notices := co.notices ++ co.refusals.filter (fun x => decide (x < 2 ^ 16)) }
        let s := { s with hostOut := s.hostOut ++ far.map (fun x => HostMsg.resumeNotice (x / 2 ^ 16 - 1) (x % 2 ^ 16) c) }
        some (((s.liveOn c).foldl State.restore s).requestDone c r 0)
    else if co.preempted then some (s.setCore c { co with preempted := false, resuming := true })
    else some (s.requestDone c r 1)

/-- PRMT_ARRIVAL (R336, R337). -/
def execPrmtArrival (s : State) : Out := s.event ((s.requestArrives s.ev.core true).orElse (fun _ => s.tryPrmt s.ev.core))
/-- RSUM_ARRIVAL (R336, R340). -/
def execRsumArrival (s : State) : Out := s.event ((s.requestArrives s.ev.core false).orElse (fun _ => s.tryRsum s.ev.core))
/-- SPILL_QUEUE_RETRY (R339): chunk `k` on its way to the core is sent again, or its oldest put. -/
def execSpillQueueRetry (s : State) : Out := s.event ((s.tryArrive s.ev.core s.ev.k).orElse (fun _ => s.tryPut s.ev.core))

end Sys2Proof.Machine
end

