-- ==== Sys2Proof/Machine/Contain.lean ====
section
/-!
DEFINITION. Containment (R344, R345), machine checks (R348, R349), and detected errors with their self-tests (R346, R347).
-/
namespace Sys2Proof.Machine

/-- The cores of a rectangle, in the package (R344). -/
def Rect.cores (r : Rect) : List Nat :=
  (List.range (r.rowsM1 + 1)).flatMap (fun j => (List.range (r.colsM1 + 1)).map (fun i =>
    let x := r.col + i
    let y := r.row + j
    (y / 8 * 32 + x / 8) * 64 + y % 8 * 8 + x % 8))
/-- Whether a rectangle leaves a domain (R344). -/
def Domain.leaves (d : Domain) (r : Rect) : Bool :=
  decide (r.col < 8 * d.col) || decide (8 * (d.col + d.cols) < r.col + r.colsM1 + 1)
    || decide (r.row < 8 * d.row) || decide (8 * (d.row + d.rows) < r.row + r.rowsM1 + 1)
/-- Whether two rectangles share a core. -/
def Rect.overlaps (a b : Rect) : Bool :=
  decide (a.col ≤ b.col + b.colsM1) && decide (b.col ≤ a.col + a.colsM1) && decide (a.row ≤ b.row + b.rowsM1) && decide (b.row ≤ a.row + a.rowsM1)
/-- The descriptor of a rectangle (R344). -/
def Rect.word (r : Rect) : Nat := r.col + r.row * 2 ^ 8 + r.colsM1 * 2 ^ 16 + r.rowsM1 * 2 ^ 24
/-- The rectangle that a descriptor describes. -/
def rectOf (w : Word) : Rect := { col := wfld w 0 8, row := wfld w 8 8, colsM1 := wfld w 16 8, rowsM1 := wfld w 24 8 }

/-- The fate of the task of a thread inside (R345 step 5): a speculative one is aborted and queued again; a non-speculative one is
queued again with run + 1 and a machine check of kind 9, a gang once its last surviving thread has ended, when the gang is
broken (R192). -/
def State.containTask (s : State) (dk : Nat) (cs : List Nat) (id : RunId) : State :=
  match s.taskOf id with
  | none => s
  | some e =>
    if e.spec then s.abortTask dk id.cluster id.entry e .requeue
    else
      let inside := e.threads.filter (fun t => cs.contains t.core)
      let core := (inside.head?.map (fun t => t.core)).getD 0
      let s := match e.commit with
        | some ce => s.setCluster id.cluster { s.cluster id.cluster with commits := Map.del (s.cluster id.cluster).commits ce }
        | none => s
      let s := (s.purge dk id).modTask id (fun e => { e with commit := none })
      let s := s.addMchk (some dk) { kind := 9, addr := 0, core := core, vt := e.vt, cycle := (s.core core).cycle }
      let s := s.modBarrier (e.bar.map (fun b => (id.cluster, b))) (fun b => { b with broken := some core })
      let s := if e.bar.isNone then
          -- a task without a barrier entry has one thread
          let s := e.threads.foldl State.stopThread s
          s.modTask id (fun e => { e with st := .queued, run := e.run + 1, threads := [], again := 1, detached := false, roomed := false })
        else inside.foldl State.endThread s
      e.threads.foldl (fun (acc : State) t =>
        if cs.contains t.core then acc
        else match (acc.thread t).wait with
          | some (.garr _ _) | some (.gwait _) | some (.release .arrive) | some (.rtake _) | some .elect | some .electPost =>
            acc.resume t (fun s => s.raise ⟨.contained, core⟩)
          | _ => acc) s
/-- What an outside thread takes when its wait is for a core inside of this module, `dev` (R345 step 2). -/
def Wait.containedBy (d : Domain) (dev : BitVec 13) (cs : List Nat) : Wait → Option Nat
  | .mesh r => match scratchOf d r.x with
    | some o => if cs.contains (scratchCore o) then some r.x else none
    | none => none
  | .mcmd _ k => if cs.contains k then some k else none
  | .chain _ h _ _ _ => if handleDev h == dev.toNat && cs.contains (handleCore h) then some (handleCore h) else none
  | .waiter r => match scratchOf d r.x with
    | some o => if cs.contains (scratchCore o) then some r.x else none
    | none => none
  | .waiterFull r => match scratchOf d r.x with
    | some o => if cs.contains (scratchCore o) then some r.x else none
    | none => none
  | .prmt _ k => if cs.contains k then some k else none
  | .rsum _ k => if cs.contains k then some k else none
  | .stream _ cap _ => match scratchOf d cap.addr with
    | some o => if cs.contains (scratchCore o) then some cap.addr else none
    | none => none
  | _ => none
/-- Outside threads: those that wait on a reply from inside take CONTAINED; an `.rx` access to a core inside is answered so, and the
cause is taken as pending poison is (R345 step 2, R91). -/
def State.containOutside (s : State) (dk : Nat) (cs : List Nat) : State :=
  let d := s.domain dk
  (s.threadsIn dk).foldl (fun (acc : State) t =>
    if cs.contains t.core then acc
    else
      let h := acc.thread t
      let lost := h.rx.filter (fun e => (scratchOf d e.r.x).any (fun o => cs.contains (scratchCore o)))
      let acc := if lost.isEmpty then acc else State.electLanded (t := t) <| acc.setThread t { h with
        rx := h.rx.filter (fun e => !lost.contains e)
        poisonPend := lost.foldl (fun (m : Map TrapVal) e => Map.set m (match e.r.op with
          | .load r _ _ => r.val
          | _ => 32) ⟨.contained, e.r.x⟩) h.poisonPend }
      match (acc.thread t).wait.bind (fun w => w.containedBy d s.devnum cs) with
      | some v => (acc.leaveWaiters t).resume t (fun s => s.raise ⟨.contained, v⟩)
      | none => acc) s
/-- The write-backs of a core that its port holds are lost: no home has accepted them (R345 step 4). -/
def State.loseHeld (s : State) (c : Nat) : State :=
  let cl := clusterOf c
  let k := s.cluster cl
  let keep := fun (p : Nat × WriteBack) => p.1 != c
  if (k.faults.all (fun e => e.2.held.all keep)) && k.retryWbs.all keep then s
  else s.setCluster cl { k with faults := k.faults.map (fun e => (e.1, { e.2 with held := e.2.held.filter keep })), retryWbs := k.retryWbs.filter keep }
/-- A core inside is reset (R345 step 3, R244): what it held is lost but the routes of its stream ports, which stay held (R299); commands from
outside that it had accepted are gone, whose issuers may go on to CONTAINED at their MSYNC, and chunks that had landed there end in error. -/
def State.resetCore (s : State) (c : Nat) : State :=
  let co := s.core c
  let s := (List.range 16).foldl (fun (acc : State) i => acc.setThread ⟨c, i⟩ {}) s
  let gone := co.ops.filter (fun o => o.cmd)
  let s := gone.foldl (fun (acc : State) o =>
    let h := acc.thread o.issuer
    acc.setThread o.issuer { h with matrixGone := some c, cmdsOut := h.cmdsOut - 1 }) (s.loseHeld c)
  let chunks := co.landing ++ co.running.toList ++ co.diverted.filterMap (fun x => match x with
    | .chunk ch => some ch
    | .put _ => none)
  let s := chunks.foldl (fun (acc : State) ch =>
    ((acc.chunkEnd ch false).transferError ch.owner.core ch.issuer.slot ch.issuer ch.dst.addr ch.w0).dropRest ch.owner) s
  let s := match s.domainOfCore c with
    | some dk => s.setDomain dk { s.domain dk with joined := (s.domain dk).joined.map (fun (e : Nat × NatSet) => (e.1, NatSet.del e.2 c)) }
    | none => s
  let s := s.setCore c { contained := true, incoming := (s.core c).incoming, mismatches := co.mismatches, outNext := co.outNext
                         portA := (s.core c).portA, portB := (s.core c).portB
                         notices := co.notices ++ co.refusals.filter (fun x => decide (x < 2 ^ 16)) }
  gone.foldl (fun (acc : State) o => acc.matrixWake o.issuer.core) s
/-- Containment of some cores of a domain (R345). -/
def State.contain (s : State) (dk : Nat) (cs : List Nat) : State :=
  let s := s.snapAbort dk
  let s := cs.foldl (fun (acc : State) c => acc.setCore c { acc.core c with contained := true }) s
  let ids := (cs.flatMap (fun c => (s.liveOn c).filterMap (fun t => (s.thread t).task))).eraseDups
  let s := ids.foldl (fun acc id => acc.containTask dk cs id) s
  let s := s.containOutside dk cs
  cs.foldl State.resetCore s
/-- Release (R345): the scratchpads are cleared, and the cores are idle and available. -/
def State.uncontain (s : State) (cs : List Nat) : State :=
  let out := fun (o : Nat) => !cs.contains (scratchCore o)
  let m := s.scratch
  let s := { s with scratch :=
    { bytes := m.bytes.filter (fun c => out c.1), full := m.full.filter (fun w => out (8 * w))
      tags := m.tags.filter (fun g => out (16 * g)), poison := m.poison.filter (fun w => out (8 * w)) } }
  cs.foldl (fun (acc : State) c => acc.setCore c { acc.core c with contained := false }) s
/-- CNTN mode 0 (R344). -/
def execCntnContain (d a : RegNum) (s : State) : Out := .next (s.system (fun s =>
  match s.domainOfCore s.turn.core with
  | none => (s.writeWord d 2).finish
  | some dk =>
    let r := rectOf (s.word a)
    let dom := s.domain dk
    match Map.firstFree dom.rects 4 with
    | none => (s.writeWord d 1).finish
    | some k =>
      if dom.leaves r then (s.writeWord d 2).finish
      else if dom.rects.any (fun e => e.2.overlaps r) then (s.writeWord d 3).finish
      else if r.holds s.turn.core then (s.writeWord d 4).finish
      else
        let s := s.setDomain dk { dom with rects := Map.set dom.rects k r }
        s.tries ((s.contain dk r.cores).writeWord d (wordOf (k * 2 ^ 8))).finish))
/-- CNTN mode 1 (R344). -/
def execCntnRelease (d a : RegNum) (s : State) : Out := .next (s.system (fun s =>
  match s.domainOfCore s.turn.core with
  | none => (s.writeWord d 1).finish
  | some dk =>
    let k := wfld (s.word a) 0 2
    match Map.find (s.domain dk).rects k with
    | none => (s.writeWord d 1).finish
    | some r =>
      let s := s.setDomain dk { s.domain dk with rects := Map.del (s.domain dk).rects k }
      ((s.uncontain r.cores).writeWord d 0).finish))
/-- CNTN mode 2 (R344). -/
def execCntnQuery (d a : RegNum) (s : State) : Out := .next (s.system (fun s =>
  let v := match (s.domainOfCore s.turn.core).bind (fun dk => Map.find (s.domain dk).rects (wfld (s.word a) 0 2)) with
    | some r => r.word + 2 ^ 32
    | none => 0
  (s.writeWord d (wordOf v)).finish))

/-- The fields of a machine-check record (Table 15-9). -/
def Mchk.fields (m : Mchk) : List (Nat × Nat × Nat) :=
  [(0, 8, m.cycle.toNat), (8, 8, m.addr), (16, 1, m.kind), (17, 1, m.cls), (18, 2, m.core), (20, 1, m.slot), (21, 1, m.phys.toNat),
    (22, 2, 0), (24, 8, m.detail.toNat), (32, 8, m.vt.ts.toNat), (40, 8, m.vt.tb.toNat), (48, 16, 0)]
/-- MCHK_DELIVERY (R348): the oldest machine check of a domain is written to the ring, or counted as lost when that is full; the
first detached supervisor that is live takes it. -/
def State.tryMchk (s : State) (dk : Nat) : Option State :=
  let s := s.devNeeds dk ((s.domain dk).ctxa.toNat + 0x10) 0x18 false
  let d := s.domain dk
  match d.mchks with
  | [] => none
  | m :: r =>
    let s := s.setDomain dk { d with mchks := r }
    let base := d.ctxa.toNat
    let prod := (s.domRead dk (base + 0x10) 8).getD 0
    let cons := (s.domRead dk (base + 0x18) 8).getD 0
    if (prod + 2 ^ 64 - cons) % 2 ^ 64 = 256 then
      some (s.devWrite dk (base + 0x20) 8 ((s.domRead dk (base + 0x20) 8).getD 0 + 1))
    else
      let a := base + 0x3000 + 64 * (prod % 256)
      let s := (s.devFields dk a m.fields).devWrite dk (base + 0x10) 8 (prod + 1)
      some (match d.supervisors.find? (fun t => (s.thread t).live && (s.thread t).detached) with
      | none => s
      | some t =>
        let s := s.setThread t { s.thread t with pendMchk := (s.thread t).pendMchk ++ [a] }
        match (s.thread t).wait with
        | some (.halt _) => s.retry t
        | _ => s)

/-- A thread ends as by TABT with a<0> = 1 (R342, R346, R348). -/
def State.endAbruptly (s : State) (t : Tid) : State :=
  let h := s.thread t
  s.setThread t { h with status := .parked (.tendAcks true), frame := none, inFrame := false, electing := none }
/-- An error that cannot be corrected (Table 15-7). -/
def State.lasting (s : State) (site : ErrorSite) (dk : Nat) : State :=
  match site with
  | .memory sp a =>
    let d := match sp with
      | .scratch => s.domainOfCore (scratchCore a)
      | .carved => s.domainOf (a / carveMax)
      | .hbm => some dk
      | .host => some dk
    (s.setStore sp ((s.store sp).setPoison a true)).addMchk d { kind := 1, addr := a, phys := true }
  | .l1 c y w =>
    let co := s.core c
    match Map.find co.l1 y with
    | none => s
    | some l =>
      let mask := byteMask (8 * (w % 8)) 8
      let l := if l.dirty &&& mask = 0 then { l with valid := l.valid &&& ~~~mask, poison := l.poison &&& ~~~((1 : BitVec 8) <<< (w % 8)) }
        else l.spoil (w % 8)
      (s.setCore c { co with l1 := Map.set co.l1 y l }).addMchk (s.domainOfCore c)
        { kind := 1, addr := 64 * y + 8 * (w % 8), core := c, cycle := co.cycle }
  | .icache c y => s.setCore c { s.core c with icache := Map.del (s.core c).icache y }
  | .register r =>
    let t : Tid := if (s.thread r).trail.isSome then ⟨r.core, r.slot - 7⟩ else r
    let h := s.thread t
    if !h.live then s
    else
      let s := s.addMchk (s.domainOfCore t.core) (s.mchkOf r 10 (s.thread r).pc 0)
      if t.slot = 15 then s.handlerEnd t.core true
      else match h.spec, h.task with
        | true, some id => s.requestAbort id .requeue
        | _, _ => s.endAbruptly t
  | .macroCell c => (s.parityError c).getD s
  | .lane c r l =>
    let co := s.core c
    let k := r % 16 * 32 + l % 32
    (s.setCore c { co with acc := Map.set co.acc k { Map.get ⟨0, 0⟩ co.acc k with st := 3 } }).addMchk (s.domainOfCore c)
      { kind := 10, addr := 0, core := c, cycle := co.cycle }
  -- the record of kind 12 comes with the fence, if the test ends in one
  | .link _ => s
/-- A corrected error (Table 15-7, Table 15-8), a flit that was resent among them: nothing changes but that a register row is tested while its
thread parks. -/
def State.corrected (s : State) (site : ErrorSite) : State :=
  match site with
  | .register t => if (s.thread t).status = .running then s.setThread t { s.thread t with status := .parked .selfTest } else s
  | .memory _ _ => s
  | .l1 _ _ _ => s
  | .icache _ _ => s
  | .macroCell _ => s
  | .lane _ _ _ => s
  | .link _ => s
/-- The unit that is tested after an error (R347, Table 15-8); an L1 and the accumulators count with their core's registers (log entry 41). -/
def ErrorSite.unit : ErrorSite → Option TestUnit
  | .memory sp a => some (.memory sp a)
  | .l1 c _ _ => some (.core c)
  | .icache _ _ => none
  | .register t => some (.core t.core)
  | .macroCell c => some (.macroCell c)
  | .lane c _ _ => some (.core c)
  | .link l => some (.link l)
/-- The self-test of a unit begins after an error (R347). -/
def State.beginTest (s : State) (u : Option TestUnit) : State :=
  match u with
  | some u => s.modLodge (fun l => if l.testing.contains u then l else { l with testing := l.testing ++ [u] })
  | none => s
/-- MEMORY_ERROR (R346); `domain` is the domain of an HBM word. -/
def execMemoryError (s : State) : Out := .next (
  match s.ev.site with
  | none => s
  | some site =>
    let s' := s.beginTest site.unit
    s.settled (if s.ev.correctable then s'.corrected site else s'.lasting site s.ev.domain))
/-- What waits for another module through a port that is fenced (R385): peer accesses and chain requests take CONTAINED, writes on their way are
refused, Trellis rows with reason 2. -/
def State.cutLink (s : State) (port : Nat) : State :=
  let gone := fun (dev : Nat) => s.routeByte dev % 16 == port && dev != s.devnum.toNat
  let s := (s.threads.map (fun e => tidOf e.1)).foldl (fun (acc : State) t =>
    match (acc.thread t).wait with
    | some (.fabric _ dev addr) => if gone dev then acc.resume t (fun s => s.raise ⟨.contained, s.fabricAddr dev addr⟩) else acc
    | some (.blockPeer _ dev addr) => if gone dev then acc.fabricRefused t dev addr else acc
    | some (.chain _ h _ _ _) => if gone (handleDev h) then acc.resume t (fun s => s.raise ⟨.contained, h.toNat % 2 ^ 32⟩) else acc
    | _ => acc) s
  let s := s.clusters.foldl (fun (acc : State) e => (e.2.peerReqs.filter (fun q => gone q.dev)).foldl (fun (a : State) q =>
    (a.setCluster e.1 { a.cluster e.1 with peerReqs := (a.cluster e.1).peerReqs.erase q }).peerRefused q) acc) s
  s.cores.foldl (fun (acc : State) e => (acc.core e.1).outbox.foldl (fun (a : State) r =>
    if r.2.st = .sent && gone (handleDev r.2.handle) then a.rowAnswered e.1 r.1 2 true false else a) acc) s
/-- A Faleus link is fenced (R347, R385): what waits on it ends, the snapshots of jobs that use it abort, and the machine check of kind 12
goes to every domain. -/
def State.fenceLink (s : State) (port : Nat) : State :=
  if s.portsFenced.getLsbD port then s
  else
    let s := { (s.cutLink port).settleAts with portsFenced := s.portsFenced ||| ((1 : BitVec 16) <<< port) }
    (s.domains.map Prod.fst).foldl (fun (acc : State) k => (if (acc.domain k).snap.any (fun x => Config.jobPort x.job port) then acc.snapAbort k else acc).addMchk (some k) { kind := 12, addr := port, cls := 3 }) s
/-- The bank of the scratchpads that a row belongs to (R86). -/
def bankKey (a : Nat) : Nat := 8 * scratchCore a + scratchBank a
/-- Whether two units share their spares (Table 15-8): rows of one bank, and otherwise only a unit with itself. -/
def TestUnit.shares : TestUnit → TestUnit → Bool
  | .memory .scratch a, .memory .scratch b => bankKey a == bankKey b
  | u, v => u == v
/-- Whether a spare remains for a unit (Table 15-8): one of 8 rows of a bank of the scratchpads, the one of a core's registers and of its macro, or
of a direction of a link. For rows of a slice and of HBM, whose sub-arrays and repair rows the spec does not count, the event says so. -/
def State.spareLeft (s : State) (u : TestUnit) : Bool :=
  let used := (s.lodge.spares.filter u.shares).length
  match u with
  | .memory .scratch _ => decide (used < 8)
  | .memory _ _ => s.ev.spare
  | .core _ => decide (used < 1)
  | .macroCell _ => decide (used < 1)
  | .link (.faleus p inbound) => !(if inbound then s.portsSpareIn else s.portsSpare).getLsbD p
  | .link (.core _) => decide (used < 1)
/-- A spare takes a unit's place (R347): for a lane of a Faleus port its LINKSTAT bit is set (R385). -/
def State.takeSpare (s : State) (u : TestUnit) : State :=
  let s := s.modLodge (fun l => { l with spared := l.spared + 1, spares := l.spares ++ [u] })
  match u with
  | .link (.faleus p true) => { s with portsSpareIn := s.portsSpareIn ||| ((1 : BitVec 16) <<< p) }
  | .link (.faleus p false) => { s with portsSpare := s.portsSpare ||| ((1 : BitVec 16) <<< p) }
  | _ => s
/-- Whether a record is of an error of a unit (Table 15-9). -/
def Mchk.isOf (m : Mchk) : TestUnit → Bool
  | .memory _ a => m.kind == 1 && m.phys && m.addr == a
  | .core c => m.core == c && (m.kind == 10 || (m.kind == 1 && !m.phys))
  | .macroCell c => m.core == c && m.kind == 4
  | .link (.faleus p _) => m.kind == 12 && m.addr == p && m.core == 0xFFFF
  | .link (.core c) => m.kind == 12 && m.core == c
/-- The class of an error that a self-test has found (R347), written to the records of it that still wait and have none. -/
def State.classify (s : State) (u : TestUnit) (cls : Nat) : State :=
  let mark := fun (m : Mchk) => if m.isOf u && m.cls == 0 then { m with cls := cls } else m
  { s with domains := s.domains.map (fun e => (e.1, { e.2 with mchks := e.2.mchks.map mark })) }
/-- The macros of a core have passed their test, or the spare one has taken a place: B can be read again (R247). -/
def State.macroTested (s : State) (c : Nat) : State :=
  let k := s.core c
  if k.parity = some false then s.setCore c { k with parity := some true } else s
/-- The core of a unit that no spare replaces is fenced as a one-core containment (R347). -/
def State.fenceCore (s : State) (c : Nat) : State :=
  let s := { s with lodge := { s.lodge with fencedCores := NatSet.ins s.lodge.fencedCores c } }
  match s.domainOfCore c with
  | some dk => s.contain dk [c]
  | none => s.setCore c { contained := true }
/-- A unit that has failed its test and has no spare is fenced (R347): a core, the core of a scratchpad's row or of a lane, with a record of kind 12
for a lane, or a Faleus link. A row of a slice or of HBM belongs to no core, and nothing is fenced for it (log entry 41). -/
def State.fenceUnit (s : State) (u : TestUnit) : State :=
  match u with
  | .memory .scratch a => s.fenceCore (scratchCore a)
  | .memory _ _ => s
  | .core c => s.fenceCore c
  | .macroCell c => s.fenceCore c
  | .link (.faleus p _) => s.fenceLink p
  | .link (.core c) => (s.fenceCore c).addMchk (s.domainOfCore c) { kind := 12, addr := 0, cls := 3, core := c, cycle := (s.core c).cycle }
/-- What waits for the test of a unit goes on (Table 15-8): threads parked for a register row, and the reload of B. -/
def State.unitTested (s : State) (u : TestUnit) : State :=
  match u with
  | .core c => (List.range 16).foldl (fun (acc : State) i => if (acc.thread ⟨c, i⟩).wait = some .selfTest then acc.wake ⟨c, i⟩ else acc) s
  | .macroCell c => s.macroTested c
  | .memory _ _ => s
  | .link _ => s
/-- SELF_TEST_COMPLETE (R347): the test that an error began ends. A pass classes the error as transient; a fail as lasting, and the unit is spared or, with no spare left, fenced. -/
def execSelfTestComplete (s : State) : Out := .next (
  match s.ev.unit with
  | none => s
  | some u =>
    let s' := (s.modLodge (fun l => { l with testing := l.testing.erase u })).unitTested u
    if !s.lodge.testing.contains u then s
    else if s.ev.pass then s'.classify u 1
    else if s.spareLeft u then (s'.classify u 2).takeSpare u
    else s.settled ((s'.classify u 3).fenceUnit u))
/-- MCHK_DELIVERY (R348). -/
def execMchkDelivery (s : State) : Out := s.event (s.tryMchk s.ev.domain)

end Sys2Proof.Machine
end

