-- ==== Sys2Proof/Machine/Snapshot.lean ====
section
/-!
DEFINITION. Snapshots (major 0x32 and its events, R352 to R371): the record of a cluster and of a port, markers, the sweep,
completion and abort, and the rollback.
-/
namespace Sys2Proof.Machine

/-- Write `n` bytes at a virtual address of a domain, byte by byte, so that they may cross a page. -/
def State.domBytes (s : State) (dk x n v : Nat) : State :=
  (List.range n).foldl (fun (acc : State) i => acc.domWrite dk (x + i) 1 (v / 256 ^ i % 256)) s
/-- Write fields that may cross a page. -/
def State.domSpread (s : State) (dk base : Nat) (fs : List (Nat × Nat × Nat)) : State :=
  fs.foldl (fun a f => a.domBytes dk (base + f.1) f.2.1 f.2.2) s
/-- Clear `n` blocks of the snapshot area. -/
def State.clearBlocks (s : State) (dk b n : Nat) : State :=
  (List.range n).foldl (fun (acc : State) i => acc.domWrite dk (acc.blockVa dk (b + i)) 4096 0) s

/-- The virtual time that bounds a domain's commits: U of the last round result, past every time when there is none unfinished. -/
def State.frontierVT (s : State) (dk : Nat) : VT :=
  match (s.domain dk).round with
  | none => {}
  | some r => r.u.getD ⟨BitVec.allOnes 64, BitVec.allOnes 64⟩
/-- Open a domain's snapshot (R355, Tables 16-4, 16-5): its own SEQ, cut and full bit, its manifest and its directory entry. `from_`
is the endpoint that sent the first marker and the SNAP that it is of, none for a SNAP of the domain's own; `cycle` the CYCLE that the manifest
holds. A domain whose area has no room aborts. -/
def State.snapOpen (s : State) (dk : Nat) (id : BitVec 32) (full : Bool) (from_ : Option (Nat × Nat × Nat)) (cycle : Word) : State :=
  let d := s.domain dk
  let seq := s.snapHeader dk 24 8 + 1
  let full := full || !d.snap.any (fun x => x.phase == .complete)
  let prev := if full then 0 else s.snapHeader dk 32 8
  let job := s.snapHeader dk 0 4
  let cut := s.frontierVT dk
  let n := d.count
  let s := s.setSnapHeader dk 24 8 seq
  let sn : Snap :=
    { id := id, seq := seq, full := full, cut := cut, job := job, man := 0, prev := prev, parent := from_.map Prod.fst
      origin := (from_.map Prod.snd).getD (dk, seq) }
  let s := s.setDomain dk { d with snap := some sn }
  match s.snapAlloc dk ((128 + 48 * (n + 16) + 4095) / 4096) with
  | (none, s) => s
  | (some b, s) =>
    let s := s.setDomain dk { s.domain dk with snap := (s.domain dk).snap.map (fun (x : Snap) => { x with man := b }) }
    let s := s.clearBlocks dk b ((128 + 48 * (n + 16) + 4095) / 4096)
    let s := s.domFields dk (s.blockVa dk b) [(0, 4, id.toNat), (4, 1, 0), (5, 1, full.toNat), (8, 8, seq), (16, 8, prev),
      (24, 8, cut.ts.toNat), (32, 8, cut.tb.toNat), (40, 4, job), (44, 2, n), (46, 2, 16), (48, 8, cycle.toNat)]
    s.domFields dk (s.blockVa dk 0 + 64 + 16 * (seq % 64)) [(0, 4, id.toNat), (4, 1, 0), (5, 3, 0), (8, 8, b)]

/-- A request as it is run again at rollback (R356, R369): a multicast send whose reads have ended is run again for the subscribers that it has
not completed at. -/
def XReq.again (q : XReq) : XReq :=
  { kind := q.kind, w0 := q.w0, w3 := q.w3, src := q.src, dst := q.dst, srcTile := q.srcTile, dstTile := q.dstTile, idxTile := q.idxTile
    issuer := q.issuer, ap := q.ap, tbase := q.tbase, rows := q.rows, voff := q.voff
    targets := if q.ended then q.targets.map (fun _ => q.parts.map (fun p => p.sub.owner.core)) else none }
/-- The tiles that a CAM operation holds (R308). -/
def CamOp.tiles : CamOp → List TileNum
  | .load _ _ tl _ _ _ => [tl]
  | .probe _ _ o p _ _ _ => [o, p]
/-- The holds of tiles that end because the instructions which took them are issued again, and those that requests take again. -/
def Core.rehold (c : Core) (drop : List TileNum) : Core :=
  let c := drop.foldl (fun c tl => c.hold tl false) c
  let c := ((c.inflight.filter (fun e => e.2.ended)).filterMap (fun e => e.2.idxTile)).foldl (fun c tl => c.hold tl true) c
  { c with tiles := c.tiles.map (fun e => (e.1, { e.2 with pt := e.2.st == .draining && c.heldBy e.1 e.2 != 0 })) }
/-- What a snapshot holds of a core (Table 16-2): without what is in flight, and without a subscription whose join is unanswered,
since its SUBJ issues again; `drop` are the tiles held by instructions that issue again. -/
def Core.image (c : Core) (drop : List TileNum) : Core :=
  { geom := c.geom, anch := c.anch, negEmpty := c.negEmpty, negRow := c.negRow, lhbase := c.lhbase, tilebase := c.tilebase
    tiles := (c.rehold drop).tiles, fifo := c.inflight.map (fun e => e.2.again) ++ c.fifo, handlers := c.handlers
    subs := c.subs.filter (fun b => !c.joins.any (fun j => j.join && j.tag == b.tag.toNat))
    portA := c.portA, portB := c.portB, tables := c.tables, acc := c.acc, btile := c.btile, reload := c.reload, lost := c.lost
    mq := c.mrun.toList.filter (fun o => !o.cmd) ++ c.mq, cq := c.mrun.toList.filter (fun o => o.cmd) ++ c.cq
    staged := c.staged, matSeq := c.matSeq, chains := c.chains, outbox := c.outbox, outNext := c.outNext, cam := c.cam }
/-- The image of a core of the module. -/
def State.coreImage (s : State) (c : Nat) : Core :=
  let rows := (List.range 15).filterMap (fun i => (s.thread ⟨c, i⟩).getr.bind (fun g => if g.rows.isSome then none else some g.rl))
  (s.core c).image ((s.core c).camq.flatMap CamOp.tiles ++ rows)
/-- Whether a wait is recorded as it is, since its instruction has had its effect or waits for something that the record holds too; any other
instruction is issued again in full (R356 step 3). -/
def Wait.recorded (staged : Bool) : Wait → Bool
  | .frame | .irrevocable | .heldTrap _ _ | .tendAcks _ | .aborting | .gwait _ => true
  | .staging _ => staged
  | .fetch _ | .load _ | .mesh _ | .host _ | .ats | .fabric _ _ _ | .release _ | .waiter _ | .waiterFull _ | .fault _ _ | .faultFull _ | .home _
  | .blockLine _ | .blockPeer _ _ _ | .writeQueue | .matrixQueue | .fifoFull | .barrierEntry | .outbox | .ackMem _ | .tenqHeld _ | .tenqSent _ _ _ | .acks
  | .garr _ _ | .rtake _ | .elect | .electPost | .cwait _ _ _ | .tile _ | .table _ | .bread | .matrix | .msta _ _ _ _ | .mcmd _ _
  | .chain _ _ _ _ _ | .adrn _ _ | .arsn _ | .join _ | .stream _ _ _ | .cam _ | .migrate _ | .prmt _ _ | .rsum _ _ | .halt _
  | .snapDone _ _ | .selfTest => false
/-- A thread as it is recorded (R356 step 3): a parked instruction is to be issued again in full, but for a wait whose instruction has had
its effect; a detached thread is not captured. -/
def State.threadImage (s : State) (t : Tid) : Thread :=
  let h := s.slotThread t
  let parked := fun (w : Wait) =>
    if w.recorded ((s.core t.core).staged.any (fun o => o.issuer == t)) then { h with status := .parked w }
    -- a fetch that misses has taken no position (R61)
    else match w with
      | .fetch _ => { h with status := .running }
      | _ => h.again
  let h := match h.status with
    | .parked w => parked w
    | .preempted (some w) => parked w
    | .preempted none => { h with status := .running }
    | .idle => h
    | .running => h
    | .disabled => h
  if h.detached then {} else { h.leaving with getr := none, blockBuf := [], past := false }

/-- The state byte of a slot in a core record (Table 16-7). -/
def Status.byte : Status → Nat
  | .idle => 0
  | .running => 1
  | .parked _ => 2
  | .preempted _ => 2
  | .disabled => 3
/-- The class byte of a B cell (Table 16-7). -/
def NumClass.byte : NumClass → Nat
  | .zero => 0
  | .finite _ => 1
  | .inf false => 2
  | .inf true => 3
  | .nan => 4
/-- An operation of the matrix unit as an instruction, its registers left at 0. -/
def MatKind.instr : MatKind → Instr
  | .mldb _ _ => .mldb 0 0
  | .mldbTile tl => .mldbTile tl
  | .mmv f _ m tl false => .mmv (Fin.ofNat 16 f) 0 (Fin.ofNat 16 (m - 1)) tl
  | .mmv f _ m tl true => .mmvs (Fin.ofNat 16 f) 0 (Fin.ofNat 16 (m - 1)) tl
  | .mrd tl f n clr => .mrd tl (Fin.ofNat 16 f) (Fin.ofNat 16 (n - 1)) clr
  | .mclr f n => .mclr (Fin.ofNat 16 f) (Fin.ofNat 16 (n - 1))
  | .rescale _ => .manc 0 0
  | .asnd f n clr _ => .asnd (Fin.ofNat 16 f) (Fin.ofNat 16 (n - 1)) 0 0 clr
/-- The 8-byte word of an operation's record that is its m0, of a rescale the change of ANCH (Table 16-7). -/
def MatKind.m0 : MatKind → Nat
  | .mmv _ m0 _ _ _ => m0.toNat
  | .rescale delta => (BitVec.ofInt 64 delta).toNat
  | .mldb _ _ | .mldbTile _ | .mrd _ _ _ _ | .mclr _ _ | .asnd _ _ _ _ => 0
/-- Captured formats as one number. -/
def Formats.packed (f : Formats) : Nat :=
  f.fmta.toNat + f.fmtb.toNat * 2 ^ 7 + f.fmto.toNat * 2 ^ 14 + f.sca.toNat * 2 ^ 21 + f.scb.toNat * 2 ^ 37 + f.rmode.toNat * 2 ^ 53
    + f.satn.toNat * 2 ^ 56
/-- The fields of a queued operation: word, issuer, m0 and captured formats (Table 16-7). -/
def MatOp.recordFields (o : MatOp) : List (Nat × Nat × Nat) :=
  [(0, 4, encodeNat o.kind.instr), (4, 2, o.issuer.core), (6, 1, o.issuer.slot), (8, 8, o.kind.m0), (16, 8, o.fmt.packed)]
/-- The bytes of a B image in the layout of Table 11-3, as far as the 2 KiB of the staging buffer reach (R246; log entry 50). -/
def BImage.recordFields (img : BImage) (f : BitVec 7) : List (Nat × Nat × Nat) :=
  let w := elemBits f
  let nibbles := (List.range 1024).map (fun i => (i, 1, Map.get 0 img.elems (2 * i) % 16 + 16 * (Map.get 0 img.elems (2 * i + 1) % 16)))
  if w = 4 then nibbles ++ img.scales.map (fun e => (1024 + e.1, 1, e.2))
  else (img.elems.filter (fun e => decide ((e.1 + 1) * (w / 8) ≤ 2048))).map (fun e => (e.1 * (w / 8), w / 8, e.2))
/-- The fields of an outbox row's state (Table 16-7): owner slot, reason, ready, awaiting acknowledgement. -/
def OutRow.stateFields (o : OutRow) : List (Nat × Nat × Nat) :=
  let f := match o.st with
    | .reserved => (0, false, false)
    | .sent => (0, false, true)
    | .answered _ _ _ => (0, false, true)
    | .refused reason ready _ => (reason, ready, false)
  [(0, 1, o.owner.slot), (1, 1, f.1), (2, 1, f.2.1.toNat), (3, 1, f.2.2.toNat)]
/-- The fields of a chain slot as far as its 32 bytes reach (log entry 50): key, expected count, F and n, bit 0 open and bit 1 OVER, and the
counts of chain rows 0 to 11. -/
def ChainSlot.recordFields (c : ChainSlot) : List (Nat × Nat × Nat) :=
  [(0, 4, c.key.toNat), (4, 2, c.expected), (6, 1, c.f + 16 * (c.n - 1)), (7, 1, 1 + 2 * c.ovr.toNat)]
    ++ (c.counts.take 12).zipIdx.map (fun e => (8 + 2 * e.2, 2, e.1))
/-- A tile operand of a request as a byte. -/
def tileByte (tl : Option TileNum) : Nat :=
  match tl with
  | some k => 32 + k.val
  | none => 0
/-- The fields of a transfer request: words 0 and 3, issuer slot, kind, tiles and ap (Table 16-7). -/
def XReq.recordFields (q : XReq) : List (Nat × Nat × Nat) :=
  let kind := match q.kind with
    | .copy => 0
    | .strided => 1
    | .multicast => 2
    | .getx => 3
    | .putx => 4
    | .getr => 5
  [(0, 8, q.w0.toNat), (8, 8, q.w3.toNat), (48, 1, q.issuer.slot), (49, 1, kind), (50, 1, tileByte q.srcTile), (51, 1, tileByte q.dstTile),
    (52, 1, tileByte q.idxTile), (56, 4, q.ap.toNat)]
/-- The fields of an open stream port. -/
def Port.recordFields (p : Port) : List (Nat × Nat × Nat) :=
  [(0, 8, p.w0.toNat), (8, 8, p.off), (16, 8, p.got), (48, 1, p.owner.slot), (49, 1, 6), (50, 1, p.hnd.toNat), (51, 1, p.ck), (52, 1, p.cc.val),
    (53, 1, p.closing.toNat), (56, 4, p.ap.toNat)]
/-- The fields at an offset. -/
def fieldsAt (base : Nat) (fs : List (Nat × Nat × Nat)) : List (Nat × Nat × Nat) := fs.map (fun e => (base + e.1, e.2))
/-- The fields of a core record that hold data, but for the contexts and the scratchpad (Table 16-7). The spec gives offsets and contents; the
layout inside an item that it does not give is the model's (log entry 50). -/
def Core.recordFields (c : Core) (dev core : Nat) : List (Nat × Nat × Nat) :=
  (match c.btile with
    | none => []
    | some b => b.cells.flatMap (fun e => [(0x12000 + e.1, 1, (e.2.p.emod 256).toNat), (0x12800 + e.1, 1, e.2.cls.byte)])
        ++ b.exps.map (fun e => (0x13000 + 2 * e.1, 2, (e.2.emod 65536).toNat))
        ++ (match b.source with
          | .tile tl => [(0x13118, 1, 32 + tl.val)]
          | .memory _ w => [(0x13110, 8, w.toNat), (0x13118, 1, 64)]))
    ++ [(0x13120, 8, c.geom.toNat), (0x13128, 2, c.anch.toNat), (0x13130, 8, c.mstat)]
    ++ (c.mq ++ c.cq).zipIdx.flatMap (fun e => fieldsAt (0x13140 + 24 * e.2) e.1.recordFields)
    ++ (match c.staged with
      | some { kind := .mldb img _, fmt := f, .. } => fieldsAt 0x14000 (img.recordFields f.fmtb)
      | _ => [])
    ++ c.acc.map (fun e => (0x14800 + 10 * e.1, 10, e.2.v.toNat + e.2.st.toNat * 2 ^ 72))
    ++ c.outbox.flatMap (fun e => fieldsAt (0x16000 + 384 * e.1) (rowPayload e.2.handle e.2.row e.2.anch core dev e.2.lanes)
        ++ fieldsAt (0x1C000 + 8 * e.1) e.2.stateFields)
    ++ c.chains.flatMap (fun e => fieldsAt (0x1C200 + 32 * e.1) e.2.recordFields)
    ++ c.tiles.flatMap (fun e => [(0x1C300 + 16 * e.1, 8, (c.tileStatus (Fin.ofNat 32 e.1)).toNat), (0x1C308 + 16 * e.1, 4, e.2.rel),
        (0x1C30C + 16 * e.1, 4, e.2.pending)])
    ++ c.cam.flatMap (fun e => [(0x1C500 + 8 * e.1, 4, e.2.key), (0x1C504 + 8 * e.1, 2, e.2.pos), (0x1C506 + 8 * e.1, 1, 1)])
    ++ c.subs.zipIdx.flatMap (fun e => fieldsAt (0x1CD90 + 32 * e.2)
        [(0, 1, e.1.tag.toNat), (1, 1, e.1.hnd.toNat), (2, 1, e.1.ck), (3, 1, e.1.cc.val), (4, 1, e.1.owner.slot), (5, 1, 1)])
    ++ [(0x1CF80, 8, c.negEmpty.toNat + 2 * c.negRow.toNat), (0x1CF88, 8, c.lhbase.toNat * 0x400), (0x1CF90, 8, c.tilebase.toNat * 64)]
    ++ (List.range 4).flatMap (fun n => (c.table n).map (fun e => (0x1D000 + 1024 * n + 4 * e.1, 4, e.2 + 2 ^ 31)))
    ++ c.fifo.zipIdx.flatMap (fun e => fieldsAt (0x1E000 + 64 * e.2) e.1.recordFields)
    ++ (c.portA.toList ++ c.portB.toList).zipIdx.flatMap (fun e => fieldsAt (0x1E000 + 64 * (c.fifo.length + e.2)) e.1.recordFields)
/-- The capabilities of a core record: offset and value (Table 16-7). -/
def Core.recordCaps (c : Core) : List (Nat × CReg) :=
  (match c.btile with
    | some { source := .memory cap _, .. } => [(0x13100, cap)]
    | _ => [])
    ++ (List.range 7).map (fun i => (0x1CD00 + 16 * i, Map.get {} c.handlers (i + 1)))
    ++ c.subs.zipIdx.map (fun e => (0x1CD80 + 32 * e.2, e.1.dst))
    ++ c.fifo.zipIdx.flatMap (fun e => [(0x1E010 + 64 * e.2, e.1.src), (0x1E020 + 64 * e.2, e.1.dst)])
    ++ (c.portA.toList ++ c.portB.toList).zipIdx.map (fun e => (0x1E020 + 64 * (c.fifo.length + e.2), e.1.dst))
/-- Write the core record of core `c` at block `b` (R368): its contexts as the image holds them. -/
def State.writeCoreRecord (s : State) (dk b c : Nat) (co : Core) (ts : List (Nat × Thread)) : State :=
  let base := s.blockVa dk b
  let s := ts.foldl (fun (acc : State) e =>
    let t : Tid := ⟨c, e.1⟩
    let h := acc.thread t
    let at_ := base + 0xA000 + 0x800 * e.1
    let acc := (acc.setThread t e.2).putContext dk at_ t
    (acc.domWrite dk (at_ + 1928) 1 e.2.status.byte).setThread t h) s
  let s := s.domSpread dk base (co.recordFields s.devnum.toNat c)
  co.recordCaps.foldl (fun (acc : State) e => acc.domWriteCap dk (base + e.1) e.2) s
/-- The fields of a barrier entry (Table 16-8). -/
def Barrier.recordFields (b : Barrier) : List (Nat × Nat × Nat) :=
  [(0, 4, b.lc.toNat), (4, 2, b.arrived (b.lc + 1) b.p1.arr), (6, 2, b.arrived (b.lc + 2) b.p2.arr), (8, 6, b.p1.exp.toNat), (14, 6, b.p2.exp.toNat), (20, 6, b.p1.cnt.toNat),
    (26, 6, b.p2.cnt.toNat), (32, 1, b.p1.sat.toNat + 2 * b.p2.sat.toNat + 4 * b.lsat.toNat + 8 * b.late.toNat + 16 * b.ovr.toNat
      + 32 * b.pend.toNat + 64 + 128 * b.broken.isSome.toNat), (34, 2, b.width - 1), (64, 96, b.p1.sig.toNat), (160, 96, b.p2.sig.toNat),
    (256, 96, b.lsig.toNat)]
/-- The task entries of a cluster record: record, virtual time, state, run, parent (R368). -/
def Cluster.taskRecords (c : Cluster) (aborted : List Nat) : List (TaskRec × VT × Nat × Nat × Option RunId) :=
  (c.queue.filter (fun e => !e.2.detached)).map (fun e => (e.2.rcd, e.2.vt,
    (if aborted.contains e.1 then 2 else match e.2.st with
      | .queued => 0
      | .running => 3
      | .waiting => 3
      | .finished => 3), e.2.run.toNat, e.2.parent))
    ++ c.blocks.flatMap (fun b => b.recs.map (fun r => (r.1, r.2.1, 1, 0, r.2.2)))
/-- Write the cluster record at block `b` (R368). -/
def State.writeClusterRecord (s : State) (dk b : Nat) (c : Cluster) (aborted : List Nat) (cycle : Word) : State :=
  let base := s.blockVa dk b
  let u := s.frontierVT dk
  let ts := c.taskRecords aborted
  let s := s.domFields dk base [(0, 8, ts.length), (8, 8, c.ctr.toNat), (16, 8, u.ts.toNat), (24, 8, u.tb.toNat), (32, 8, cycle.toNat)]
  let s := c.bars.foldl (fun (acc : State) e => acc.domSpread dk (base + 0x1000 + 512 * e.1) e.2.recordFields) s
  ts.zipIdx.foldl (fun (acc : State) p =>
    let e := p.1
    let par := match e.2.2.2.2 with
      | some id => id.cluster + id.entry * 2 ^ 16 + id.run % 256 * 2 ^ 32
      | none => 0
    let at_ := base + 0x21000 + 96 * p.2
    let acc := acc.domSpread dk at_ [(0, 64, e.1.written.toNat), (64, 8, e.2.1.tb.toNat), (72, 1, e.2.2.1), (73, 1, e.2.2.2.1), (74, 5, par)]
    (List.range 3).foldl (fun (acc : State) i =>
      if e.1.tags.getLsbD i then acc.domWriteCap dk (at_ + 16 + 16 * i) { val := e.1.bytes.extractLsb' (128 + 128 * i) 128, tag := true } else acc) acc) s

/-- The later of two virtual times. -/
def VT.max (a b : VT) : VT := if a.lt b then b else a
/-- Step 1 of a record (R356): finished tasks below the later of the cut and U commit, and every other uncommitted speculative task is
aborted; the entries that were aborted. -/
def State.recordTasks (s : State) (dk cl : Nat) (cut : VT) : State × List Nat :=
  let lim := cut.max (s.frontierVT dk)
  let c := s.cluster cl
  let fin := sortVT (fun (e : Nat × TaskEntry) => e.2.vt) (c.queue.filter (fun e =>
    e.2.st == .finished && !c.aborts.any (fun a => a.1 == e.1) && e.2.vt.lt lim))
  let s := fin.foldl (fun acc p => acc.commitTask dk cl p) s
  let spec := (s.cluster cl).queue.filter (fun e => e.2.spec && e.2.st != .queued)
  let s := spec.foldl (fun (acc : State) p =>
    match Map.find (acc.cluster cl).queue p.1 with
    | some e => acc.abortTask dk cl p.1 e .requeue
    | none => acc) s
  (s, spec.map Prod.fst)
/-- Step 2 (R356): outstanding `.rx` accesses of a cluster complete. -/
def State.recordDrain (s : State) (cl : Nat) : State :=
  (s.threads.map (fun e => tidOf e.1)).foldl (fun (acc : State) t =>
    if clusterOf t.core = cl then (List.range 4).foldl (fun (a : State) _ => (a.tryRx t 0).getD a) acc else acc) s
/-- The packets in flight from a cluster are those it sent before its record (R358). -/
def State.markCut (s : State) (cl : Nat) : State :=
  let mine := fun (c : Nat) => clusterOf c == cl
  let core := fun (k : Nat) (c : Core) => { c with
    puts := c.puts.map (fun p => { p with cut := p.cut || mine p.src })
    incoming := c.incoming.map (fun h => { h with cut := h.cut || mine h.owner.core })
    portA := c.portA.map (fun v => { v with cut := v.cut || (v.closing && mine k) })
    portB := c.portB.map (fun v => { v with cut := v.cut || (v.closing && mine k) })
    outbox := c.outbox.map (fun e => (e.1, match e.2.st with
      | .sent => { e.2 with cut := mine k || e.2.cut }
      | .answered _ _ _ => { e.2 with cut := e.2.cut || (handleDev e.2.handle == s.devnum.toNat && mine (handleCore e.2.handle)) }
      | .reserved => e.2
      | .refused _ _ _ => e.2)) }
  { s with
    cores := s.cores.map (fun e => (e.1, core e.1 e.2))
    threads := s.threads.map (fun e => (e.1, { e.2 with cmdAcks := e.2.cmdAcks.map (fun a => { a with cut := a.cut || mine a.core }) })) }
/-- The packets in flight that no record has marked, when a snapshot starts, and no acknowledgement behind a marker. -/
def State.clearCut (s : State) (dk : Nat) : State :=
  let core := fun (c : Core) => { c with
    puts := c.puts.map (fun p => { p with cut := false }), incoming := c.incoming.map (fun h => { h with cut := false })
    portA := c.portA.map (fun v => { v with cut := false }), portB := c.portB.map (fun v => { v with cut := false }), late := []
    outbox := c.outbox.map (fun e => (e.1, { e.2 with cut := false })) }
  { s with
    cores := s.cores.map (fun e => if (s.domain dk).holds (clusterOf e.1) then (e.1, core e.2) else e)
    threads := s.threads.map (fun e => if (s.domain dk).holds (clusterOf (tidOf e.1).core) then
      (e.1, { e.2 with cmdAcks := e.2.cmdAcks.map (fun a => { a with cut := false }) }) else e) }
/-- The dirty bytes that a core holds are marked PRE at the pause (R360). -/
def Core.markPre (c : Core) : Core :=
  { c with
    l1 := c.l1.map (fun e => (e.1, { e.2 with pre := e.2.dirty != 0 }))
    wbq := c.wbq.map (fun w => { w with l := { w.l with pre := true } }) }
/-- A cluster records its state (R356, R357): tasks, `.rx` accesses and the running matrix operations end; then the state is captured, the
scratch segments are left to copy, and the home slice arms. -/
def State.recordCluster (s : State) (dk cl : Nat) : State :=
  match (s.domain dk).snap with
  | none => s
  | some sn =>
    if !sn.runs || NatSet.has sn.armed cl then s
    else
      let r := s.recordTasks dk cl sn.cut
      let s := r.1.recordDrain cl
      let cores := (List.range 64).map (fun i => 64 * cl + i)
      let s := cores.foldl (fun (acc : State) c => (acc.matrixComplete c 0).getD acc) s
      let s := cores.foldl (fun (acc : State) c =>
        if (Map.find acc.cores c).isSome then acc.setCore c (acc.core c).markPre else acc) s
      let s := cores.foldl (fun (acc : State) c => (acc.liveOn c).foldl State.pairSync acc) (s.markCut cl)
      let q := s.domain dk |>.indexOf cl
      let c := s.cluster cl
      let n := (c.taskRecords r.2).length
      let cycle := (s.core (64 * cl)).cycle
      match s.snapAlloc dk ((0x21000 + 96 * n + 4095) / 4096) with
      | (none, s) => s
      | (some bc, s) =>
        match s.snapAlloc dk (64 * 32) with
        | (none, s) => s
        | (some bk, s) =>
          let s := (s.clearBlocks dk bc ((0x21000 + 96 * n + 4095) / 4096)).clearBlocks dk bk (64 * 32)
          let threads := (s.threads.filter (fun e => clusterOf (tidOf e.1).core == cl && (tidOf e.1).slot != 15)).map
            (fun e => (e.1, s.threadImage (tidOf e.1)))
          let images := (s.cores.filter (fun e => clusterOf e.1 == cl)).map (fun e => (e.1, s.coreImage e.1))
          let queue : Cluster :=
            { ctr := c.ctr, queue := c.queue.filter (fun e => !e.2.detached), blocks := c.blocks, cancel := c.cancel, bars := c.bars
              flying := c.flying.filter (fun f => f.issuer.isNone) }
          let s := s.writeClusterRecord dk bc c r.2 cycle
          let s := cores.foldl (fun (acc : State) k =>
            acc.writeCoreRecord dk (bk + 32 * (k % 64)) k (Map.get {} images k)
              ((threads.filter (fun e => (tidOf e.1).core == k)).map (fun e => ((tidOf e.1).slot, e.2)))) s
          let s := s.domFields dk (s.blockVa dk sn.man + 128 + 48 * q) [(0, 8, bc), (8, 8, bk)]
          let d := s.domain dk
          let s := s.setDomain dk { d with snap := d.snap.map (fun (x : Snap) =>
            let armed := NatSet.ins x.armed cl
            { x with
              armed := armed
              phase := if d.clusters.all (NatSet.has armed) then .sweeping else x.phase
              segs := cores.foldl (fun m k => Map.set m k (List.range 64)) x.segs
              image := { x.image with
                round := if x.armed.isEmpty then d.round else x.image.round
                threads := threads.foldl (fun m e => Map.set m e.1 e.2) x.image.threads
                cores := images.foldl (fun m e => Map.set m e.1 e.2) x.image.cores
                queues := Map.set x.image.queues cl queue } }) }
          -- packets in the spill queue of a pre-empted core enter the log flagged PRE
          cores.foldl (fun (acc : State) k => (acc.core k).diverted.foldl (fun (a : State) p => match p with
            | .chunk ch => if ch.owner.ordered then a.logAt dk cl (a.devnum.toNat * 2 ^ 16 + clusterOf ch.owner.core) true (.chunk k ch) else a
            | .put pt => a.logAt dk cl (a.devnum.toNat * 2 ^ 16 + clusterOf pt.src) true (.put k pt)) acc) s

/-- Instructions of major 0x32 (R353): drain, checks, irrevocable. -/
def State.snapOp (s : State) (a : RegNum) (k : BitVec 32 → Nat → State → State) : State :=
  s.drained (fun s => s.checked (checkExtent (s.reg a) a.val (s.reg a).addr 1 [permY]) (fun s => s.irrevocably (fun s =>
    s.tries (k ((s.word a).setWidth 32) ((s.domainOfCore s.turn.core).getD 0) s))))
/-- SNAP (R355). -/
def execSnap (d a : RegNum) (full : Bool) (s : State) : Out := .next (s.snapOp a (fun id dk s =>
  if (s.domain dk).snap.any (fun x => x.runs || x.phase == .loc) then (s.writeWord d 1).finish
  else if (s.jobOf dk).isNone || decide (s.snapHeader dk 8 8 < s.snapHeader dk 16 8 + 64) then (s.writeWord d 2).finish
  else
    let s := (s.clearCut dk).snapOpen dk id full none s.ownCore.cycle
    let seq := (((s.domain dk).snap.map (fun x => x.seq)).getD 0) % 2 ^ 32
    ((s.writeWord d (wordOf (seq * 2 ^ 32))).finish).recordCluster dk (clusterOf s.turn.core)))

/-- Whether a packet that cluster `src` sent before its record is on its way to cluster `ep` on a plane: its marker is behind it. -/
def State.aheadOfMarker (s : State) (src ep plane : Nat) : Bool :=
  let at_ := fun (c : Nat) => clusterOf c == ep
  if plane = 5 then s.cores.any (fun e => at_ e.1 && e.2.puts.any (fun p => p.cut && clusterOf p.src == src))
  else if plane = 3 then s.cores.any (fun e => at_ e.1 && e.2.incoming.any (fun h => h.owner.ordered && h.cut && clusterOf h.owner.core == src))
  else if plane = 1 then s.threads.any (fun e => at_ (tidOf e.1).core && e.2.cmdAcks.any (fun a => a.cut && clusterOf a.core == src))
  else if plane = 2 then s.cores.any (fun e => e.2.outbox.any (fun r => r.2.cut && handleDev r.2.handle == s.devnum.toNat && (match r.2.st with
    | .sent => clusterOf e.1 == src && at_ (handleCore r.2.handle)
    | .answered _ _ _ => clusterOf (handleCore r.2.handle) == src && at_ e.1
    | .reserved => false
    | .refused _ _ _ => false)))
  else false
/-- The marker of a snapshot that the source of a channel has sent (R355, R356): its full bit and the SNAP that it is of. What another module sends
comes with the event. -/
def State.markerFrom (s : State) (job : Nat) (id : BitVec 32) (src : Nat) : Option (Bool × Nat × Nat) :=
  if src < 0x4000 then
    (((s.domainOf src).bind (fun k => (s.domain k).snap)).filter (fun (x : Snap) =>
      (x.runs || x.phase == .loc) && NatSet.has x.armed src && x.id == id && x.job == job)).map (fun x => (x.full, x.origin))
  else if src < 0x8000 then
    (s.portSnaps.find? (fun (x : PortSnap) => x.port == src - 0x4000 && x.job == job && x.id == id)).map (fun x => (x.full, x.origin))
  else some (s.ev.full, 2 ^ 16 + (src - 0x8000), s.freeCount)
/-- The domain of this module that a port or cluster has a snapshot from, marker by marker; none where that is another module's (R361). -/
def State.markerDomain (s : State) (job : Nat) (id : BitVec 32) : Nat → Nat → Option Nat
  | 0, _ => none
  | f + 1, ep =>
    if ep < 0x4000 then s.domainOf ep
    else if ep < 0x8000 then
      (s.portSnaps.find? (fun (x : PortSnap) => x.port == ep - 0x4000 && x.job == job && x.id == id)).bind (fun x => State.markerDomain s job id f x.parent)
    else none
/-- The snapshot with an id is aborted in every domain of a job in this module (R355, R363). -/
def State.abortJob (s : State) (job : Nat) (id : BitVec 32) : State :=
  (s.jobDomains job).foldl (fun (acc : State) k => if (acc.domain k).snap.any (fun x => x.id == id) then acc.snapAbort k else acc) s
/-- A marker reaches a port (R356). -/
def State.portMarker (s : State) (job port ch : Nat) (id : BitVec 32) (full : Bool) (origin : Nat × Nat) : State :=
  let new : PortSnap := { port := port, job := job, id := id, full := full, parent := ch / 8, origin := origin, heard := [ch] }
  match s.portSnaps.find? (fun (x : PortSnap) => x.port == port && x.job == job) with
  | some x =>
    let others := s.portSnaps.filter (fun y => y != x)
    if x.id = id then { s with portSnaps := others ++ [{ x with heard := NatSet.ins x.heard ch }] }
    else if x.id.toNat < id.toNat then s.abortJob job id
    else
      let s := s.abortJob job x.id
      { s with portSnaps := others ++ [new] }
  | none => { s with portSnaps := s.portSnaps ++ [new] }
/-- A marker reaches a cluster (R355, R356): the first one opens the domain's snapshot, one of another id while a snapshot has not ended aborts the
greater id's, and one of a snapshot that has ended here comes too late. -/
def State.clusterMarker (s : State) (dk cl ch : Nat) (id : BitVec 32) (full : Bool) (origin : Nat × Nat) : State :=
  let first := fun (s : State) =>
    let s := (s.clearCut dk).snapOpen dk id full (some (ch / 8, origin)) (s.core (64 * cl)).cycle
    let s := match s.markerDomain (((s.domain dk).snap.map (fun x => x.job)).getD 0) id 17 (ch / 8) with
      | some k => if k = dk then s else
        let d := s.domain k
        s.setDomain k { d with snap := d.snap.map (fun (x : Snap) => { x with children := NatSet.ins x.children dk }) }
      | none => s
    let d := s.domain dk
    let s := s.setDomain dk { d with snap := d.snap.map (fun (x : Snap) => { x with heard := [(cl, ch)] }) }
    s.recordCluster dk cl
  match (s.domain dk).snap with
  | none => first s
  | some sn =>
    if sn.runs || sn.phase == .loc then
      if sn.id = id then
        let d := s.domain dk
        (s.setDomain dk { d with snap := some { sn with heard := sn.heard ++ [(cl, ch)] } }).recordCluster dk cl
      else if sn.id.toNat < id.toNat then s.abortJob sn.job id
      else first (s.abortJob sn.job sn.id)
    else if sn.origin = origin then s
    else first s
/-- SNAPSHOT_MARKER (R355, R356): none when no such marker is on its way. -/
def State.tryMarker (s : State) (dk ep ch : Nat) (id : BitVec 32) : Option State :=
  let src := ch / 8
  (s.jobOf dk).bind (fun job => (s.markerFrom job id src).bind (fun m =>
    let s := if src < 0x8000 then s else s.bumpFree
    if !(s.channelsTo job ep).contains ch || (decide (src < 0x4000) && decide (ep < 0x4000) && s.aheadOfMarker src ep (ch % 8)) then none
    else if ep < 0x4000 then
      if s.domainOf ep != some dk || (s.domain dk).snap.any (fun x => x.heard.contains (ep, ch) && x.origin == m.2) then none
      else s.ifNew (s.clusterMarker dk ep ch id m.1 m.2)
    else s.ifNew (s.portMarker job (ep - 0x4000) ch id m.1 m.2)))

/-- Change a domain's snapshot. -/
def State.modSnap (s : State) (dk : Nat) (f : Snap → Snap) : State := s.setDomain dk { s.domain dk with snap := (s.domain dk).snap.map f }
/-- SCRATCH_SEGMENT_COPY (R357): 512 bytes and their metadata go to the core record and the image. -/
def State.trySegment (s : State) (c seg : Nat) : Option State :=
  match s.domainOfCore c with
  | none => none
  | some dk =>
    let d := s.domain dk
    match d.snap with
    | none => none
    | some sn =>
      if !sn.runs || !NatSet.has (Map.get [] sn.segs c) seg then none
      else
        let a := c * 0x8000 + 512 * seg
        let bk := (s.domRead dk (s.blockVa dk sn.man + 128 + 48 * d.indexOf (clusterOf c) + 8) 8).getD 0
        let base := s.blockVa dk (bk + 32 * (c % 64))
        let m := s.scratch
        let s := s.domWrite dk (base + 512 * seg) 512 (m.read a 512)
        let s := (granulesOf a 512).foldl (fun (acc : State) g =>
          if metaByte m g = 0 then acc else acc.domWrite dk (base + 0x8000 + (g - c * 0x800)) 1 (metaByte m g)) s
        let ins := fun (lo hi : Nat) (p l : NatSet) => (p.filter (fun x => decide (lo ≤ x) && decide (x < hi))).foldl NatSet.ins l
        some (s.modSnap dk (fun x =>
          let i := x.image.scratch
          { x with
            segs := Map.set x.segs c (NatSet.del (Map.get [] x.segs c) seg)
            image := { x.image with scratch :=
              { bytes := (m.bytes.filter (fun e => decide (a ≤ e.1) && decide (e.1 < a + 512))).foldl (fun l e => cellSet l e.1 e.2) i.bytes
                full := ins (a / 8) (a / 8 + 64) m.full i.full, tags := ins (a / 16) (a / 16 + 32) m.tags i.tags
                poison := ins (a / 8) (a / 8 + 64) m.poison i.poison } } }))
/-- PRE_WRITE_BACK (R360): the first PRE line of a core leaves. -/
def State.tryPre (s : State) (c : Nat) : Option State :=
  match (s.core c).l1.find? (fun e => e.2.pre) with
  | none => none
  | some (y, _) => match s.flushLine c y with
    | (true, s) => some s
    | (false, _) => none

/-- A domain's snapshot is locally complete (R361, Table 16-5): its manifest takes its last fields and STATUS 1. -/
def State.snapLocal (s : State) (dk : Nat) (sn : Snap) : State :=
  let base := s.blockVa dk sn.man
  let n := (s.domain dk).count
  let entry := fun (off : Nat) (pc lc : Chain) (pages : Bool) =>
    (if pages then [(off + 16, 8, pc.first), (off + 24, 8, pc.total)] else []) ++ [(off + 32, 8, lc.first), (off + 40, 8, lc.total)]
  let s := (s.domain dk).clusters.zipIdx.foldl (fun (acc : State) e =>
    acc.domFields dk base (entry (128 + 48 * e.2) (Map.get {} sn.pageChains e.1) (Map.get {} sn.logChains e.1) true)) s
  let s := (List.range 16).foldl (fun (acc : State) p =>
    acc.domFields dk base (entry (128 + 48 * (n + p)) {} (Map.get {} sn.logChains (0x4000 + p)) false)) s
  let s := s.domWrite dk (base + 56) 8 sn.blocks
  (s.snapStatus dk sn 1).modSnap dk (fun x => { x with phase := .loc })
/-- SNAPSHOT_SWEEP (R359, R361): the walker of cluster q = 0 finds a leaf that its home can capture, none that is being migrated; after the last one the sweep has
ended, and with every endpoint done the domain is locally complete. -/
def State.trySweep (s : State) (dk : Nat) : Option State :=
  let d := s.domain dk
  match d.snap with
  | none => none
  | some sn =>
    if !sn.runs || !NatSet.has sn.armed (d.clusterAt 0) then none
    else if sn.swept then
      if (s.endpoints dk).all (s.endpointDone sn) then some (s.snapLocal dk sn) else none
    else
      let left := (s.leaves dk).filter (fun e => pteSnap e.pte != sn.seq % 4)
      match left.find? (fun e => NatSet.has sn.armed (pteHome e.pte) && !pteMig e.pte) with
      | some e => some (s.capturePage e)
      | none => if left.isEmpty then some (s.modSnap dk (fun x => { x with swept := true })) else none

/-- The children of a domain in a snapshot: domains of this module, and those of other modules by 2^16 and more (R361). -/
def State.childrenOf (s : State) (dk : Nat) (sn : Snap) : List Nat :=
  sn.children ++ (if (s.jobLinks sn.job).isEmpty then [] else (Config.jobChildren sn.job dk).map (fun k => 2 ^ 16 + k))
/-- Whether every child of a domain has reported. -/
def State.allReported (s : State) (dk : Nat) (sn : Snap) : Bool := (s.childrenOf dk sn).all (NatSet.has sn.reported)
/-- SNAPSHOT_COMPLETION_REPORT (R361): the report of domain `child` reaches `dk`. -/
def State.tryReport (s : State) (dk child : Nat) : Option State :=
  match (s.domain dk).snap with
  | none => none
  | some sn =>
    let sent := decide (2 ^ 16 ≤ child) || (s.domain child).snap.any (fun x => x.phase == .loc && x.origin == sn.origin && s.allReported child x)
    if !(s.childrenOf dk sn).contains child || NatSet.has sn.reported child || !sent || sn.phase == .aborted || sn.phase == .complete then none
    else some (s.modSnap dk (fun x => { x with reported := NatSet.ins x.reported child }))
/-- A snapshot is job complete in a domain (R361): STATUS 2, LAST, and the SNPWs that wait for it end. -/
def State.snapComplete (s : State) (dk : Nat) (sn : Snap) : State :=
  let s := (s.snapStatus dk sn 2).setSnapHeader dk 32 8 sn.man
  let sn := { sn with phase := .complete }
  let s := s.setDomain dk ({ s.domain dk with snap := some sn }.listSnap sn)
  let open_ := (s.jobDomains sn.job).any (fun k => (s.domain k).snap.any (fun x => x.id == sn.id && (x.runs || x.phase == .loc)))
  let s := if open_ then s else { s with portSnaps := s.portSnaps.filter (fun (p : PortSnap) => p.id != sn.id || p.job != sn.job) }
  (s.snapWaiters dk sn.id).foldl (fun (acc : State) (w : Tid × RegNum) =>
    acc.resume w.1 (fun s => (s.writeWord w.2 (wordOf (sn.seq % 2 ^ 32 * 2 ^ 32))).finish)) s
/-- SNAPSHOT_COMPLETION_NOTICE (R361): at the initiating domain once every child has reported, at another domain of the module once the
domain that its first marker came from has it, or from another module. -/
def State.tryComplete2 (s : State) (dk : Nat) : Option State :=
  match (s.domain dk).snap with
  | none => none
  | some sn =>
    if sn.phase != .loc || !s.allReported dk sn then none
    else
      let ok : Bool := match sn.parent with
        | none => true
        | some ep => match s.markerDomain sn.job sn.id 17 ep with
          | some k => (s.domain k).snap.any (fun x => x.origin == sn.origin && x.phase == .complete)
          | none => !s.ev.own
      if ok then some (s.snapComplete dk sn) else none
/-- SNAPSHOT_ABORT_NOTICE (R362, R363): the snapshot of a domain is aborted when another domain of its job has aborted it, here or in another
module; a SNPW that waits for it raises SNAPABORT. -/
def State.tryAbortNotice (s : State) (dk : Nat) : Option State :=
  match (s.domain dk).snap with
  | none => none
  | some sn =>
    if sn.phase == .aborted then
      match s.snapWaiters dk sn.id with
      | [] => none
      | ws => some (ws.foldl (fun (acc : State) w => acc.resume w.1 (fun s => s.raise ⟨.snapabort, sn.id.toNat⟩)) s)
    else if sn.phase == .complete then none
    else
      let here := (s.jobDomains sn.job).any (fun k => (s.domain k).snap.any (fun x => x.origin == sn.origin && x.phase == .aborted))
      if here || !s.ev.own then some (s.snapAbort dk) else none

/-- The newest directory entry with an id: its SEQ modulo 64, STATUS and manifest (Table 16-4). -/
def State.directory (s : State) (dk : Nat) (id : BitVec 32) (p : Nat → Bool) : Option (Nat × Nat × Nat) :=
  let last := s.snapHeader dk 24 8
  ((List.range (min last 64)).map (fun i => (last - i) % 64)).findSome? (fun k =>
    let at_ := 64 + 16 * k
    let st := s.snapHeader dk (at_ + 4) 1
    if s.snapHeader dk at_ 4 = id.toNat && p st then some (k, st, s.snapHeader dk (at_ + 8) 8) else none)
/-- SNPW (R362). -/
def execSnpw (d a : RegNum) (s : State) : Out := .next (s.snapOp a (fun id dk s =>
  let done := fun (seq : Nat) => (s.writeWord d (wordOf (seq % 2 ^ 32 * 2 ^ 32))).finish
  match (s.domain dk).snap.filter (fun x => x.id == id) with
  | some sn =>
    if sn.phase == .complete then done sn.seq
    else if sn.phase == .aborted then s.raise ⟨.snapabort, id.toNat⟩
    else s.park (.snapDone d id)
  | none =>
    match s.directory dk id (fun _ => true) with
    | none => (s.writeWord d 1).finish
    | some (_, st, man) =>
      if st = 2 then done ((s.domRead dk (s.blockVa dk man + 8) 8).getD 0) else s.raise ⟨.snapabort, id.toNat⟩))
/-- The progress word of a snapshot (R364). -/
def State.progress (s : State) (dk : Nat) (sn : Snap) : Nat :=
  let cls := ((s.domain dk).clusters.filter (NatSet.has sn.armed)).length
  sn.id.toNat * 2 ^ 32 + sn.phase.code * 2 ^ 25 + cls * 2 ^ 14 + s.endpointsDone dk sn
/-- SNPQ (R364). -/
def execSnpq (d a : RegNum) (s : State) : Out := .next (s.snapOp a (fun id dk s =>
  let dom := s.domain dk
  let v := match dom.snap.filter (fun x => x.id == id) with
    | some sn => s.progress dk sn
    | none => match s.directory dk id (fun _ => true) with
      | none => 0
      | some (_, st, man) => match dom.manifests.find? (fun m => m.man == man) with
        | some m => s.progress dk m
        | none => id.toNat * 2 ^ 32 + (if st = 2 then 4 else 5) * 2 ^ 25
  (s.writeWord d (wordOf v)).finish))

/-- A domain's snapshot that a rollback to an id restores (R369): the newest with STATUS 2. -/
def State.rollbackTo (s : State) (dk : Nat) (id : BitVec 32) : Option Snap :=
  (s.directory dk id (fun st => st == 2)).bind (fun e => (s.domain dk).manifests.find? (fun m => m.man == e.2.2))
/-- The cores of a domain that are not contained and so take part in a rollback. -/
def State.freeCores (s : State) (dk : Nat) : List Nat := (s.domain dk).cores.filter (fun c => !(s.core c).contained)
/-- The slots of the issuing thread: its own, and its pair's other one. -/
def State.issuers (s : State) : List Tid := if (s.trailOf s.turn).isSome then [s.turn, trailTid s.turn] else [s.turn]
/-- The fence of a rollback (R369): every slot but the issuer's stops unsaved; packets, L1s, queues, records and fault entries go. -/
def State.rollbackFence (s : State) (dk : Nat) : State :=
  let mine := fun (t : Tid) => (s.domain dk).holds (clusterOf t.core) && !s.issuers.contains t
  let base := (s.domain dk).ctxa.toNat
  let s := { s with threads := s.threads.map (fun (e : Nat × Thread) => if mine (tidOf e.1) then
    (e.1, { status := if e.2.status == Status.disabled then Status.disabled else Status.idle }) else e) }
  let s := (s.coresIn dk).foldl (fun (acc : State) c =>
    let co := acc.core c
    acc.setCore c { cycle := co.cycle, contained := co.contained, mismatches := co.mismatches }) s
  let s := (s.domain dk).clusters.foldl (fun (acc : State) k =>
    let c := acc.cluster k
    acc.setCluster k { c with
      queue := [], commits := [], blocks := [], cancel := [], flying := [], contexts := [], bars := [], faults := [], waiters := [], lines := []
      lineQueue := [], peerReqs := [], retryWbs := [], aborts := [], hostReqs := c.hostReqs.map (fun (q : HostReq) => match q with
        | .own _ _ a => .ownLine (a / 64)
        | .write _ _ a => .ownLine (a / 64)
        | .shared y => .shared y
        | .ownLine y => .ownLine y
        | .plain y => .plain y
        | .plainAccess _ _ a => .plain (a / 64)
        | .wrote e => .wrote (.device (HostReq.wrote e).hpa)) }) s
  s.devWrite dk base 8 ((s.domRead dk (base + 8) 8).getD 0)
/-- A page of the manifest is restored through the current tables (R369); the flag says that it was skipped. -/
def State.rollbackPage (s : State) (dk : Nat) (p : PageEnt) : Bool × State :=
  match walkFrom s dk p.va 5 (s.domain dk).ptroot.toNat with
  | .error _ => (true, s)
  | .ok e =>
    if pteSize e.pte ≠ p.size || e.va ≠ p.va || !(pteType e.pte = 0 || pteType e.pte = 2) then (true, s)
    else
      let l := leafPlace e.pte
      let s := s.copyIn dk l.1 l.2 e.size p.data
      let cur := s.snapHeader dk 24 8 % 4
      (false, s.writeLeaf e (e.pte.toNat - pteSnap e.pte * 2 ^ 11 + cur * 2 ^ 11 - (pteDss e.pte).toNat * 2 ^ 13 + 2 ^ 13))
/-- The bytes of block `b` of the snapshot area that are not 0, with their offsets; none where it cannot be read. -/
def State.blockCells (s : State) (dk b : Nat) : Option (List Host.Cell) :=
  match s.devWhere dk (s.blockVa dk b) { r := true } with
  | .at l _ => some (((s.store l.space).bytes.filter (fun c => decide (l.addr ≤ c.1) && decide (c.1 < l.addr + 4096))).map (fun c => (c.1 - l.addr, c.2)))
  | _ => none
/-- The blocks that a manifest names for a cluster: its record and its first core record (Table 16-5). -/
def State.recordBlocks (s : State) (dk man cl : Nat) : Nat × Nat :=
  let at_ := s.blockVa dk man + 128 + 48 * (s.domain dk).indexOf cl
  ((s.domRead dk at_ 8).getD 0, (s.domRead dk (at_ + 8) 8).getD 0)
/-- The scratchpad of a core as its core record holds it (Table 16-7, R367). -/
def State.recordScratch (s : State) (dk man c : Nat) : Option Store :=
  let b := (s.recordBlocks dk man (clusterOf c)).2 + 32 * (c % 64)
  match (List.range 9).mapM (fun i => s.blockCells dk (b + i)) with
  | none => none
  | some bs =>
    let data := (bs.take 8).zipIdx.flatMap (fun e => e.1.map (fun x => (c * 0x8000 + 4096 * e.2 + x.1, x.2)))
    let metas := ((bs.drop 8).flatten).filter (fun x => decide (x.1 < 0x800))
    some (metas.foldl (fun (m : Store) x => m.setMeta (c * 0x800 + x.1) x.2.toNat) { bytes := data })
/-- The scratchpads of the cores that a snapshot holds, from their core records, where those can be read. -/
def State.restoredScratch (s : State) (dk : Nat) (sn : Snap) : Store :=
  let i := sn.image.scratch
  let cores := i.bytes.foldl (fun l e => NatSet.ins l (scratchCore e.1)) (sn.image.cores.map Prod.fst)
  cores.foldl (fun (m : Store) c =>
    match s.recordScratch dk sn.man c with
    | none => m
    | some r =>
      let out := fun (u x : Nat) => scratchCore (u * x) != c
      { bytes := r.bytes.foldl (fun l e => cellSet l e.1 e.2) (m.bytes.filter (fun e => out 1 e.1))
        full := r.full.foldl NatSet.ins (m.full.filter (out 8)), tags := r.tags.foldl NatSet.ins (m.tags.filter (out 16))
        poison := r.poison.foldl NatSet.ins (m.poison.filter (out 8)) }) i
/-- A cluster's task entries as its record holds them (R368), where it can be read: records with their tags, tiebreaks, runs, and ctr. -/
def State.restoredQueue (s : State) (dk man cl : Nat) (q : Cluster) : Cluster :=
  let base := s.blockVa dk (s.recordBlocks dk man cl).1
  let entry := fun (i : Nat) (e : TaskEntry) =>
    let at_ := base + 0x21000 + 96 * i
    match s.domRead dk at_ 64, s.domRead dk (at_ + 64) 8, s.domRead dk (at_ + 73) 1 with
    | some v, some tb, some run =>
      let tags := (List.range 3).foldl (fun a k => a + (s.domTag dk (at_ + 16 + 16 * k)).toNat * 2 ^ k) 0
      { e with rcd := { bytes := BitVec.ofNat 512 v, tags := BitVec.ofNat 3 tags }, vt := ⟨wordOf (v % 2 ^ 64), wordOf tb⟩, run := BitVec.ofNat 8 run }
    | _, _, _ => e
  { q with
    ctr := ((s.domRead dk (base + 8) 8).map (BitVec.ofNat _)).getD q.ctr
    queue := q.queue.zipIdx.map (fun p => (p.1.1, entry p.2 p.1.2)) }
/-- The records of cores and clusters are restored (R369; log entry 50): scratchpads, task entries and counters from the blocks of the manifest, the
rest as those blocks were written. The issuer keeps its own context, and its task's entry with it. -/
def State.rollbackRecords (s : State) (dk : Nat) (sn : Snap) (own : Option TaskEntry) : State :=
  let d := s.domain dk
  let here := fun (c : Nat) => (s.freeCores dk).contains c
  let s := (sn.image.cores.filter (fun e => here e.1)).foldl (fun (acc : State) e =>
    let co := acc.core e.1
    acc.setCore e.1 { e.2 with cycle := co.cycle, mismatches := co.mismatches }) s
  let s := (sn.image.threads.filter (fun e => here (tidOf e.1).core && !s.issuers.contains (tidOf e.1) && (s.thread (tidOf e.1)).status != .disabled)).foldl
    (fun (acc : State) e => acc.setThread (tidOf e.1) e.2) s
  let out := fun (u x : Nat) => !here (scratchCore (u * x))
  let m := s.scratch
  let i := s.restoredScratch dk sn
  let ins := fun (u : Nat) (a b : NatSet) => (b.filter (fun x => here (scratchCore (u * x)))).foldl NatSet.ins (a.filter (out u))
  let s := { s with scratch :=
    { bytes := (i.bytes.filter (fun e => here (scratchCore e.1))).foldl (fun l e => cellSet l e.1 e.2) (m.bytes.filter (fun e => out 1 e.1))
      full := ins 8 m.full i.full, tags := ins 16 m.tags i.tags, poison := ins 8 m.poison i.poison } }
  let s := (sn.image.queues.map (fun e => (e.1, s.restoredQueue dk sn.man e.1 e.2))).foldl (fun (acc : State) e =>
    let acc := acc.setCluster e.1 { acc.cluster e.1 with
      ctr := e.2.ctr, queue := e.2.queue, blocks := e.2.blocks, cancel := e.2.cancel, bars := e.2.bars, flying := e.2.flying }
    e.2.blocks.foldl (fun (a : State) b => a.writeBlock dk b) acc) s
  let s := match own, s.cur.task with
    | some e, some id =>
      let there := Map.find (s.cluster id.cluster).queue id.entry
      let own := there.isNone || there.any (fun (x : TaskEntry) => x.run == e.run && x.vt == e.vt)
      -- a full queue makes room by a spill (R144)
      let s := if own || decide ((s.cluster id.cluster).queue.length < 2048) then s
        else ((s.spillFor dk id.cluster
          { rcd := e.rcd, vt := e.vt, parent := e.parent, target := id.cluster, issuer := none, d := 0, wait := false, ran := true }).map Prod.fst).getD s
      let q := (s.cluster id.cluster).queue
      let k := if own then id.entry else (Map.firstFree q 2048).getD id.entry
      let s := s.setCluster id.cluster { s.cluster id.cluster with queue := Map.set q k { e with commit := none, bar := none } }
      s.setCur { s.cur with task := some ⟨id.cluster, k, e.run.toNat⟩ }
    | _, _ => s
  let joined := (s.coresIn dk).foldl (fun (m : Map NatSet) c => (s.core c).subs.foldl (fun m b =>
    Map.set m b.tag.toNat (NatSet.ins (Map.get [] m b.tag.toNat) c)) m) []
  s.setDomain dk { d with
    round := sn.image.round, sample := none, arrived := true, busy := true, joined := joined
    supervisors := d.supervisors.filter (fun t => t == s.turn) }
/-- The parts of poisoned words that a write from outside leaves as they are (R382): machine checks of kind 2 in the domain of the home, or entries of
the Lodge's log where no domain holds it. -/
def State.outsidePartial (s : State) (home : Nat) (ws : List Nat) : State :=
  let m : Mchk := { kind := 2, addr := 0, phys := true }
  match s.domainOf home with
  | some dk => s.partialMchks (some dk) m ws
  | none => { s with lodge := { s.lodge with log := s.lodge.log ++ ws.map (fun w => .error { m with addr := w }) } }
/-- Data written from outside: tags are cleared, full/empty bits stay, and a part of a poisoned word is not written (R382). Bit `i` of `poison`
says that word `i` from address `a` on arrives poisoned: it is marked so where the write covers it (R95, R106). -/
def Store.writeOutside (m : Store) (a : Nat) (bytes : List Byte) (poison : Word) : Store :=
  let v := (bytes.zipIdx.foldl (fun (n : Nat) e => n + e.1.toNat * 256 ^ e.2) 0)
  let bad := (List.range 8).filter (fun i => poison.getLsbD i && decide (a ≤ a / 8 * 8 + 8 * i) && decide (a / 8 * 8 + 8 * i + 8 ≤ a + bytes.length))
  bad.foldl (fun (m : Store) i => m.setPoison (a / 8 * 8 + 8 * i) true) (m.writeData a bytes.length v).1
/-- A write from outside to this module's memory, with the machine checks of the parts that it leaves. -/
def State.outsideStore (s : State) (home a : Nat) (bytes : List Byte) (poison : Word) : State :=
  ({ s with hbm := s.hbm.writeOutside a bytes poison }).outsidePartial home (s.hbm.partialWords a bytes.length a)
/-- A logged packet is delivered (R369, Table 16-3); an acknowledgement that nothing restored awaits is discarded. -/
def State.replayPacket (s : State) (dk : Nat) : Logged → State
  | .writeBack c w => match locate s (clusterOf c) dk (w.line * 64) { w := true } true with
    | .at l _ => if l.space = .host then s else s.setStore l.space (mergeLine (s.store l.space) l.isFlat l.addr w.l)
    | _ => s
  | .put c p => s.applyPut c p
  | .chunk c ch =>
    let co := s.core c
    if co.landing.length < 32 then s.setCore c { co with landing := co.landing ++ [ch] }
    else (s.divert c (.chunk ch)).getD s
  | .cmdAck t a =>
    let h := s.thread t
    if h.cmdsOut = 0 then s
    else s.setThread t { h with cmdsOut := h.cmdsOut - 1, matrixPoison := if h.matrixPoison.isSome then h.matrixPoison else a.poison }
  | .row h row anch lanes sender key =>
    let r := s.rowArrives h row anch lanes sender
    if sender < 2 ^ 16 then match Map.find (r.2.2.core sender).outbox key with
      | some o => if o.st = .sent then r.2.2.setRow sender key { o with st := .answered r.1 (decide (r.1 ≠ 1)) r.2.1, cut := false } else r.2.2
      | none => r.2.2
    else { r.2.2 with hostOut := r.2.2.hostOut ++ [.rowAnswer (sender % 2 ^ 16) (sender / 2 ^ 16 - 1) h row r.1 r.2.1] }
  | .rowAck c key reason ready late => match Map.find (s.core c).outbox key with
    | some o => if o.st = .sent then s.rowAnswered c key reason ready late else s
    | none => s
  | .peerWrite a bytes poison => s.outsideStore (s.fhomeOf a).1 a bytes poison
  | .wbAck _ _ => s
  | .closing _ _ _ => s
  | .closeAck c p got sig =>
    let co := s.core c
    match co.port p with
    | some v => if v.closing then (s.setCore c (co.setPort p none)).serveTarget v.owner v.ck v.cc v.ap got sig else s
    | none => s
/-- The open stream ports of a core count the replayed chunks as on their way, and all else as received (R369). -/
def State.reopenPorts (s : State) (sn : Snap) (c : Nat) : State :=
  let co := s.core c
  let back := fun (p : Bool) => sn.log.filterMap (fun e => match e.2 with
    | .chunk _ ch => if ch.owner = .stream c p then some ch.n else none
    | _ => none)
  let fix := fun (p : Bool) (v : Option Port) => v.map (fun v => { v with live := (back p).length, got := v.off - (back p).foldl (· + ·) 0 })
  if co.portA.isNone && co.portB.isNone then s
  else s.setCore c { co with portA := fix false co.portA, portB := fix true co.portB }
/-- RBCK (R369): the rollback of every domain of the job, as one step. The part of other modules comes from them: whether their domains
hold the snapshot. -/
def execRbck (d a : RegNum) (s : State) : Out := .next (s.snapOp a (fun id dk s =>
  let sn0 := s.rollbackTo dk id
  let job? := (s.jobOf dk).orElse (fun _ => sn0.map (fun x => x.job))
  let doms := dk :: ((job?.map s.jobDomains).getD []).filter (fun k => k != dk)
  -- an RBCK aborts what runs in its job (R363)
  let s := doms.foldl State.snapAbort s
  if sn0.isNone then (s.writeWord d 1).finish
  else
    let job := job?.getD 0
    let found := doms.filterMap (fun k => (s.rollbackTo k id).map (fun sn => (k, sn)))
    if found.length ≠ doms.length || (!(s.jobLinks job).isEmpty && !Config.jobHolds job id.toNat) then (s.writeWord d 2).finish
    else
      let own := s.cur.task.bind s.taskOf
      let s := doms.foldl State.rollbackFence s
      let r := found.foldl (fun (acc : Nat × State) e =>
        let p := e.2.pages.foldl (fun (x : Nat × State) pg =>
          let y := x.2.rollbackPage e.1 pg
          (x.1 + y.1.toNat, y.2)) acc
        (p.1, p.2.rollbackRecords e.1 e.2 (if e.1 = dk then own else none))) (0, s)
      let s := found.foldl (fun (acc : State) e =>
        let acc := e.2.log.foldl (fun (x : State) l => x.replayPacket e.1 l.2) acc
        (acc.coresIn e.1).foldl (fun (x : State) c => x.reopenPorts e.2 c) acc) r.2
      let s := (found.flatMap (fun e => s.threadsIn e.1)).foldl (fun (acc : State) t =>
        if (acc.thread t).live && t != acc.turn then acc.goOn t else acc) s
      (s.writeWord d (wordOf (r.1 % 2 ^ 32 * 2 ^ 32))).finish))

/-- SNAPSHOT_MARKER (R356). -/
def execSnapshotMarker (s : State) : Out := s.event (s.tryMarker s.ev.domain s.ev.endpoint s.ev.channel s.ev.id)
/-- SCRATCH_SEGMENT_COPY (R357). -/
def execScratchSegmentCopy (s : State) : Out := s.event (s.trySegment s.ev.core s.ev.seg)
/-- SNAPSHOT_SWEEP (R359, R361). -/
def execSnapshotSweep (s : State) : Out := s.event (s.trySweep s.ev.domain)
/-- PRE_WRITE_BACK (R360). -/
def execPreWriteBack (s : State) : Out := s.event (s.tryPre s.ev.core)
/-- SNAPSHOT_COMPLETION_NOTICE (R361). -/
def execSnapshotCompletionNotice (s : State) : Out := s.event (s.tryComplete2 s.ev.domain)
/-- SNAPSHOT_ABORT_NOTICE (R363). -/
def execSnapshotAbortNotice (s : State) : Out := s.event (s.tryAbortNotice s.ev.domain)
/-- SNAPSHOT_COMPLETION_REPORT (R361). -/
def execSnapshotCompletionReport (s : State) : Out := s.event (s.tryReport s.ev.domain s.ev.child)

end Sys2Proof.Machine
end

