-- ==== Sys2Proof/Machine/Host.lean ====
section
/-!
DEFINITION. The host port and the Faleus links (R372 to R386): ingress, host pages, CXL.cache, CXL.mem, accesses of other modules, and the
flow layer of the networks (R301).
-/
namespace Sys2Proof.Machine

/-- Whether BAR0 and BAR2 writes are accepted: BOOT reads 1, and the module is awake (R388, R394). -/
def State.accepts (s : State) : Bool := s.lodge.boot == 1
/-- A host write acts only once BOOT reads 1, or is held (R388, R394). -/
def State.hostWrite (s : State) (i : Instr) (k : State → State) : State := if s.accepts || s.holds then s.traffic i k else s
/-- The domain of an ingress window: the one whose first cluster it names (R374); none for a closed window. -/
def State.windowOf (s : State) (w : Nat) : Option Nat := (s.domains.find? (fun e => e.2.clusterAt 0 == w)).map Prod.fst
/-- A 48-bit count with one more. -/
def bump48 (c : BitVec 48) : BitVec 48 := c + 1
/-- One record meets the ingress buffer of 64 (R375). -/
def Domain.offer (d : Domain) (r : TaskRec) : Domain :=
  if d.ingress.length < 64 then { d with ingress := d.ingress ++ [r], arrived := true, busy := true } else { d with dropped := d.dropped + 1 }
/-- The records of a write of whole aligned 64-byte units; their argument tags arrive clear (R375). -/
def recordsOf (bytes : List Byte) : List TaskRec :=
  (List.range (bytes.length / 64)).map (fun i =>
    { bytes := BitVec.ofNat 512 ((List.range 64).foldl (fun a j => a + ((bytes[64 * i + j]?).getD 0).toNat * 256 ^ j) 0), tags := 0 })
/-- INGRESS_RECORD_WRITE (R375): a write that is not made of aligned 64-byte units is discarded whole and counted once. -/
def execIngressRecordWrite (s : State) : Out := .next (s.hostWrite .ingressRecordWrite (fun s =>
  let e := s.ev
  match s.windowOf e.window with
  | none => s
  | some dk =>
    let d := s.domain dk
    if decide (0x800 ≤ e.offset) || e.bytes.isEmpty then s
    else if e.offset % 64 ≠ 0 || e.bytes.length % 64 ≠ 0 then
      s.setDomain dk { d with partials := bump48 d.partials, partialSticky := true }
    else s.setDomain dk ((recordsOf (e.bytes.take (0x800 - e.offset))).foldl Domain.offer d)))
/-- PARTIAL_CLEAR (Table 17-3). -/
def execPartialClear (s : State) : Out := .next (s.hostWrite .partialClear (fun s =>
  match s.windowOf s.ev.window with
  | none => s
  | some dk => s.setDomain dk { s.domain dk with partialSticky := false }))
/-- INGRESS_ENQUEUE (R375): the ingress cluster sends the head of the buffer to its place, unless it is on its way already. -/
def State.tryIngress (s : State) (dk : Nat) : Option State :=
  let d := s.domain dk
  match d.ingress, d.ingressHead with
  | r :: rest, none =>
    let own := d.clusterAt 0
    if r.tooWide then some (s.setDomain dk { d with ingress := rest, wide := d.wide + 1 })
    else match s.tiebreak dk own 0 with
    | none => some ((s.setDomain dk { d with ingress := rest, exhausted := d.exhausted + 1 }).addMchk (some dk) { kind := 8, addr := 0 })
    | some (n, tb) =>
      let ts := d.raiseTs (wordOf (r.get 0 8))
      let count := d.ddesc.toNat + 104
      let s := if ts = wordOf (r.get 0 8) then s else s.devWrite dk count 8 ((s.domRead dk count 8).getD 0 + 1)
      let r := r.withTs ts
      let s := s.setCluster own { s.cluster own with ctr := BitVec.ofNat 54 n }
      let dest := s.place dk own r
      let f : FlyRec := { rcd := r, vt := ⟨ts, tb⟩, parent := none, target := dest, issuer := none, d := 0, wait := true }
      let s := s.setDomain dk { s.domain dk with ingressHead := some (f, true) }
      some (s.fly dest f)
  | _, _ => none
/-- INGRESS_ENQUEUE (R375). -/
def execIngressEnqueue (s : State) : Out := s.event (s.tryIngress s.ev.domain)
/-- A read of an ingress window (Table 17-3): a closed window, and every other offset, reads zero. -/
def State.windowRead (s : State) (w off : Nat) : Word :=
  match s.windowOf w with
  | none => 0
  | some dk =>
    let d := s.domain dk
    if off = 0x800 then wordOf (64 - d.ingress.length)
    else if off = 0x808 then wordOf (d.partials.toNat + d.partialSticky.toNat * 2 ^ 63)
    else if off = 0x810 then d.dropped
    else if off = 0x818 then d.wide
    else if off = 0x820 then d.exhausted
    else 0
/-- A read of a BAR0 register (Table 17-2). -/
def State.bar0Read (s : State) (off : Nat) : Word :=
  if off = 0x00 then s.devnum.setWidth 64
  else if off = 0x08 then s.fabbase.setWidth 64 <<< 52
  else if off = 0x10 then s.routeT.setWidth 64 <<< 12
  else if off = 0x18 then s.fhome.setWidth 64 <<< 12
  else if off = 0x20 then s.lattol
  else if off = 0x28 then s.portsUp.setWidth 64 ||| ((s.portsSpare ||| s.portsSpareIn).setWidth 64 <<< 16)
  else 0
/-- What a capability of the host port's configuration space stands for. -/
inductive HostCapability where
  | msix (vectors : Nat)
  | ats (pasidBits unitBytes : Nat)
  | pri (outstanding : Nat)
  | cxlIo
  | cxlCache
  | cxlMem (rangeGiB : Nat)
  | aer
  | intx
  | srIov
  | peerToPeer
  | multiLogical
  deriving DecidableEq, Repr
/-- Whether configuration space advertises a capability: those of Table 17-1 and no others (R372). -/
def HostCapability.advertised : HostCapability → Bool
  | .msix n => n == 2048
  | .ats bits unit => bits == 20 && unit == 4096
  | .pri n => n == 65536
  | .cxlIo => true
  | .cxlCache => true
  | .cxlMem gib => gib == 384
  | .aer => true
  | .intx => false
  | .srIov => false
  | .peerToPeer => false
  | .multiLogical => false
/-- BAR_REGISTER_WRITE (R373): reserved bits and other offsets ignore the write. -/
def execBarRegisterWrite (s : State) : Out := .next (s.hostWrite .barRegisterWrite (fun s =>
  let v := s.ev.value
  if s.ev.offset = 0x00 then { s with devnum := v.setWidth 13, barWritten := s.barWritten ||| 1 }
  else if s.ev.offset = 0x08 then { s with fabbase := v.extractLsb' 52 12, barWritten := s.barWritten ||| 2 }
  else if s.ev.offset = 0x18 then { s with fhome := v.extractLsb' 12 27 }
  else s))
/-- ROUTE_WRITE (R373, R385). -/
def execRouteWrite (s : State) : Out := .next (s.hostWrite .routeWrite (fun s =>
  { s with routeT := s.ev.value.extractLsb' 12 27, barWritten := s.barWritten ||| 4 }))

/-- Threads of a cluster that wait for a translation issue again. -/
def State.atsWake (s : State) (cl : Nat) : State :=
  (s.threads.map (fun e => tidOf e.1)).foldl (fun (acc : State) t =>
    if clusterOf t.core = cl && (acc.thread t).wait = some .ats then acc.retry t else acc) s
/-- A returned range as its 1 GiB pieces, the one that holds an address first (R377); as many of them as the cache can hold. -/
def AtsEntry.pieces (e : AtsEntry) (x : Nat) : List AtsEntry :=
  if e.size ≤ 2 ^ 30 then [e]
  else
    let n := e.size / 2 ^ 30
    (List.range (min n 1024)).map (fun i =>
      let lo := e.va + ((x - e.va) / 2 ^ 30 + i) % n * 2 ^ 30
      { e with va := lo, size := 2 ^ 30, hpa := e.hpa + (lo - e.va) })
/-- Whether two entries of a PASID overlap. -/
def AtsEntry.meets (a b : AtsEntry) : Bool := a.pasid == b.pasid && decide (a.va < b.va + b.size) && decide (b.va < a.va + a.size)
/-- TRANSLATION_COMPLETION (R377): the answer to a request of the port enters its ATS cache of 1,024 entries. -/
def execTranslationCompletion (s : State) : Out := .next (s.traffic .translationCompletion (fun s =>
  let c := s.cluster s.ev.cluster
  match s.ev.e with
  | none => s
  | some e =>
    match c.asked.find? (fun k => k.1 == e.pasid && decide (e.va ≤ k.2) && decide (k.2 < e.va + e.size)) with
    | none => s
    | some k =>
      let ps := e.pieces k.2
      let keep := c.ats.filter (fun a => !ps.any a.meets)
      (s.setCluster s.ev.cluster { c with asked := c.asked.filter (fun q => !ps.any (fun p => p.covers q.1 q.2)), ats := (ps ++ keep).take 1024 }).atsWake
        s.ev.cluster))
/-- ATS_INVALIDATION_REQUEST (R379): ports stop using the matching entries, requests of the range are asked again, and the completion waits for
the accesses in flight that were translated with them. -/
def execAtsInvalidationRequest (s : State) : Out := .next (s.traffic .atsInvalidationRequest (fun s =>
  let v : Invalidation := { pasid := s.ev.pasid, va := s.ev.va, size := s.ev.size, dropped := [] }
  let hit := fun (e : AtsEntry) => e.pasid == v.pasid && decide (e.va < v.va + v.size) && decide (v.va < e.va + e.size)
  let cls := s.pasidClusters v.pasid
  let v := s.inFlight { v with dropped := cls.flatMap (fun k => ((s.cluster k).ats.filter hit).map (fun e => (k, e))) }
  let s := cls.foldl (fun (acc : State) k =>
    let c := acc.cluster k
    (acc.setCluster k { c with ats := c.ats.filter (fun e => !hit e), asked := c.asked.filter (fun q => !(q.1 == v.pasid && v.covers q.2)) }).atsWake k) s
  { s with invalidations := s.invalidations ++ [v] }.settleAts))
/-- PRI_SUCCESS (R378). -/
def execPriSuccess (s : State) : Out := .next (s.traffic .priSuccess (fun s =>
  let cl := s.ev.cluster
  let c := s.cluster cl
  match Map.find c.faults s.ev.entry with
  | none => s
  | some f =>
    if !f.ats then s
    else
      let pasid := (s.domain f.dom).pasid
      let ovr := fun (e : AtsEntry) => e.pasid == pasid && decide (e.va < f.page + f.size) && decide (f.page < e.va + e.size)
      (s.setCluster cl { c with ats := c.ats.filter (fun e => !ovr e) }).freeFault cl s.ev.entry))
/-- An Invalid Request or Response Failure (R378): the fault goes to the domain's ring with reason 2. -/
def State.priFailed (s : State) : State :=
  let cl := s.ev.cluster
  let c := s.cluster cl
  match Map.find c.faults s.ev.entry with
  | none => s
  | some f =>
    if !f.ats then s
    else (s.setCluster cl { c with faults := Map.set c.faults s.ev.entry { f with ats := false, posted := false, reason := 2 } }).postFault cl s.ev.entry
/-- PRI_INVALID_REQUEST (R378). -/
def execPriInvalidRequest (s : State) : Out := .next (s.traffic .priInvalidRequest State.priFailed)
/-- PRI_RESPONSE_FAILURE (R378): the port sends no further page requests. -/
def execPriResponseFailure (s : State) : Out := .next (s.traffic .priResponseFailure (fun s =>
  let s := s.priFailed
  s.setCluster s.ev.cluster { s.cluster s.ev.cluster with priStopped := true }))
/-- PRI_ENABLE (R378). -/
def execPriEnable (s : State) : Out := .next { s with clusters := s.clusters.map (fun e => (e.1, { e.2 with priStopped := false })) }

/-- A line enters a port's host-line cache of 2,048 lines (R380); a full one gives a clean line up. -/
def State.holdHostLine (s : State) (cl y : Nat) (m : Mesi) : State :=
  let c := s.cluster cl
  if (Map.find c.hostLines y).isSome || decide (c.hostLines.length < 2048) then s.setCluster cl { c with hostLines := Map.set c.hostLines y m }
  else match c.hostLines[Config.victimWay s.freeCount % c.hostLines.length]? with
    | none => s
    | some v =>
      { (s.setCluster cl { c with hostLines := Map.set (Map.del c.hostLines v.1) y m }).bumpFree with hostOut := s.hostOut ++ [.cleanEvict (64 * v.1)] }
/-- The host's data of a line, where the event brings it, with its poison (R372). -/
def State.hostBrings (s : State) (hpa : Nat) : State :=
  match s.ev.data with
  | none => s
  | some v =>
    let a := hpa / 64 * 64
    let m := s.host.write a 64 v.toNat
    { s with host := (List.range 8).foldl (fun (m : Store) i => m.setPoison (a + 8 * i) (s.ev.value.getLsbD i)) m }
/-- Whether an access that owns its host lines has written them (Table 17-4): not where it met poison, nor a compare-and-swap whose comparison
failed. -/
def Req.writesHost (r : Req) (p : Resp) : Bool :=
  p.poison.isNone && (match r.op with
    | .atomic .cas n _ cmp _ _ _ _ => p.v % 256 ^ n == cmp % 256 ^ n
    | _ => true)
/-- A port gives host lines up: their data goes back where they were written (Table 17-4). -/
def State.evictHost (s : State) (cl : Nat) (ys : List Nat) (dirty : Bool) : State :=
  let c := s.cluster cl
  let s := s.setCluster cl { c with hostLines := ys.foldl (fun m y => Map.del m y) c.hostLines }
  { s with hostOut := s.hostOut ++ ys.map (fun y => if dirty then .dirtyEvict (64 * y) (hostData s.host (64 * y)) (hostPoison s.host (64 * y)) else .cleanEvict (64 * y)) }
/-- A port waits for the host's completion of what it has sent back (R380). -/
def State.awaitHost (s : State) (cl : Nat) (e : Evicted) : State :=
  let c := s.cluster cl
  s.setCluster cl { c with hostReqs := c.hostReqs ++ [.wrote e] }
/-- The port owns the line of an access: once it owns its other line too, the access is performed and the lines go back; the reply is
delivered when the host has completed a write, or at once where nothing was written (R123, R130, R380). A line that a snoop has taken meanwhile is asked for again, with that of the access. -/
def State.ownedAccess (s : State) (cl : Nat) (t : Tid) (r : Req) (hpa : Nat) : State :=
  let l : Loc := { space := .host, addr := hpa, home := cl }
  let ys := hostLinesOf r l
  let held := fun (y : Nat) => Map.find (s.cluster cl).hostLines y == some .e
  let lost := (ys.drop 1).filter (fun y => !held y)
  if (s.thread t).wait != some (.host r) then s.evictHost cl ((hpa / 64) :: (ys.drop 1).filter held) false
  else if !lost.isEmpty then
    let c := s.cluster cl
    let s := s.setCluster cl { c with hostReqs := c.hostReqs ++ lost.map HostReq.ownLine ++ [.own t r hpa] }
    { s with hostOut := s.hostOut ++ (lost ++ [hpa / 64]).map (fun y => .rdOwn (64 * y)) }
  else
    let p := s.performPlain t r.op l none
    if r.writesHost p.2 then (p.1.evictHost cl ys true).awaitHost cl (.access t r hpa p.2)
    else (p.1.evictHost cl ys false).resume t (fun s => s.replied r hpa p.2)
/-- The host answers a write-back of a core (R112, R380): a partial one merges into the line that the port owns, and goes back, which the host
completes; one of all 64 bytes, and an untranslated one (R377), has taken its bytes along. -/
def State.hostWritten (s : State) (cl k : Nat) (w : WriteBack) (hpa : Nat) : State :=
  let whole := w.l.dirty == BitVec.allOnes 64
  let merges := (s.cluster cl).atsOn && !whole
  let s := if merges then s.hostBrings hpa else s
  let bad := partialLine s.host (hpa / 64 * 64) (64 * w.line) w.l
  let s := { s with host := mergeLine s.host true (hpa / 64 * 64) w.l }
  let s := if merges then (s.evictHost cl [hpa / 64] true).awaitHost cl (.back k w hpa)
    else s.setCluster cl { s.cluster cl with hostLines := Map.del (s.cluster cl).hostLines (hpa / 64) }
  s.partialMchks (s.domainOfCore k) { kind := 2, addr := 64 * w.line, core := k, cycle := (s.core k).cycle } bad
/-- The host answers an untranslated access of a thread (R377), which is performed and replied to. -/
def State.plainDone (s : State) (cl : Nat) (t : Tid) (r : Req) (hpa : Nat) : State :=
  let l : Loc := { space := .host, addr := hpa, home := cl }
  let c := s.cluster cl
  let s := s.setCluster cl { c with hostGot := ((hostLinesOf r l).drop 1).foldl NatSet.del c.hostGot }
  if (s.thread t).wait != some (.host r) then s
  else
    let p := s.performPlain t r.op l none
    p.1.resume t (fun s => s.replied r hpa p.2)
/-- HOST_COMPLETION (R380): the host answers the oldest request of a port, with the line's data and the state it grants. -/
def State.tryHost (s : State) (cl : Nat) : Option State :=
  let c := s.cluster cl
  match c.hostReqs with
  | [] => none
  | q :: rest =>
    let s := s.setCluster cl { c with hostReqs := rest }
    let s := match q with
      | .shared y => (s.hostBrings (64 * y)).holdHostLine cl y (if s.ev.exclusive then .e else .s)
      | .ownLine y => (s.hostBrings (64 * y)).holdHostLine cl y .e
      | .own t r hpa => (s.hostBrings hpa).ownedAccess cl t r hpa
      | .write k w hpa => s.hostWritten cl k w hpa
      | .wrote (.access t r hpa p) => if (s.thread t).wait == some (Wait.host r) then s.resume t (fun s => s.replied r hpa p) else s
      | .wrote (.back _ _ _) => s
      | .wrote (.engine _ _ _ _) => s
      | .wrote (.device _) => s
      | .plain y =>
        let s := s.hostBrings (64 * y)
        s.setCluster cl { s.cluster cl with hostGot := NatSet.ins (s.cluster cl).hostGot y }
      | .plainAccess t r hpa => (s.hostBrings hpa).plainDone cl t r hpa
    some (((s.domainOf cl).map s.postMsix).getD s).settleAts
/-- HOST_COMPLETION (R380). -/
def execHostCompletion (s : State) : Out := .next (s.traffic .hostCompletion (fun s => ((s.tryHost s.ev.cluster).map s.settled).getD s))
/-- A snoop of the host reaches every port (R380): `f` is the line's new state. -/
def State.snoopPorts (s : State) (y : Nat) (f : Mesi → Option Mesi) : State :=
  let held := s.clusters.any (fun e => (Map.find e.2.hostLines y).isSome)
  let one := fun (c : Cluster) => match Map.find c.hostLines y with
    | none => c
    | some m => { c with hostLines := match f m with
      | some n => Map.set c.hostLines y n
      | none => Map.del c.hostLines y }
  { s with clusters := s.clusters.map (fun e => (e.1, one e.2)), hostOut := s.hostOut ++ [.snoopAnswer y held] }
/-- SNP_DATA (R380). -/
def execSnpData (s : State) : Out := .next (s.traffic .snpData (fun s => s.snoopPorts s.ev.line (fun _ => some .s)))
/-- SNP_INV (R380). -/
def execSnpInv (s : State) : Out := .next (s.traffic .snpInv (fun s => s.snoopPorts s.ev.line (fun _ => none)))
/-- SNP_CUR (R380). -/
def execSnpCur (s : State) : Out := .next (s.traffic .snpCur (fun s => s.snoopPorts s.ev.line some))

/-- A run is aborted at once. -/
def State.abortNow (s : State) (id : RunId) : State :=
  let s := s.requestAbort id .requeue
  (s.tryAbort id.cluster id.entry).getD s
/-- A write from outside is performed at its home (R119, R359, R382) with `k`, after the aborts of the tasks it conflicts with: both in
one step, so that no access to the line falls between (log entry 33). -/
def State.outsideWrite (s : State) (home a : Nat) (k : State → State) : State :=
  let s := (s.outsideVictims home a).foldl State.abortNow s
  k (s.outsideMark a)
/-- HOST_MEM_READ (R119, R381, R382), held while the module leaves K4 (R388): the line's committed value goes to the host, whose copy enters the snoop filter; a full filter
recalls its oldest line first. -/
def execHostMemRead (s : State) : Out := .next (
  let a := s.ev.addr / 64 * 64
  let y := a / 64
  if hbmTop ≤ a then s
  else s.hostWrite .hostMemRead (fun s =>
    let home := (s.fhomeOf a).1
    let c := s.cluster home
    if NatSet.has c.biWait y then s
    else if (Map.find c.snoop y).isNone && decide (32768 ≤ c.snoop.length) then
      match c.snoopOld with
      | [] => s
      | o :: _ => s.askBack home o
    else
      let v := (s.committed home a).getD (s.hbm.read a 64)
      let po := (List.range 8).foldl (fun (t : Nat) i => t + (NatSet.has s.hbm.poison (a / 8 + i)).toNat * 2 ^ i) 0
      let old := if (Map.find c.snoop y).isSome then c.snoopOld else c.snoopOld ++ [y]
      { s.setCluster home { c with snoop := Map.set c.snoop y (if s.ev.exclusive then .e else .s), snoopOld := old } with
        hostOut := s.hostOut ++ [.memData a (BitVec.ofNat 512 v) (BitVec.ofNat 8 po)] }))
/-- HOST_MEM_WRITE (R119, R381, R382), held while the module leaves K4 (R388). -/
def execHostMemWrite (s : State) : Out := .next (
  let a := s.ev.addr
  let bytes := s.ev.bytes.take (64 - a % 64)
  if hbmTop ≤ a || bytes.isEmpty then s
  else s.hostWrite .hostMemWrite (fun s =>
    let home := (s.fhomeOf a).1
    s.settled (s.outsideWrite home (a / 64 * 64) (fun s => s.outsideStore home a bytes s.ev.value))))
/-- BACK_INVALIDATE_RESPONSE (R382): the host gives a line back, with its data where it was modified. -/
def execBackInvalidateResponse (s : State) : Out := .next (s.traffic .backInvalidateResponse (fun s =>
  let y := s.ev.line
  let home := (s.fhomeOf (64 * y)).1
  match s.clusters.find? (fun e => NatSet.has e.2.biWait y) with
  | none => s
  | some (k, c) => s.settled (
    let s := s.setCluster k { c with biWait := NatSet.del c.biWait y, snoop := Map.del c.snoop y, snoopOld := c.snoopOld.filter (fun x => x != y) }
    match s.ev.data with
    | none => s
    | some v => s.outsideWrite home (64 * y) (fun s => s.outsideStore home (64 * y)
        ((List.range 64).map (fun i => BitVec.ofNat 8 (v.toNat / 256 ^ i))) s.ev.value))))
/-- The reply to another module: 0 with the value and the poison of its words, 1 for a refusal that its issuer takes as CONTAINED (R383), 2 for
LDE and STF (R102). -/
def State.peerReply (s : State) (st v poison : Nat) : State := { s with hostOut := s.hostOut ++ [.peerReply st v poison] }
/-- The poison marks of the words that `n` bytes at an address touch, as bits. -/
def Store.poisonBits (m : Store) (a n : Nat) : Nat :=
  (rangeFrom (a / 8) ((a + n - 1) / 8 + 1)).foldl (fun b w => if NatSet.has m.poison w then b + 2 ^ (w - a / 8) else b) 0
/-- What another module's access reads: the bytes of its reply and their poison (R383). -/
def Resp.peerValue (r : Resp) (m : Store) (op : MemOp) (a : Nat) : Nat × Nat :=
  match op with
  | .ldacq _ _ | .sigmrg _ => (m.read a 128, m.poisonBits a 128)
  | .load _ _ _ | .loadCap _ _ | .ldf _ | .fec _ | .lde _ => (m.read a op.size, m.poisonBits a op.size)
  | .feq _ => (r.v, 0)
  | .atomic _ _ _ _ _ _ _ _ | .csig _ _ | .strel _ _ => (r.v, m.poisonBits a op.size)
  | .store _ _ | .storeCap _ | .stf _ | .stx _ | .sigrst => (r.v, 0)
/-- An operation of another module that is performed on this one's memory (R102, R123, R130, R383): its words are full and have no tags. What
it publishes is its issuer's. -/
def State.peerOp (s : State) (home a : Nat) (op : MemOp) (pub : Publish) : State :=
  let m := s.outsideView home a op.size
  let p := performOn (if op.isWrite then s.hbm else m) true a op pub
  let v := p.2.peerValue (if op.isWrite then s.hbm else m) op a
  let s := if op.isWrite then { s with hbm := p.1 } else s
  let s := if p.2.partialPoison then s.outsidePartial home [a / 8 * 8] else s
  s.peerReply 0 v.1 v.2
/-- PEER_ACCESS (R383): an access of another module, treated at its home as a host access; it is refused without peer permission, and LDE
and STF always are (R102). No traffic passes the links before DEVNUM, FABBASE and ROUTE are written (R373). -/
def execPeerAccess (s : State) : Out := .next (s.traffic .peerAccess (fun s =>
  let a := s.ev.addr
  let line := a / 64 * 64
  match (if s.barWritten = 7 then s.ev.op else none) with
  | none => s
  | some op =>
    let f := s.fhomeOf a
    if hbmTop ≤ a || !f.2 then s.peerReply 1 0 0
    else if (match op with
      | .access o _ => o.needsFullBit
      | .read _ => false
      | .write _ _ => false) then s.peerReply 2 0 0
    else
      let home := f.1
      let wn : Bool × Nat := match op with
        | .read n => (false, n)
        | .write bytes _ => (true, bytes.length)
        | .access o _ => (o.isWrite, o.size)
      let ys := rangeFrom (a / 64) ((a + wn.2 - 1) / 64 + 1)
      match ys.foldl (fun (acc : Bool × State) y =>
        let r := acc.2.snoopClear { space := .hbm, addr := 64 * y, home := home } wn.1
        (acc.1 && r.1, r.2)) (true, s) with
      | (false, s) => s
      | (true, s) => match op with
        | .read n =>
          let m := s.outsideView home a n
          s.peerReply 0 (m.read a n) (m.poisonBits a n)
        | .write bytes what =>
          -- of what other modules write, a write-back that is not PRE is logged (Table 16-3), and a PRE one changes the snapshot's copy too (R360)
          let note : Option Logged := match what with
            | .writeBack => some (.peerWrite a bytes s.ev.value)
            | .data => none
            | .pre => none
          let s' := match s.domainOf home with
            | some dk => s.throughPort dk home s.ev.port 0 0 note
            | none => some s
          let copied := fun (s : State) => match what, s.leafOf a with
            | .pre, some e => s.patchCopy e ((a - pteFrame e.pte) / 64 * 64) (fun m => m.writeOutside (a % 64) bytes s.ev.value)
            | _, _ => s
          match s'.map copied with
          | none => s
          | some s1 => s.settled (s1.outsideWrite home line (fun s => (s.outsideStore home a bytes s.ev.value).peerReply 0 0 0))
        | .access o pub =>
          if wn.1 then
            s.settled <| (ys.foldl (fun (k : State → State) y => fun s => s.outsideWrite home (64 * y) k) (fun s => s.peerOp home a o pub)) s
          else s.peerOp home a o pub))
/-- LINK_LANE_FAILURE (R347, R385): the first moves the direction of the link to its spare lane, the next fences the link. -/
def execLinkLaneFailure (s : State) : Out := .next (
  let u : TestUnit := .link (.faleus s.ev.port s.ev.inbound)
  if 16 ≤ s.ev.port then s
  else if s.spareLeft u then s.takeSpare u
  else s.settled (s.fenceLink s.ev.port))

/-- The port that a packet for another module leaves by: toward it, or that of its escape channel (R384). -/
def State.portOf (s : State) (dev : Nat) (escape : Bool) : Option Nat := if escape then s.escapeTo dev else s.routeTo dev
/-- A packet for another module crosses the mesh to the port toward it, on the channel of its own plane, and touches no core (R384). -/
def State.transit (s : State) (p : FlowPacket) (dev : Nat) (escape : Bool) : State :=
  match s.portOf dev escape with
  | some q => { s with hostOut := s.hostOut ++ [.forward q p.src p.dst dev p.plane p.seq escape] }
  | none => s
/-- The device of a packet's destination, where that is another module. -/
def State.abroad (s : State) (p : FlowPacket) : Option Nat := p.dev.filter (fun d => d != s.devnum.toNat)
/-- The planes of the flow layer: request, reply, multicast and system (R301). -/
def flowPlane (p : Nat) : Bool := p == 0 || p == 1 || p == 3 || p == 4
/-- The next number of a packet's flow. -/
def State.flowNext (s : State) (p : FlowPacket) : Nat :=
  ((s.flows.find? (fun f => f.src == p.src && f.dst == p.dst && f.plane == p.plane)).map (fun f => f.next)).getD 0
/-- Whether two packets are of one flow. -/
def FlowPacket.sameFlow (a b : FlowPacket) : Bool := a.src == b.src && a.dst == b.dst && a.plane == b.plane
/-- The packets of the reorder buffer that a delivery releases: those that follow number `n` without a gap. -/
def releasedBy (p : FlowPacket) (buf : List FlowPacket) : Nat → Nat → List FlowPacket
  | 0, _ => []
  | k + 1, n => match buf.find? (fun q => q.sameFlow p && q.seq == n) with
    | some q => q :: releasedBy p buf k (n + 1)
    | none => []
/-- FLOW_PACKET_ARRIVAL (R301): the packet that its flow waits for is delivered with those it releases; an early one takes one of the 32
entries of its plane, or is answered with retry. One for another module goes on to its port (R384). -/
def execFlowPacketArrival (s : State) : Out := .next (
  match s.ev.p with
  | none => s
  | some p => match s.abroad p with
  | some d => s.transit p d (s.escaped.contains p)
  | none =>
    let n := s.flowNext p
    if !flowPlane p.plane || decide (p.seq < n) || decide (n + 32 ≤ p.seq) || s.reorder.contains p then s
    else
      let s := { s with retries := s.retries.filter (fun q => q != p), escaped := s.escaped.filter (fun q => q != p) }
      if p.seq = n then
        let out := p :: releasedBy p s.reorder 32 (n + 1)
        let f : Flow := { src := p.src, dst := p.dst, plane := p.plane, next := n + out.length }
        { s with
          delivered := out
          reorder := s.reorder.filter (fun q => !out.contains q)
          flows := s.flows.filter (fun g => !(g.src == p.src && g.dst == p.dst && g.plane == p.plane)) ++ [f] }
      else if (s.reorder.filter (fun q => q.dst == p.dst && q.plane == p.plane)).length < 32 then
        { s with reorder := s.reorder ++ [p], delivered := [] }
      else { s with retries := s.retries ++ [p], delivered := [] })
/-- ESCAPE_TIMEOUT (R301): the packet moves to the escape channel with its number; toward another module that is the one of its escape port
(R384). -/
def execEscapeTimeout (s : State) : Out := .next (
  match s.ev.p with
  | none => s
  | some p => if !flowPlane p.plane || s.escaped.contains p || decide (p.seq < s.flowNext p) then s
    else
      let s := { s with escaped := s.escaped ++ [p] }
      match s.abroad p with
      | some d => s.transit p d true
      | none => s)
/-- RETRY_RESEND (R301): the source sends the packet again, on the escape channel. -/
def execRetryResend (s : State) : Out := .next (
  match s.ev.p with
  | none => s
  | some p => if s.retries.contains p then { s with retries := s.retries.filter (fun q => q != p), escaped := s.escaped ++ [p] } else s)

end Sys2Proof.Machine
end

