-- ==== Sys2Proof/Machine/Power.lean ====
section
/-!
DEFINITION. The Lodge: power states, the limit, thermal control and displacement, and bring-up (R163, R387 to R394).
-/
namespace Sys2Proof.Machine

/-- TH1 and TH2 in sixteenths of a degree (Table 18-3). -/
def Lodge.th1 (l : Lodge) : Int := (l.th.toNat % 256 : Nat) * 16
/-- TH2. -/
def Lodge.th2 (l : Lodge) : Int := (l.th.toNat / 256 : Nat) * 16
/-- The reading of a cluster's sensor. -/
def Lodge.temp (l : Lodge) (cl : Nat) : Int := Map.get 0 l.temps cl
/-- TH_WRITE (Table 18-3): TH1 from 60 to 100, TH2 from TH1 + 5 to 110; another value leaves TH unchanged. -/
def execThWrite (s : State) : Out := .next (
  let a := wfld s.ev.value 0 8
  let b := wfld s.ev.value 8 8
  if 60 ≤ a && decide (a ≤ 100) && decide (a + 5 ≤ b) && decide (b ≤ 110) then s.modLodge (fun l => { l with th := s.ev.value.setWidth 16 }) else s)

/-- POWER_ON (R393): the full bring-up of a module without power. -/
def execPowerOn (s : State) : Out := .next (if s.lodge.on then s else s.bringUp false false)
/-- POWER_LOSS (R394): everything but the boot records in flash is lost. -/
def execPowerLoss (s : State) : Out := .next
  { host := s.host, hostOut := s.hostOut, ev := s.ev, schedule := s.schedule, freeCount := s.freeCount, turn := s.turn
    lodge := { copyA := s.lodge.copyA, copyB := s.lodge.copyB } }
/-- The running step fails (R393, R394): in the resume form a full bring-up follows; after an alternate the primary runs once; an optional
step is recorded as failed; any other ends bring-up with BOOT = 2. -/
def State.stepFails (s : State) (us : Nat) (detail : Word) : State :=
  let l := s.lodge
  let n := l.step
  let e := Map.get {} l.last.steps n
  let failed : BootStep := { e with outcome := 4, us := us, detail := detail }
  if n = 0 then s
  else if l.resuming then (s.modLodge (fun l => l.writeStep n failed)).dark.bringUp false l.waking
  else if e.alternate then s.modLodge (fun l => l.writeStep n { outcome := 5, attempts := e.attempts + 1, alternate := false, us := us, detail := detail })
  else if optionalStep n then (s.modLodge (fun l => l.writeStep n failed)).nextStep (n + 1) 9
  else s.modLodge (fun l => { l.writeStep n failed with boot := 2, step := 0 })
/-- The running step passes: step 5 by its alternate fences the failing core, step 6 clears the memories (Table 18-4). -/
def State.stepPasses (s : State) (us : Nat) (detail : Word) : State :=
  let l := s.lodge
  let n := l.step
  let e := Map.get {} l.last.steps n
  if n = 0 then s
  else
    let s := s.modLodge (fun l => l.writeStep n { e with outcome := if e.alternate then 2 else 1, us := us, detail := detail })
    let s := if n = 5 && e.alternate then s.modLodge (fun l => { l with fencedCores := NatSet.ins l.fencedCores s.ev.core }) else s
    let s := if n = 6 then { s with hbm := {}, scratch := {}, carved := {} } else s
    (if n = 5 then s.refence else s).nextStep (n + 1) 9
/-- BRING_UP_STEP_END (R393, R394): `pass` with its duration and detail; a core that step 5 fences is `core`. -/
def execBringUpStepEnd (s : State) : Out := .next (if s.ev.pass then s.stepPasses s.ev.us s.ev.detail else s.stepFails s.ev.us s.ev.detail)
/-- BRING_UP_WATCHDOG (R393): the running step has failed. -/
def execBringUpWatchdog (s : State) : Out := .next (s.stepFails s.ev.us s.ev.detail)
/-- FALEUS_PORT_UP (R393): in step 8 of a full bring-up, or after BOOT reads 1. -/
def execFaleusPortUp (s : State) : Out := .next (
  let p := s.ev.port
  let bit := (1 : BitVec 16) <<< p
  if 16 ≤ p || !(s.lodge.boot = 1 || s.lodge.step = 8) || s.portsFenced.getLsbD p then s
  else
    let s := { s with portsUp := s.portsUp ||| bit }
    let u : TestUnit := .link (.faleus p s.ev.inbound)
    if s.ev.spare && s.spareLeft u then s.takeSpare u else s)
/-- LCMD_REBOOT (R390, R392): acted on only while BOOT is 2 or 3. -/
def execLcmdReboot (s : State) : Out := .next (if s.lodge.boot = 2 || s.lodge.boot = 3 then s.dark.bringUp false false else s)

/-- Whether a cluster may be clock-gated (Table 18-1). -/
def State.clusterIdle (s : State) (cl : Nat) : Bool :=
  (s.threads.filter (fun e => clusterOf (tidOf e.1).core == cl)).all (fun e => e.2.status != .running)
    && (s.cores.filter (fun e => clusterOf e.1 == cl)).all (fun e => e.2.landing.isEmpty && e.2.running.isNone && e.2.incoming.isEmpty)
    && (s.cluster cl).queue.all (fun e => e.2.st != .queued) && (s.cluster cl).flying.isEmpty
/-- Whether K3 may be entered (Table 18-1). -/
def State.mayK3 (s : State) (quietUs : Nat) : Bool :=
  s.domains.all (fun e => (s.unfinished e.1).isEmpty && e.2.ingress.isEmpty && !e.2.snap.any (fun x => x.runs || x.phase == .loc))
    && s.clusters.all (fun e => e.2.hostReqs.isEmpty && e.2.asked.isEmpty && e.2.peerReqs.isEmpty) && decide (1000 ≤ quietUs)
/-- How many microseconds the idle conditions of a cluster have held: what the event names for it, else `quietUs`. -/
def State.idleUs (s : State) (cl quietUs : Nat) : Nat := ((s.ev.idle.find? (fun e => e.1 == cl)).map Prod.snd).getD quietUs
/-- The part of a space of memory that the units of a predicate lie in. -/
def Store.part (m : Store) (keep : Nat → Bool) : Store :=
  { bytes := m.bytes.filter (fun e => keep e.1), full := m.full.filter (fun w => keep (8 * w)), tags := m.tags.filter (fun g => keep (16 * g))
    poison := m.poison.filter (fun w => keep (8 * w)) }
/-- A power-gated cluster loses everything (Table 18-1): its cores are reset, its scratchpads zero, and the carved part of its slice is gone. -/
def State.powerGate (s : State) (cl : Nat) : State :=
  let gone := fun (c : Nat) => clusterOf c == cl
  { s with
    threads := s.threads.filter (fun e => !gone (tidOf e.1).core)
    cores := s.cores.filterMap (fun e => if gone e.1 then (if e.2.contained then some (e.1, { contained := true }) else none) else some e)
    clusters := Map.del s.clusters cl
    scratch := s.scratch.part (fun a => clusterOf (scratchCore a) != cl)
    carved := s.carved.part (fun a => a / carveMax != cl)
    lodge := { s.lodge with powerGated := NatSet.ins s.lodge.powerGated cl } }
/-- The Lodge chooses the deepest state that LATTOL and the entry conditions allow (R387). -/
def State.choosePower (s : State) (quietUs : Nat) : State :=
  let tol := s.lattol.toNat % 2 ^ 32
  if s.lodge.boot ≠ 1 then s
  else
    let all := List.range 1024
    let clock := fun (s : State) => s.modLodge (fun l => { l with clockGated := all.filter (fun c => decide (10 ≤ s.idleUs c quietUs) && s.clusterIdle c) })
    if s.domains.isEmpty && decide (150000000 ≤ tol) then s.dark.modLodge (fun l => { l with k := 4, boot := 0, clockGated := [], powerGated := [] })
    else if s.mayK3 quietUs && decide (2000000 ≤ tol) then s.modLodge (fun l => { l with k := 3 })
    else if 40000 ≤ tol then
      let s := clock s
      let s := (all.filter (fun c => decide (100 ≤ s.idleUs c quietUs) && (s.domainOf c).isNone && s.clusterIdle c)).foldl State.powerGate s
      s.modLodge (fun l => { l with k := 2 })
    else if 2000 ≤ tol then (clock s).modLodge (fun l => { l with k := 1, powerGated := [] })
    else s.modLodge (fun l => { l with k := 0, clockGated := [], powerGated := [] })
/-- POWER_STATE_EVALUATE (R387). -/
def execPowerStateEvaluate (s : State) : Out := .next (if s.lodge.k = 4 then s else s.choosePower s.ev.quietUs)
/-- WAKE_EVENT (R388). -/
def execWakeEvent (s : State) : Out := .next (s.wakeUp s.ev.gated)
/-- LATTOL_WRITE (R373, R387): a wake event, as every host write is, after which the state is chosen anew. -/
def execLattolWrite (s : State) : Out := .next (s.hostWrite .lattolWrite (fun s =>
  { s with lattol := s.ev.value.setWidth 32 |>.setWidth 64 }.choosePower s.ev.quietUs))
/-- POWER_WINDOW (R389). -/
def execPowerWindow (s : State) : Out := .next (s.modLodge (fun l =>
  let mw := s.ev.milliwatts
  { l with
    milliwatts := mw
    limiting := if l.limiting then !decide (mw < 2700000) else decide (2800000 < mw) && decide (75 ≤ s.ev.dutyPercent) && decide (75 ≤ s.ev.utilPercent) }))

/-- The thermal ranking (R391): clusters coolest first, those of one reading in order of number. -/
def Lodge.rank (l : Lodge) : List Nat :=
  (List.range 1024).foldl (fun (acc : List Nat) c =>
    acc.filter (fun x => decide (l.temp x ≤ l.temp c)) ++ [c] ++ acc.filter (fun x => !decide (l.temp x ≤ l.temp c))) []
/-- The cluster that takes a domain's displaced tasks (R163): the first of the Lodge's ranking that lies in the domain. -/
def State.coolest (s : State) (dk : Nat) : Nat :=
  let order := if s.lodge.ranking.isEmpty then List.range 1024 else s.lodge.ranking
  (order.find? (s.domain dk).holds).getD ((s.domain dk).clusterAt 0)
/-- The eligible non-speculative tasks of a cluster at or below TH2 that do not fit (R147, R390). -/
def State.roomless (s : State) (cl : Nat) : List Nat :=
  match s.domainOf cl with
  | none => []
  | some dk =>
    let fits := fun (e : TaskEntry) => (s.isLowest dk e.vt || decide ((if e.dup then 2 * e.width else e.width) < s.countFree cl))
      && (s.pickSlots cl e.width e.dup).isSome
    if s.lodge.temp cl ≤ s.lodge.th2 then
      ((s.cluster cl).queue.filter (fun e => e.2.st == .queued && !e.2.spec && s.eligible dk e.2.vt && !fits e.2)).map Prod.fst
    else []
/-- Whether such a task waits for room. -/
def State.gangWaits (s : State) (cl : Nat) : Bool := !(s.roomless cl).isEmpty
/-- The tasks that room is made for: the slots that their threads take are exempt until those end (R390). -/
def State.markRoomless (s : State) (cl : Nat) : State :=
  let ks := s.roomless cl
  if ks.isEmpty then s
  else
    let c := s.cluster cl
    s.setCluster cl { c with queue := c.queue.map (fun e => if ks.contains e.1 then (e.1, { e.2 with roomed := true }) else e) }
/-- Whether the Lodge may disable the slot of a live thread (R163, R206, R268, R295, R307, R390). -/
def State.mayDisable (s : State) (t : Tid) : Bool :=
  let h := s.thread t
  let co := s.core t.core
  let low := match h.domain with
    | some dk => s.isLowest dk h.vt
    | none => false
  let cam := co.camq.any (fun o => match o with
    | .load u _ _ _ _ _ => u == t
    | .probe u _ _ _ _ _ _ => u == t)
  let roomed := (h.task.bind s.taskOf).any (fun e => e.roomed)
  h.task.isSome && h.gsiz.toNat == 1 && !roomed && !low && !h.tableBound && (s.ownRows t).isEmpty && !cam
    && co.fifo.all (fun q => q.issuer != t) && co.inflight.all (fun e => e.2.issuer != t)
/-- The slots of a cluster that the Lodge may disable, in its order (R390): idle ones, speculative tasks of highest VT first, other width-1
tasks. -/
def State.disableOrder (s : State) (cl : Nat) : List (List Tid) :=
  let all := (List.range 64).flatMap (fun k => (List.range 15).map (fun i => (⟨64 * cl + k, i⟩ : Tid)))
  let idle := all.filter (fun t => (s.thread t).status == .idle)
  let live := all.filter (fun t => (s.thread t).live && !(s.core t.core).preempted && !(s.core t.core).quiescing && s.mayDisable t)
  let spec := (sortVT (fun t => (s.thread t).vt) (live.filter (fun t => (s.thread t).spec))).reverse
  [idle] ++ spec.map (fun t => [t]) ++ [live.filter (fun t => !(s.thread t).spec)]
/-- The barrier entry of a thread's gang. -/
def State.barOf (s : State) (h : Thread) : Option (Nat × Nat) :=
  h.task.bind (fun id => (s.taskOf id).bind (fun e => e.bar.map (fun b => (id.cluster, b))))
/-- A running non-speculative width-1 task is displaced (R163): after the write-back of R120 its context is sent to the coolest cluster of
its domain. None while it cannot leave yet: also while its matrix operations and commands have not completed (log entry 53). -/
def State.displace (s : State) (t : Tid) : Option State :=
  let h := s.thread t
  match h.domain with
  | none => none
  | some dk =>
    let busy := (h.dup && !s.foldable t) || s.matrixBusy t
    if s.withdrawal t == .first || !h.rx.isEmpty || s.streaming t || s.hasPosted t || busy then none
    else match s.flushAll t.core with
      | (false, s2) => s.ifNew s2
      | (true, s2) =>
        -- a write-back that its port holds is unacknowledged too (R332)
        if !(s2.owed t.core).isEmpty then s.ifNew s2
        else
        let s := s2
        let w := s.withdrawal t
        let s := s.withdraw t
        let h := match w with
          | .again => (s.thread t).again
          | .keep => s.thread t
          | .first => s.thread t
        let h := if h.dup then s.paired t else h
        let s := if h.dup then (s.withdraw (trailTid t)).setThread (trailTid t) {} else s
        let s := s.modBarrier (s.barOf h) (fun b => { b with live := b.live.filter (fun u => u != t) })
        let dest := s.coolest dk
        let c := s.cluster dest
        some (((s.setCluster dest { c with contexts := c.contexts ++ [h.leaving] }).setThread t { status := .disabled }).tilePt t.core)
/-- The Lodge disables a general slot that it may disable (R163, R390): an idle one at once; a speculative task is aborted and queued in the coolest
cluster of its domain, another one is displaced. None while that cannot be done. -/
def State.disableSlot (s : State) (t : Tid) : Option State :=
  let h := s.thread t
  if h.status = .idle then some (s.setThread t { status := .disabled })
  else if h.spec then match h.task, h.domain with
    | some id, some dk => (s.taskOf id).map (fun e =>
        (s.abortTask dk id.cluster id.entry e (.moveTo (s.coolest dk))).setThread t { status := .disabled })
    | _, _ => none
  else s.displace t
/-- The Lodge disables one general slot of a cluster, the first in its order that can be disabled now (R390): the event names it where several
come alike. -/
def State.disableOne (s : State) (cl : Nat) : Option State :=
  (s.disableOrder cl).findSome? (fun l => (if l.contains s.ev.t then s.ev.t :: l else l).findSome? s.disableSlot)
/-- The Lodge enables one disabled slot of a cluster (R390). -/
def State.enableOne (s : State) (cl : Nat) : Option State :=
  let off := (s.threads.filter (fun e => clusterOf (tidOf e.1).core == cl && e.2.status == .disabled)).map (fun e => tidOf e.1)
  match off with
  | [] => none
  | t0 :: _ => some (s.setThread (if off.contains s.ev.t then s.ev.t else t0) {})
/-- SLOT_DISABLE (R390): above TH1, unless a gang waits for room. -/
def execSlotDisable (s : State) : Out :=
  let cl := s.ev.cluster
  if s.lodge.temp cl ≤ s.lodge.th1 then .next s else if s.gangWaits cl then .next (s.markRoomless cl) else s.event (s.disableOne cl)
/-- SLOT_ENABLE (R390): below TH1 less 5 degrees. -/
def execSlotEnable (s : State) : Out :=
  let cl := s.ev.cluster
  if s.lodge.temp cl < s.lodge.th1 - 80 then s.event (s.enableOne cl) else .next s
/-- Every slot that may be disabled is disabled (R390). -/
def State.disableAll (s : State) (cl : Nat) : Nat → State
  | 0 => s
  | n + 1 => match s.disableOne cl with
    | none => s
    | some s => s.disableAll cl n
/-- THERMAL_READING (R390): the readings; a trip at 115 degrees; every slot above TH2; one slot for a gang that waits. -/
def execThermalReading (s : State) : Out := .next (
  let s := s.modLodge (fun l => { l with
    temps := s.ev.temps.foldl (fun m e => Map.set m e.1 e.2) l.temps
    rosc := s.ev.rosc.foldl (fun m e => Map.set m e.1 e.2) l.rosc
    vmon := s.ev.vmon.foldl (fun m e => Map.set m e.1 e.2) l.vmon })
  if s.lodge.temps.any (fun e => decide (1840 ≤ e.2)) then
    s.dark.modLodge (fun l => { l with
      boot := 3, k := 4, step := 0, clockGated := [], powerGated := []
      log := l.log ++ (l.temps.filter (fun e => decide (1840 ≤ e.2))).map (fun e => .trip e.1 e.2) })
  else s.lodge.temps.foldl (fun (acc : State) e =>
    if acc.lodge.th2 < acc.lodge.temp e.1 then acc.disableAll e.1 960
    else if acc.gangWaits e.1 then
      let acc := acc.markRoomless e.1
      (acc.enableOne e.1).getD acc
    else acc) s)
/-- THERMAL_RANKING_UPDATE (R391, Table 18-2): the internal ranking, and the table of every domain that has one, once the homes of its
lines are clear. -/
def execThermalRankingUpdate (s : State) : Out := .next (
  let rank := s.lodge.rank
  let s := s.modLodge (fun l => { l with ranking := rank })
  let temp := fun (c : Nat) => ((s.lodge.temp c).emod 65536).toNat
  s.domains.foldl (fun (acc : State) e =>
    let base := e.2.thermt.toNat
    if base = 0 then acc
    else
      let r := (List.range 65).foldl (fun (p : Bool × State) i =>
        match locate p.2 (e.2.clusterAt 0) e.1 (base + 64 * i) { w := true } true with
        | .at l _ => let q := p.2.homeClear e.1 (.engine 0x10000) l (base + 64 * i) true; (p.1 && q.1, q.2)
        | _ => p) (true, acc)
      if !r.1 then r.2
      else
        -- SEQ is even once the table is consistent
        let seq := (r.2.domRead e.1 base 8).getD 0 / 2 * 2
        r.2.settled <| r.2.devFields e.1 base ([(0, 8, seq + 2), (8, 8, s.ev.us)]
          ++ rank.zipIdx.map (fun p => (16 + 2 * p.2, 2, p.1)) ++ (List.range 1024).map (fun c => (2064 + 2 * c, 2, temp c)))) s)
/-- Whether the general slots of a cluster leave room for a thread, or a pair, of virtual time `v` (R20): one stays free for the lowest-VT task. -/
def State.contextRoom (s : State) (cl dk : Nat) (h : Thread) : Bool :=
  let need := if h.dup then 2 else 1
  if s.isLowest dk h.vt then decide (need ≤ s.countFree cl) else decide (need < s.countFree cl)
/-- CONTEXT_MESSAGE_ARRIVAL (R120, R163): the oldest displaced context takes a free slot and goes on; it waits while none is free but the reserved
one (R20). -/
def State.tryContext (s : State) (cl : Nat) : Option State :=
  match (s.cluster cl).contexts with
  | [] => none
  | h :: rest =>
    let free := (List.range 64).findSome? (fun k => ((s.freeSlots cl k h.dup).head?).map (fun i => (⟨64 * cl + k, i⟩ : Tid)))
    match (if h.domain.all (fun dk => s.contextRoom cl dk h) then free else none) with
    | none => none
    | some t =>
      let s := (s.setCluster cl { s.cluster cl with contexts := rest }).setThread t h
      let s := match h.task with
        | some id =>
          let old := ((s.taskOf id).bind (fun e => e.threads.head?)).getD t
          let s := match h.domain with
            | some dk => s.setDomain dk { s.domain dk with supervisors := (s.domain dk).supervisors.map (fun u => if u == old then t else u) }
            | none => s
          let s := s.modTask id (fun e => { e with threads := [t] })
          let b := s.barOf h
          let s := s.modBarrier b (fun b => { b with live := [t] })
          match b.bind (fun p => Map.find (s.cluster p.1).bars p.2) with
          | some b => if b.wake.isEmpty then s.setThread t { s.thread t with lv := b.lc } else s
          | none => s
        | none => s
      let s := if h.dup then s.startTrail t else s
      some (s.goOn t)
/-- CONTEXT_MESSAGE_ARRIVAL (R163). -/
def execContextMessageArrival (s : State) : Out := s.event (s.tryContext s.ev.cluster)

/-- LSTAT (Table 18-3). -/
def State.lstat (s : State) : Nat :=
  let l := s.lodge
  let degraded := !l.fencedCores.isEmpty || s.portsFenced != 0 || l.last.steps.any (fun e => e.2.outcome == 2)
  l.boot + l.k * 16 + l.limiting.toNat * 2 ^ 8 + degraded.toNat * 2 ^ 9
/-- DEGR (Table 18-3). -/
def State.degr (s : State) : Nat :=
  s.portsFenced.toNat + s.lodge.fencedCores.length % 2 ^ 16 * 2 ^ 16 + s.lodge.spared % 2 ^ 16 * 2 ^ 32
/-- TMAX (Table 18-3). -/
def Lodge.tmax (l : Lodge) : Nat :=
  let m := l.temps.foldl (fun (a : Nat × Int) e => if a.2 < e.2 then e else a) (l.temps.head?.getD (0, 0))
  (m.2.emod 65536).toNat + m.1 * 2 ^ 16
/-- The bytes of a boot-record entry (R394). -/
def BootStep.word (n : Nat) (e : BootStep) : Nat :=
  n + e.outcome * 2 ^ 8 + e.attempts * 2 ^ 16 + e.alternate.toNat * 2 ^ 24 + e.us % 2 ^ 32 * 2 ^ 32 + e.detail.toNat * 2 ^ 64
/-- The register of BAR4 at an 8-byte offset below 0x1000 (Table 18-3); LCMD is write-only, and reads zero (R6). -/
def State.bar4Reg (s : State) (off : Nat) : Nat :=
  if off = 0x00 then s.lstat
  else if off = 0x08 then s.degr
  else if off = 0x10 then s.lodge.tmax
  else if off = 0x18 then s.lodge.milliwatts
  else if off = 0x20 then s.lodge.th.toNat
  else 0
/-- A byte of BAR4 (Table 18-3): the registers, the readings of 2 bytes each, and the entries of the current boot record, that of step n at
0x3000 + 16 (n - 1), which reads zero before it is first written; every other offset reads zero. -/
def State.bar4Byte (s : State) (off : Nat) : Nat :=
  let byte := fun (v o : Nat) => v / 256 ^ o % 256
  if off < 0x30 then byte (s.bar4Reg (off / 8 * 8)) (off % 8)
  else if 0x1000 ≤ off ∧ off < 0x1800 then byte ((s.lodge.temp ((off - 0x1000) / 2)).emod 65536).toNat (off % 2)
  else if 0x1800 ≤ off ∧ off < 0x2000 then byte (Map.get 0 s.lodge.rosc ((off - 0x1800) / 2)) (off % 2)
  else if 0x2000 ≤ off ∧ off < 0x2080 then byte (Map.get 0 s.lodge.vmon ((off - 0x2000) / 2)) (off % 2)
  else if 0x3000 ≤ off ∧ off < 0x3080 then
    let n := (off - 0x3000) / 16 + 1
    match Map.find s.lodge.last.steps n with
    | some e => byte (BootStep.word n e) (off % 16)
    | none => 0
  else 0
/-- A host read of `n` bytes at an offset of BAR4 (R6, R392). -/
def State.bar4Read (s : State) (off n : Nat) : Nat := (List.range n).foldl (fun a i => a + s.bar4Byte (off + i) * 256 ^ i) 0

end Sys2Proof.Machine
end

