-- ==== Sys2Proof/Machine/Scalar.lean ====
section
/-!
DEFINITION. Scalar integer, control and capability instructions (majors 0x01 to 0x0F).
-/
namespace Sys2Proof.Machine

/-- A scalar result is written and the thread goes on (R63). -/
def scalar (d : RegNum) (v : Word) (s : State) : State := (s.writeWord d v).finish
/-- A capability result is written and the thread goes on (R76). -/
def capResult (d : RegNum) (c : CReg) (s : State) : State := (s.writeCap d c).finish
/-- The number of zeros above the highest set bit (Table 4-1). -/
def clz64 (x : Word) : Word := wordOf (64 - bitLen x.toNat)
/-- The number of zeros below the lowest set bit (Table 4-1). -/
def ctz64 (x : Word) : Word := wordOf (((List.range 64).find? (fun i => x.getLsbD i)).getD 64)
/-- The field of R66: position and length, cut at bit 63. -/
def fieldPos (y : Word) : Nat := wfld y 0 6
/-- The length of the field of R66. -/
def fieldLen (y : Word) : Nat := min (fieldPos y + wfld y 8 6 + 1) 64 - fieldPos y
/-- EXTBN (R66). -/
def extractN (x y : Word) : Word := wordOf (x.toNat / 2 ^ fieldPos y % 2 ^ fieldLen y)
/-- EXTB (R66). -/
def extractS (x y : Word) : Word :=
  let f := x.toNat / 2 ^ fieldPos y % 2 ^ fieldLen y
  if f / 2 ^ (fieldLen y - 1) % 2 = 1 then BitVec.ofInt 64 ((f : Int) - 2 ^ fieldLen y) else wordOf f
/-- INSB (R66). -/
def insertField (d x y : Word) : Word :=
  let m := wordOf ((2 ^ fieldLen y - 1) * 2 ^ fieldPos y)
  (d &&& ~~~m) ||| ((x <<< fieldPos y) &&& m)
/-- A division instruction: DIVZ with the instruction word when the divisor is zero (R65). -/
def division (i : Instr) (d b : RegNum) (r : Word) (s : State) : State :=
  if s.word b = 0 then s.raise ⟨.divz, encodeNat i⟩ else scalar d r s

/-- ADD (R64). -/
def execAdd (d a b : RegNum) (s : State) : Out := .next (scalar d (s.word a + s.word b) s)
/-- SUB (R64). -/
def execSub (d a b : RegNum) (s : State) : Out := .next (scalar d (s.word a - s.word b) s)
/-- MUL (R64). -/
def execMul (d a b : RegNum) (s : State) : Out := .next (scalar d (s.word a * s.word b) s)
/-- MULH (R64). -/
def execMulh (d a b : RegNum) (s : State) : Out := .next (scalar d (BitVec.ofInt 64 ((s.word a).toInt * (s.word b).toInt / 2 ^ 64)) s)
/-- MULHN (R64). -/
def execMulhn (d a b : RegNum) (s : State) : Out := .next (scalar d (wordOf ((s.word a).toNat * (s.word b).toNat / 2 ^ 64)) s)
/-- DIV (R65): truncates; −2^63 ÷ −1 wraps to −2^63. -/
def execDiv (d a b : RegNum) (s : State) : Out := .next (division (.div d a b) d b (BitVec.ofInt 64 ((s.word a).toInt.tdiv (s.word b).toInt)) s)
/-- DIVN (R65). -/
def execDivn (d a b : RegNum) (s : State) : Out := .next (division (.divn d a b) d b (wordOf ((s.word a).toNat / (s.word b).toNat)) s)
/-- REM (R65): the sign of the dividend. -/
def execRem (d a b : RegNum) (s : State) : Out := .next (division (.rem d a b) d b (BitVec.ofInt 64 ((s.word a).toInt.tmod (s.word b).toInt)) s)
/-- REMN (R65). -/
def execRemn (d a b : RegNum) (s : State) : Out := .next (division (.remn d a b) d b (wordOf ((s.word a).toNat % (s.word b).toNat)) s)
/-- AND (R64). -/
def execAnd (d a b : RegNum) (s : State) : Out := .next (scalar d (s.word a &&& s.word b) s)
/-- OR (R64). -/
def execOr (d a b : RegNum) (s : State) : Out := .next (scalar d (s.word a ||| s.word b) s)
/-- XOR (R64). -/
def execXor (d a b : RegNum) (s : State) : Out := .next (scalar d (s.word a ^^^ s.word b) s)
/-- ANDN (R64). -/
def execAndn (d a b : RegNum) (s : State) : Out := .next (scalar d (s.word a &&& ~~~(s.word b)) s)
/-- SHL (R64). -/
def execShl (d a b : RegNum) (s : State) : Out := .next (scalar d (s.word a <<< (wfld (s.word b) 0 6)) s)
/-- SHR (R64). -/
def execShr (d a b : RegNum) (s : State) : Out := .next (scalar d (s.word a >>> (wfld (s.word b) 0 6)) s)
/-- SHA (R64). -/
def execSha (d a b : RegNum) (s : State) : Out := .next (scalar d ((s.word a).sshiftRight (wfld (s.word b) 0 6)) s)
/-- ROTR (R64). -/
def execRotr (d a b : RegNum) (s : State) : Out := .next (scalar d ((s.word a).rotateRight (wfld (s.word b) 0 6)) s)
/-- CLZ (R64). -/
def execClz (d a : RegNum) (s : State) : Out := .next (scalar d (clz64 (s.word a)) s)
/-- CTZ (R64). -/
def execCtz (d a : RegNum) (s : State) : Out := .next (scalar d (ctz64 (s.word a)) s)
/-- POPC (R64). -/
def execPopc (d a : RegNum) (s : State) : Out := .next (scalar d (wordOf (popcount (s.word a))) s)
/-- MIN (R64). -/
def execMin (d a b : RegNum) (s : State) : Out := .next (scalar d (if (s.word a).toInt ≤ (s.word b).toInt then s.word a else s.word b) s)
/-- MAX (R64). -/
def execMax (d a b : RegNum) (s : State) : Out := .next (scalar d (if (s.word a).toInt ≥ (s.word b).toInt then s.word a else s.word b) s)
/-- MINN (R64). -/
def execMinn (d a b : RegNum) (s : State) : Out := .next (scalar d (if (s.word a).toNat ≤ (s.word b).toNat then s.word a else s.word b) s)
/-- MAXN (R64). -/
def execMaxn (d a b : RegNum) (s : State) : Out := .next (scalar d (if (s.word a).toNat ≥ (s.word b).toNat then s.word a else s.word b) s)
/-- SEQ (R64). -/
def execSeq (d a b : RegNum) (s : State) : Out := .next (scalar d (ofBool (s.word a == s.word b)) s)
/-- SNE (R64). -/
def execSne (d a b : RegNum) (s : State) : Out := .next (scalar d (ofBool (s.word a != s.word b)) s)
/-- SLT (R64). -/
def execSlt (d a b : RegNum) (s : State) : Out := .next (scalar d (ofBool (decide ((s.word a).toInt < (s.word b).toInt))) s)
/-- SLTN (R64). -/
def execSltn (d a b : RegNum) (s : State) : Out := .next (scalar d (ofBool (decide ((s.word a).toNat < (s.word b).toNat))) s)
/-- SLE (R64). -/
def execSle (d a b : RegNum) (s : State) : Out := .next (scalar d (ofBool (decide ((s.word a).toInt ≤ (s.word b).toInt))) s)
/-- SLEN (R64). -/
def execSlen (d a b : RegNum) (s : State) : Out := .next (scalar d (ofBool (decide ((s.word a).toNat ≤ (s.word b).toNat))) s)
/-- SEL (R64). -/
def execSel (d a b c : RegNum) (s : State) : Out := .next (scalar d (if s.word c ≠ 0 then s.word a else s.word b) s)
/-- EXTB (R66). -/
def execExtb (d a b : RegNum) (s : State) : Out := .next (scalar d (extractS (s.word a) (s.word b)) s)
/-- EXTBN (R66). -/
def execExtbn (d a b : RegNum) (s : State) : Out := .next (scalar d (extractN (s.word a) (s.word b)) s)
/-- INSB (R66). -/
def execInsb (d a b : RegNum) (s : State) : Out := .next (scalar d (insertField (s.word d) (s.word a) (s.word b)) s)
/-- ADDI (R67). -/
def execAddi (d a : RegNum) (imm : BitVec 16) (s : State) : Out := .next (scalar d (s.word a + imm.signExtend 64) s)
/-- ANDI (R67). -/
def execAndi (d a : RegNum) (imm : BitVec 16) (s : State) : Out := .next (scalar d (s.word a &&& imm.setWidth 64) s)
/-- ORI (R67). -/
def execOri (d a : RegNum) (imm : BitVec 16) (s : State) : Out := .next (scalar d (s.word a ||| imm.setWidth 64) s)
/-- XORI (R67). -/
def execXori (d a : RegNum) (imm : BitVec 16) (s : State) : Out := .next (scalar d (s.word a ^^^ imm.setWidth 64) s)
/-- SLTI (R67). -/
def execSlti (d a : RegNum) (imm : BitVec 16) (s : State) : Out := .next (scalar d (ofBool (decide ((s.word a).toInt < imm.toInt))) s)
/-- SHLI (R68). -/
def execShli (d a : RegNum) (n : Fin 64) (s : State) : Out := .next (scalar d (s.word a <<< n.val) s)
/-- SHRI (R68). -/
def execShri (d a : RegNum) (n : Fin 64) (s : State) : Out := .next (scalar d (s.word a >>> n.val) s)
/-- SHAI (R68). -/
def execShai (d a : RegNum) (n : Fin 64) (s : State) : Out := .next (scalar d ((s.word a).sshiftRight n.val) s)
/-- LIH (R69): chained when the instruction issued just before is an LIHH of the same register, and no ELECT governs. -/
def execLih (d : RegNum) (imm : BitVec 16) (s : State) : Out := .next (
  if s.cur.lihhPrev = some d ∧ d ≠ 0 ∧ s.cur.electing = none then
    scalar d (((s.word d >>> 32) <<< 32) ||| ((imm.setWidth 64 : Word) <<< 16)) s
  else scalar d (((imm.signExtend 64 : Word)) <<< 16) s)
/-- LIHH (R69). -/
def execLihh (d : RegNum) (imm : BitVec 16) (s : State) : Out := .next (
  let s' := scalar d ((imm.signExtend 64 : Word) <<< 32) s
  if s.cur.electing = none then s'.setCur { s'.cur with lihhNow := some d, lihhPc := s.cur.pcc } else s')

/-- CSADR, CINC, CINCI (R77): the address as computed modulo 2^64; the tag stays only when the source is unsealed and the bounds
decode as before. -/
def moveAddr (c : CReg) (a : Nat) : CReg :=
  let n := c.withAddr (a % 2 ^ 64)
  { n with tag := c.tag && c.otype == 0 && n.base == c.base && n.len == c.len }
/-- The encoding of bounds (R78): exponent, base mantissa, length mantissa, rounded base and rounded top, at the least exponent
that holds them. -/
def encodeBounds (base top : Nat) : Option (Nat × Nat × Nat × Nat × Nat) :=
  (List.range 44).findSome? (fun e =>
    let lo := base / 2 ^ e
    let hi := (top + 2 ^ e - 1) / 2 ^ e
    if hi - lo ≤ 2 ^ 21 - 1 then some (e, lo % 2 ^ 21, hi - lo, lo * 2 ^ e, hi * 2 ^ e) else none)
/-- CBND and CBNDX (R78, Table 4-7). -/
def setBounds (exact : Bool) (d a b : RegNum) (s : State) : State :=
  let c := s.reg a
  match checkTag c a.val false [] with
  | some e => s.raise e
  | none =>
    let l := (s.word b).toNat
    match encodeBounds c.addr (c.addr + l) with
    | none => s.raise ⟨.capBnd, c.addr⟩
    | some (e, bm, lm, rb, rt) =>
      if rb < c.base ∨ c.top < rt then s.raise ⟨.capBnd, c.addr⟩
      else if exact && (rb != c.addr || rt != c.addr + l) then s.raise ⟨.capBnd, c.addr⟩
      else capResult d (mkCap c.addr bm lm e c.perms 0) s
/-- The checks on the authority b that CSEAL and CUNSL share: rows 3 to 6 of Table 4-9. -/
def sealAuthority (c : CReg) (b : RegNum) (types : Bool) : Option TrapVal :=
  match checkTag c b.val false [permY] with
  | some e => some e
  | none =>
    if c.addr < c.base ∨ c.top ≤ c.addr ∨ (types ∧ ¬(1 ≤ c.addr ∧ c.addr ≤ 14)) then some ⟨.capBnd, c.addr⟩ else none

/-- CGADR (R76). -/
def execCgadr (d a : RegNum) (s : State) : Out := .next (scalar d (wordOf (s.reg a).addr) s)
/-- CSADR (R77). -/
def execCsadr (d a b : RegNum) (s : State) : Out := .next (capResult d (moveAddr (s.reg a) (s.word b).toNat) s)
/-- CINC (R77). -/
def execCinc (d a b : RegNum) (s : State) : Out := .next (capResult d (moveAddr (s.reg a) ((s.reg a).addr + (s.word b).toNat)) s)
/-- CINCI (R77). -/
def execCinci (d a : RegNum) (imm : BitVec 16) (s : State) : Out := .next (capResult d (moveAddr (s.reg a) ((s.reg a).addr + (imm.signExtend 64).toNat)) s)
/-- CBND (R78). -/
def execCbnd (d a b : RegNum) (s : State) : Out := .next (setBounds false d a b s)
/-- CBNDX (R78). -/
def execCbndx (d a b : RegNum) (s : State) : Out := .next (setBounds true d a b s)
/-- CANDP (R76). -/
def execCandp (d a b : RegNum) (s : State) : Out := .next (
  let c := s.reg a
  capResult d { c.withPerms (c.perms &&& (s.word b).setWidth 12) with tag := c.tag && c.otype == 0 } s)
/-- CSEAL (R79). -/
def execCseal (d a b : RegNum) (s : State) : Out := .next (
  let c := s.reg a
  s.checked (checkTag c a.val false []) fun s =>
  s.checked (sealAuthority (s.reg b) b true) fun s => capResult d (c.withOtype ((s.reg b).addr % 16)) s)
/-- CUNSL (R79). -/
def execCunsl (d a b : RegNum) (s : State) : Out := .next (
  let c := s.reg a
  let t : Option TrapVal :=
    if !c.tag then some ⟨.capTag, a.val⟩ else if c.otype = 0 ∨ c.otype = 15 then some ⟨.capSeal, a.val⟩ else none
  s.checked t fun s =>
  s.checked (sealAuthority (s.reg b) b false) fun s =>
  s.checked (if (s.reg b).addr ≠ c.otype then some ⟨.capSeal, b.val⟩ else none) fun s => capResult d (c.withOtype 0) s)
/-- CGBAS (R76). -/
def execCgbas (d a : RegNum) (s : State) : Out := .next (scalar d (wordOf (s.reg a).base) s)
/-- CGLEN (R76). -/
def execCglen (d a : RegNum) (s : State) : Out := .next (scalar d (wordOf (s.reg a).len) s)
/-- CGPRM (R76). -/
def execCgprm (d a : RegNum) (s : State) : Out := .next (scalar d ((s.reg a).perms.setWidth 64) s)
/-- CGTYP (R76). -/
def execCgtyp (d a : RegNum) (s : State) : Out := .next (scalar d (wordOf (s.reg a).otype) s)
/-- CGTAG (R76). -/
def execCgtag (d a : RegNum) (s : State) : Out := .next (scalar d (ofBool (s.reg a).tag) s)
/-- CCLRT (R76). -/
def execCclrt (d a : RegNum) (s : State) : Out := .next (capResult d { s.reg a with tag := false } s)
/-- CMOV (R76). -/
def execCmov (d a : RegNum) (s : State) : Out := .next (capResult d (s.reg a) s)
/-- CSUB (R76). -/
def execCsub (d a b : RegNum) (s : State) : Out := .next (scalar d (s.word a - s.word b) s)
/-- CTSUB (R80). -/
def execCtsub (d a b : RegNum) (s : State) : Out := .next (
  let x := s.reg a
  let y := s.reg b
  scalar d (ofBool (x.tag && y.tag && x.otype == y.otype && decide (x.base ≤ y.base) && decide (y.top ≤ x.top)
    && (y.perms &&& ~~~x.perms == 0))) s)
/-- CSENT (R76). -/
def execCsent (d a : RegNum) (s : State) : Out := .next (s.checked (checkTag (s.reg a) a.val false []) fun s => capResult d ((s.reg a).withOtype 15) s)
/-- CJR (R81). -/
def execCjr (a : RegNum) (s : State) : Out := .next (s.checked (checkFetch (s.reg a) a.val true) fun s => s.setCur { s.cur with pcc := (s.reg a).unsealed })
/-- CJLR (R81): the target is read before d is written. -/
def execCjlr (d a : RegNum) (s : State) : Out := .next (
  s.checked (checkFetch (s.reg a) a.val true) fun s =>
    let link := { (s.cur.pcc.withAddr (s.cur.pc + 4)).withOtype 15 with tag := true }
    let t := (s.reg a).unsealed
    let s := s.writeCap d link
    s.setCur { s.cur with pcc := t })

/-- Transfer control within PCC (R75): CAPBND for a target outside its bounds, ALIGN for a target that is not a multiple of 4;
`link` names the register that receives PC + 4. -/
def transfer (target : Nat) (link : Option RegNum) (s : State) : State :=
  let h := s.cur
  let t := target % 2 ^ 64
  if !h.pcc.inBounds t 4 then s.raise ⟨.capBnd, t⟩
  else if t % 4 ≠ 0 then s.raise ⟨.align, t⟩
  else
    let s := match link with
      | some d => s.writeWord d (wordOf (h.pc + 4))
      | none => s
    s.setCur (s.cur.setPc t)
/-- PC + 4 × disp, modulo 2^64 (R27). -/
def branchTarget (s : State) (disp : Int) : Nat := ((s.cur.pc : Int) + 4 * disp).emod (2 ^ 64) |>.toNat
/-- A conditional branch (R72): a branch that is not taken checks nothing. -/
def branch (taken : Bool) (disp : Int) (s : State) : State :=
  if taken then transfer (branchTarget s disp) none s else s.finish

/-- BEQ (R72). -/
def execBeq (a b : RegNum) (disp : BitVec 12) (s : State) : Out := .next (branch (s.word a == s.word b) disp.toInt s)
/-- BNE (R72). -/
def execBne (a b : RegNum) (disp : BitVec 12) (s : State) : Out := .next (branch (s.word a != s.word b) disp.toInt s)
/-- BLT (R72). -/
def execBlt (a b : RegNum) (disp : BitVec 12) (s : State) : Out := .next (branch (decide ((s.word a).toInt < (s.word b).toInt)) disp.toInt s)
/-- BGE (R72). -/
def execBge (a b : RegNum) (disp : BitVec 12) (s : State) : Out := .next (branch (decide ((s.word a).toInt ≥ (s.word b).toInt)) disp.toInt s)
/-- BLTN (R72). -/
def execBltn (a b : RegNum) (disp : BitVec 12) (s : State) : Out := .next (branch (decide ((s.word a).toNat < (s.word b).toNat)) disp.toInt s)
/-- BGEN (R72). -/
def execBgen (a b : RegNum) (disp : BitVec 12) (s : State) : Out := .next (branch (decide ((s.word a).toNat ≥ (s.word b).toNat)) disp.toInt s)
/-- BEZ (R72). -/
def execBez (a : RegNum) (disp : BitVec 18) (s : State) : Out := .next (branch (s.word a == 0) disp.toInt s)
/-- BNZ (R72). -/
def execBnz (a : RegNum) (disp : BitVec 18) (s : State) : Out := .next (branch (s.word a != 0) disp.toInt s)
/-- BLZ (R72). -/
def execBlz (a : RegNum) (disp : BitVec 18) (s : State) : Out := .next (branch (decide ((s.word a).toInt < 0)) disp.toInt s)
/-- BGZ (R72). -/
def execBgz (a : RegNum) (disp : BitVec 18) (s : State) : Out := .next (branch (decide ((s.word a).toInt > 0)) disp.toInt s)
/-- BLEZ (R72). -/
def execBlez (a : RegNum) (disp : BitVec 18) (s : State) : Out := .next (branch (decide ((s.word a).toInt ≤ 0)) disp.toInt s)
/-- BGEZ (R72). -/
def execBgez (a : RegNum) (disp : BitVec 18) (s : State) : Out := .next (branch (decide ((s.word a).toInt ≥ 0)) disp.toInt s)
/-- J (R73). -/
def execJ (disp : BitVec 26) (s : State) : Out := .next (transfer (branchTarget s disp.toInt) none s)
/-- JL (R73). -/
def execJl (disp : BitVec 26) (s : State) : Out := .next (transfer (branchTarget s disp.toInt) (some 31) s)
/-- JR (R74). -/
def execJr (a : RegNum) (s : State) : Out := .next (transfer (s.word a).toNat none s)
/-- JLR (R74). -/
def execJlr (d a : RegNum) (s : State) : Out := .next (transfer (s.word a).toNat (some d) s)

end Sys2Proof.Machine
end

