-- ==== Sys2Proof/Machine/Sequencer.lean ====
section
/-!
DEFINITION. The repeat sequencer: which frame of a core uses a free position (R16), the issue and the completion of its words (R231 to R233),
and the frames of a redundant pair (R234, R341).
-/
namespace Sys2Proof.Machine

/-- The waits of a frame's word that later words may overtake (R231). -/
def Wait.overtaken : Wait → Bool
  | .msta _ _ _ _ => true
  | .matrix => true
  | .mcmd _ _ => true
  | .chain _ _ _ _ _ => true
  | .adrn _ _ => true
  | .arsn _ => true
  | .staging _ => true
  | .bread => true
  | .blockLine _ => true
  | .blockPeer _ _ _ => true
  | .ats => true
  | .fault _ _ => true
  | .faultFull _ => true
  | _ => false
/-- The waits of words that do nothing before they end, so that such a word may as well issue later (R231). -/
def Wait.polls : Wait → Bool
  | .msta _ _ _ _ => true
  | .matrix => true
  | .adrn _ _ => true
  | .arsn _ => true
  | _ => false
/-- The frame of a thread as the sequencer finds it, past the word that waits; none where it may not issue from it (R231). -/
def Thread.frameNow (h : Thread) : Option Frame :=
  match h.frame with
  | none => none
  | some f =>
    let waits := f.bound && h.inFrame
    let ready := if waits then h.wait.any Wait.overtaken
      else if f.bound then h.wait == some .frame else h.wait.isSome || h.status == .running
    if f.active && ready then some (if waits && f.late.isNone then { f.next with late := some (f.replay, f.word) } else f) else none
/-- That frame with the place of the word that the sequencer would issue: one that is to issue again after it was overtaken, else the
next one. -/
def Thread.upNext (h : Thread) : Option (Frame × (Nat × Nat)) :=
  match h.frameNow with
  | none => none
  | some f =>
    let p := if f.bound && h.inFrame then (f.replay, f.word) else f.late.getD (f.replay, f.word)
    if p.1 < f.count then some (f, p) else none
/-- Whether a word may not issue at place `p` of a frame (R231): it names a register that a word not yet completed writes, or writes one that an
overtaken word reads. -/
def Frame.blocks (f : Frame) (p : Nat × Nat) (i : Instr) : Bool :=
  f.writes.any (fun w => w.d != 0 && i.names.contains w.d)
    || (f.late.toList ++ f.polled.takeWhile (fun l => l != p)).any (fun l => l != p
      && (i.names.any (f.regsOf (fun q => q.regs.2) l).contains || i.regs.2.any (f.regsOf (fun q => q.regs.1) l).contains))
/-- A frame past the word at place `p`: an overtaken one, one that was put off, or the next in order. -/
def Frame.past (f : Frame) (p : Nat × Nat) : Frame :=
  if f.late == some p then { f with late := none } else if f.polled.contains p then { f with polled := f.polled.erase p } else f.next
/-- What has become of thread `t` of `s`, whose frame `f` has issued the word `i` at place `p`: `s2` is the state that its meaning gives. A vector or
conversion word has its result on its way; another word is done, waits, or has trapped; a word that overtakes a waiting one, or was put off, is done
at once. None where the word forfeits. -/
def State.frameTaken (s : State) (t : Tid) (f : Frame) (p : Nat × Nat) (i : Instr) (s2 : State) : Option State :=
  let h := s.thread t
  let k := { s2.thread t with rmode := h.rmode, satn := h.satn }
  let trapped := k.traps != h.traps || k.wait == some (.tendAcks true)
  let done := !trapped && !k.inFrame && k.frame != some { f with replay := p.1, word := p.2, late := none }
  let past := f.past p
  let give := fun (s : State) (x : Thread) => some { s.setThread t x with turn := s.turn }
  if !boundWord (BitVec.ofNat 32 (f.wordAt p)) then
    if done then
      let w : FrameWrite := { d := (i.regs.2.head?).getD 0, v := k.reg ((i.regs.2.head?).getD 0), fflags := k.fflags, pos := p }
      give { s with freeCount := s2.freeCount } { h with frame := some { past with writes := past.writes ++ [w] } }
    else none
  else
    let s2 := { s2 with turn := s.turn }
    if h.inFrame then
      if done then give s2 { k with status := h.status, inFrame := true, frame := some past, blockBuf := h.blockBuf, past := h.past } else none
    else if trapped then give s2 { k with frame := k.frame.map (fun _ => { f with active := false, writes := [] }) }
    else if k.inFrame then (if f.polled.contains p then none else give s2 { k with frame := some f })
    else if done then give s2 (k.withFrame past)
    else none
/-- What the word `i` at place `p` of a thread's frame would do, with the modes that the frame captured (R199). -/
def State.frameRun (s : State) (t : Tid) (f : Frame) (p : Nat × Nat) (i : Instr) : Out :=
  let h := s.thread t
  let g : Frame := { f with replay := p.1, word := p.2, late := none }
  { s.setThread t { h with
      inFrame := true, rmode := f.rmode, satn := f.satn, frame := some g, status := if f.bound then .running else h.status } with turn := t }.replayed i
/-- The word at place `p` of a thread's frame issues (R231); none while it cannot: a word that would forfeit under R39 does not issue. -/
def State.frameTry (s : State) (t : Tid) (f : Frame) (p : Nat × Nat) : Option State :=
  match f.instrAt p with
  | none => none
  | some i =>
    if i.names.any (s.thread t).rxRegs.contains || f.blocks p i then none
    else match s.frameRun t f p i with
      | .next s2 => s.frameTaken t f p i s2
      | .fault _ => none
      | .refused _ => none
/-- Whether the next word of a frame would wait for something that later words need not wait for (R231). -/
def State.wouldPoll (s : State) (t : Tid) (f : Frame) (p : Nat × Nat) : Bool :=
  match f.instrAt p with
  | none => false
  | some i => f.late != some p && !i.names.any (s.thread t).rxRegs.contains && !f.blocks p i && (match s.frameRun t f p i with
    | .next s2 => (s2.thread t).traps == (s.thread t).traps && (s2.thread t).wait.any Wait.polls
    | .fault _ => false
    | .refused _ => false)
/-- A frame's next word is put off. -/
def Thread.putOff (h : Thread) (f : Frame) (p : Nat × Nat) : Thread := { h with frame := some { f.next with polled := f.polled ++ [p] } }
/-- A word of a thread's frame issues: one that was put off, or the next one, which is put off itself where it would have to wait beside another. -/
def State.frameWord (s : State) (t : Tid) : Option State :=
  let h := s.thread t
  (h.frameNow.bind (fun f => f.polled.findSome? (s.frameTry t f))).orElse (fun _ =>
    h.upNext.bind (fun (f, p) => (s.frameTry t f p).orElse (fun _ =>
      if h.inFrame && s.wouldPoll t f p then some (s.setThread t (h.putOff f p)) else none)))
/-- The oldest word of a thread's frame whose result is on its way writes it, four cycles after its issue (R231). -/
def State.frameWrite (s : State) (t : Tid) : Option State :=
  let h := s.thread t
  match h.frame with
  | none => none
  | some f => match f.writes with
    | [] => none
    | w :: rest =>
      let f := { f with writes := rest }
      let k := h.takeWrite w
      let k := if f.over then { k with frame := none, status := if f.bound then .running else k.status } else { k with frame := some f }
      let k := if !f.bound && k.wait == some .frame then { k with status := .running } else k
      some ((s.setThread t k).takePresent t)

/-- A mismatch (R342): it is counted; a speculative task is aborted and queued again; else the action is not performed, both threads end, and
the domain receives a machine check of kind 6 with the instruction word. -/
def State.pairMismatch (s : State) (t : Tid) (w : Nat) : State :=
  let co := s.core t.core
  let h := s.thread t
  let s := s.setCore t.core { co with mismatches := if co.mismatches = 0xFFFFFFFF then co.mismatches else co.mismatches + 1 }
  let s := match s.trailOf t with
    | some q => s.setTrail t { q with stopped := true }
    | none => s
  match h.spec, h.task with
  | true, some id => (s.requestAbort id .requeue).setThread t { h with status := .parked .aborting }
  | _, _ => (s.addMchk (s.domainOfCore t.core) (s.mchkOf t 6 h.pc (wordOf w))).endAbruptly t
/-- The word at one place of the bound frame that a pair's threads both run is compared, and performed once; one that was put off is performed when it
need not wait (R234, R341). -/
def State.pairTry (s : State) (t : Tid) (q : Trail) (f g : Frame) (p : Nat × Nat) : Option State :=
  let h := s.thread t
  let u := s.thread (trailTid t)
  if (g.instrAt p).all (g.blocks p) then none
  else match s.frameTry t f p, (s.setThread t (h.withOperands u)).frameTry t f p with
    | some x, some y =>
      let same := (f.instrAt p).all (fun i => Instr.posted h i == Instr.posted u i)
      if f.wordAt p == g.wordAt p && h.sameTraps u && same && sameEffect t h (.next x) (.next y) then
        some ((x.setTrail t { q with word := some p }).wordSync t)
      else some (s.pairMismatch t (g.wordAt p))
    | _, _ => none
/-- A word of the bound frame that a pair's threads both run, once both have come to it: one that was put off, or the next one, which is put off in both
where it would have to wait (R231, R234). -/
def State.pairWord (s : State) (t : Tid) : Option State :=
  let h := s.thread t
  let u := s.thread (trailTid t)
  match s.trailOf t, h.frameNow, u.frameNow with
  | some q, some f, some g =>
    if h.inFrame || q.word.isSome || q.action.isSome || q.stopped then none
    else (f.polled.findSome? (fun p => if g.polled.contains p then s.pairTry t q f g p else none)).orElse (fun _ =>
      match h.upNext, u.upNext with
      | some (f, p), some (g, p') =>
        if p != p' then none
        else if s.wouldPoll t f p && f.wordAt p == g.wordAt p' then
          some ((s.setThread t (h.putOff f p)).setThread (trailTid t) (u.putOff g p'))
        else s.pairTry t q f g p
      | _, _ => none)
  | _, _, _ => none
/-- A frame of a core's slot uses a free position (R231); in a pair each thread runs its own frame, whose matrix and Trellis words both perform
together (R234). -/
def State.frameIssue (s : State) (t : Tid) : Option State :=
  let h := s.thread t
  let l := if h.trail.isSome then leadTid t else t
  if (s.trailOf l).isNone then s.frameWord t
  else match h.frameNow with
    | none => none
    | some f =>
      let bound := match h.upNext with
        | some (f, p) => boundWord (BitVec.ofNat 32 (f.wordAt p))
        | none => true
      if bound || !f.polled.isEmpty then
        (s.pairWord l).orElse (fun _ => if bound || h.inFrame || h.trail.any (fun q => q.word.isSome) then none else s.frameWord t)
      else if h.inFrame || h.trail.any (fun q => q.word.isSome) then none
      else s.frameWord t
/-- Whether the landing thread of a core uses a free position: its handler runs, or it can start one (R16). -/
def State.landingFirst (s : State) (c : Nat) : Bool := (s.thread ⟨c, 15⟩).status == .running || (s.tryHandler c).isSome
/-- The slot whose frame uses a free position of core `c`, with what it leaves: round-robin from the slot behind the one served last (R16). -/
def State.served (s : State) (c : Nat) : Option (Nat × State) :=
  (List.range 15).findSome? (fun i =>
    let k := ((s.core c).servedLast + 1 + i) % 15
    (s.frameIssue ⟨c, k⟩).map (fun x => (k, x)))
/-- The repeat sequencer issues the next word of thread `t`'s frame in a free position, if that is the thread's turn (R16, R231). -/
def State.tryFrame (s : State) (t : Tid) : Option State :=
  let c := t.core
  if s.landingFirst c || ((s.core c).quiescing && (s.thread t).trail.isNone) then none
  else match (s.takeFree c).served c with
    | some (k, x) => if k = t.slot then some (x.setCore c { x.core c with servedLast := k }) else none
    | none => none
/-- REPEAT_WORD_ISSUE (R231): `k` 0 issues the next word of thread `t`'s frame, 1 completes the oldest one that has issued. -/
def execRepeatWordIssue (s : State) : Out :=
  let t := s.ev.t
  let s1 := s.wordSync (if (s.thread t).trail.isSome then leadTid t else t)
  .next (((if s.ev.k = 1 then s1.frameWrite t else s1.tryFrame t)).getD s1)

end Sys2Proof.Machine
end

