-- ==== Sys2Proof/Machine/Dispatch.lean ====
section
/-!
DEFINITION. One arm for each instruction and event.
-/
namespace Sys2Proof.Machine

/-- What an instruction or an event does in a state: a direct call of its meaning. -/
def exec (i : Instr) (s : State) : Host.Outcome State Fault Refusal :=
  match i with
  | .add d a b => Sys2Proof.Machine.execAdd d a b s
  | .sub d a b => Sys2Proof.Machine.execSub d a b s
  | .mul d a b => Sys2Proof.Machine.execMul d a b s
  | .mulh d a b => Sys2Proof.Machine.execMulh d a b s
  | .mulhn d a b => Sys2Proof.Machine.execMulhn d a b s
  | .div d a b => Sys2Proof.Machine.execDiv d a b s
  | .divn d a b => Sys2Proof.Machine.execDivn d a b s
  | .rem d a b => Sys2Proof.Machine.execRem d a b s
  | .remn d a b => Sys2Proof.Machine.execRemn d a b s
  | .and d a b => Sys2Proof.Machine.execAnd d a b s
  | .or d a b => Sys2Proof.Machine.execOr d a b s
  | .xor d a b => Sys2Proof.Machine.execXor d a b s
  | .andn d a b => Sys2Proof.Machine.execAndn d a b s
  | .shl d a b => Sys2Proof.Machine.execShl d a b s
  | .shr d a b => Sys2Proof.Machine.execShr d a b s
  | .sha d a b => Sys2Proof.Machine.execSha d a b s
  | .rotr d a b => Sys2Proof.Machine.execRotr d a b s
  | .clz d a => Sys2Proof.Machine.execClz d a s
  | .ctz d a => Sys2Proof.Machine.execCtz d a s
  | .popc d a => Sys2Proof.Machine.execPopc d a s
  | .min d a b => Sys2Proof.Machine.execMin d a b s
  | .max d a b => Sys2Proof.Machine.execMax d a b s
  | .minn d a b => Sys2Proof.Machine.execMinn d a b s
  | .maxn d a b => Sys2Proof.Machine.execMaxn d a b s
  | .seq d a b => Sys2Proof.Machine.execSeq d a b s
  | .sne d a b => Sys2Proof.Machine.execSne d a b s
  | .slt d a b => Sys2Proof.Machine.execSlt d a b s
  | .sltn d a b => Sys2Proof.Machine.execSltn d a b s
  | .sle d a b => Sys2Proof.Machine.execSle d a b s
  | .slen d a b => Sys2Proof.Machine.execSlen d a b s
  | .sel d a b c => Sys2Proof.Machine.execSel d a b c s
  | .extb d a b => Sys2Proof.Machine.execExtb d a b s
  | .extbn d a b => Sys2Proof.Machine.execExtbn d a b s
  | .insb d a b => Sys2Proof.Machine.execInsb d a b s
  | .addi d a imm => Sys2Proof.Machine.execAddi d a imm s
  | .andi d a imm => Sys2Proof.Machine.execAndi d a imm s
  | .ori d a imm => Sys2Proof.Machine.execOri d a imm s
  | .xori d a imm => Sys2Proof.Machine.execXori d a imm s
  | .slti d a imm => Sys2Proof.Machine.execSlti d a imm s
  | .shli d a n => Sys2Proof.Machine.execShli d a n s
  | .shri d a n => Sys2Proof.Machine.execShri d a n s
  | .shai d a n => Sys2Proof.Machine.execShai d a n s
  | .lih d imm => Sys2Proof.Machine.execLih d imm s
  | .lihh d imm => Sys2Proof.Machine.execLihh d imm s
  | .cgadr d a => Sys2Proof.Machine.execCgadr d a s
  | .csadr d a b => Sys2Proof.Machine.execCsadr d a b s
  | .cinc d a b => Sys2Proof.Machine.execCinc d a b s
  | .cbnd d a b => Sys2Proof.Machine.execCbnd d a b s
  | .cbndx d a b => Sys2Proof.Machine.execCbndx d a b s
  | .candp d a b => Sys2Proof.Machine.execCandp d a b s
  | .cseal d a b => Sys2Proof.Machine.execCseal d a b s
  | .cunsl d a b => Sys2Proof.Machine.execCunsl d a b s
  | .cgbas d a => Sys2Proof.Machine.execCgbas d a s
  | .cglen d a => Sys2Proof.Machine.execCglen d a s
  | .cgprm d a => Sys2Proof.Machine.execCgprm d a s
  | .cgtyp d a => Sys2Proof.Machine.execCgtyp d a s
  | .cgtag d a => Sys2Proof.Machine.execCgtag d a s
  | .cclrt d a => Sys2Proof.Machine.execCclrt d a s
  | .cmov d a => Sys2Proof.Machine.execCmov d a s
  | .csub d a b => Sys2Proof.Machine.execCsub d a b s
  | .ctsub d a b => Sys2Proof.Machine.execCtsub d a b s
  | .cjr a => Sys2Proof.Machine.execCjr a s
  | .cjlr d a => Sys2Proof.Machine.execCjlr d a s
  | .csent d a => Sys2Proof.Machine.execCsent d a s
  | .cinci d a imm => Sys2Proof.Machine.execCinci d a imm s
  | .beq a b disp => Sys2Proof.Machine.execBeq a b disp s
  | .bne a b disp => Sys2Proof.Machine.execBne a b disp s
  | .blt a b disp => Sys2Proof.Machine.execBlt a b disp s
  | .bge a b disp => Sys2Proof.Machine.execBge a b disp s
  | .bltn a b disp => Sys2Proof.Machine.execBltn a b disp s
  | .bgen a b disp => Sys2Proof.Machine.execBgen a b disp s
  | .bez a disp => Sys2Proof.Machine.execBez a disp s
  | .bnz a disp => Sys2Proof.Machine.execBnz a disp s
  | .blz a disp => Sys2Proof.Machine.execBlz a disp s
  | .bgz a disp => Sys2Proof.Machine.execBgz a disp s
  | .blez a disp => Sys2Proof.Machine.execBlez a disp s
  | .bgez a disp => Sys2Proof.Machine.execBgez a disp s
  | .j disp => Sys2Proof.Machine.execJ disp s
  | .jl disp => Sys2Proof.Machine.execJl disp s
  | .jr a => Sys2Proof.Machine.execJr a s
  | .jlr d a => Sys2Proof.Machine.execJlr d a s
  | .ldS8 d base off rx => Sys2Proof.Machine.execLdS8 d base off rx s
  | .ldS16 d base off rx => Sys2Proof.Machine.execLdS16 d base off rx s
  | .ldS32 d base off rx => Sys2Proof.Machine.execLdS32 d base off rx s
  | .ldS64 d base off rx => Sys2Proof.Machine.execLdS64 d base off rx s
  | .ldN8 d base off rx => Sys2Proof.Machine.execLdN8 d base off rx s
  | .ldN16 d base off rx => Sys2Proof.Machine.execLdN16 d base off rx s
  | .ldN32 d base off rx => Sys2Proof.Machine.execLdN32 d base off rx s
  | .ldQ128 d base off rx => Sys2Proof.Machine.execLdQ128 d base off rx s
  | .st8 d base off rx => Sys2Proof.Machine.execSt8 d base off rx s
  | .st16 d base off rx => Sys2Proof.Machine.execSt16 d base off rx s
  | .st32 d base off rx => Sys2Proof.Machine.execSt32 d base off rx s
  | .st64 d base off rx => Sys2Proof.Machine.execSt64 d base off rx s
  | .stQ128 d base off rx => Sys2Proof.Machine.execStQ128 d base off rx s
  | .ldc d base off => Sys2Proof.Machine.execLdc d base off s
  | .stc d base off => Sys2Proof.Machine.execStc d base off s
  | .lde d base off => Sys2Proof.Machine.execLde d base off s
  | .ldf d base off => Sys2Proof.Machine.execLdf d base off s
  | .stf d base off => Sys2Proof.Machine.execStf d base off s
  | .stx d base off => Sys2Proof.Machine.execStx d base off s
  | .fec d base off => Sys2Proof.Machine.execFec d base off s
  | .feq d base off => Sys2Proof.Machine.execFeq d base off s
  | .aadd d a b w sc ord => Sys2Proof.Machine.execAadd d a b w sc ord s
  | .aand d a b w sc ord => Sys2Proof.Machine.execAand d a b w sc ord s
  | .aor d a b w sc ord => Sys2Proof.Machine.execAor d a b w sc ord s
  | .axor d a b w sc ord => Sys2Proof.Machine.execAxor d a b w sc ord s
  | .amin d a b w sc ord => Sys2Proof.Machine.execAmin d a b w sc ord s
  | .amax d a b w sc ord => Sys2Proof.Machine.execAmax d a b w sc ord s
  | .aminn d a b w sc ord => Sys2Proof.Machine.execAminn d a b w sc ord s
  | .amaxn d a b w sc ord => Sys2Proof.Machine.execAmaxn d a b w sc ord s
  | .aswp d a b w sc ord => Sys2Proof.Machine.execAswp d a b w sc ord s
  | .acas d a b w sc ord => Sys2Proof.Machine.execAcas d a b w sc ord s
  | .afadd d a b sc ord => Sys2Proof.Machine.execAfadd d a b sc ord s
  | .fence sets sc => Sys2Proof.Machine.execFence sets sc s
  | .strel d a sc => Sys2Proof.Machine.execStrel d a sc s
  | .ldacq d a sc => Sys2Proof.Machine.execLdacq d a sc s
  | .sigrst a sc => Sys2Proof.Machine.execSigrst a sc s
  | .sigmrg d a sc => Sys2Proof.Machine.execSigmrg d a sc s
  | .pref a b => Sys2Proof.Machine.execPref a b s
  | .cflu a b => Sys2Proof.Machine.execCflu a b s
  | .cinv a b => Sys2Proof.Machine.execCinv a b s
  | .disc a b => Sys2Proof.Machine.execDisc a b s
  | .llck d a b => Sys2Proof.Machine.execLlck d a b s
  | .lulk d a b => Sys2Proof.Machine.execLulk d a b s
  | .tenq d a b => Sys2Proof.Machine.execTenq d a b s
  | .tenqw d a b => Sys2Proof.Machine.execTenqw d a b s
  | .tabt a => Sys2Proof.Machine.execTabt a s
  | .tvt d sel => Sys2Proof.Machine.execTvt d sel s
  | .csig d a b => Sys2Proof.Machine.execCsig d a b s
  | .garr d => Sys2Proof.Machine.execGarr d s
  | .gwait d => Sys2Proof.Machine.execGwait d s
  | .gsync d => Sys2Proof.Machine.execGsync d s
  | .gexp a => Sys2Proof.Machine.execGexp a s
  | .grank d sel => Sys2Proof.Machine.execGrank d sel s
  | .rput d a t slot dir => Sys2Proof.Machine.execRput d a t slot dir s
  | .rtake d => Sys2Proof.Machine.execRtake d s
  | .rpres d a => Sys2Proof.Machine.execRpres d a s
  | .vadd d a b t mode => Sys2Proof.Machine.execVadd d a b t mode s
  | .vsub d a b t mode => Sys2Proof.Machine.execVsub d a b t mode s
  | .vmul d a b t mode => Sys2Proof.Machine.execVmul d a b t mode s
  | .vfma d a b c t => Sys2Proof.Machine.execVfma d a b c t s
  | .vfms d a b c t => Sys2Proof.Machine.execVfms d a b c t s
  | .vdot d a b c t => Sys2Proof.Machine.execVdot d a b c t s
  | .vmin d a b t nat => Sys2Proof.Machine.execVmin d a b t nat s
  | .vmax d a b t nat => Sys2Proof.Machine.execVmax d a b t nat s
  | .vabs d a t nat => Sys2Proof.Machine.execVabs d a t nat s
  | .vneg d a t nat => Sys2Proof.Machine.execVneg d a t nat s
  | .vdiv d a b t => Sys2Proof.Machine.execVdiv d a b t s
  | .vrsq d a t => Sys2Proof.Machine.execVrsq d a t s
  | .vreda d a b t nat => Sys2Proof.Machine.execVreda d a b t nat s
  | .vredm d a b t nat => Sys2Proof.Machine.execVredm d a b t nat s
  | .vcmp d a b t p nat => Sys2Proof.Machine.execVcmp d a b t p nat s
  | .vand d a b => Sys2Proof.Machine.execVand d a b s
  | .vor d a b => Sys2Proof.Machine.execVor d a b s
  | .vxor d a b => Sys2Proof.Machine.execVxor d a b s
  | .vsel d a b c => Sys2Proof.Machine.execVsel d a b c s
  | .vperm d a b c => Sys2Proof.Machine.execVperm d a b c s
  | .vshl d a b t => Sys2Proof.Machine.execVshl d a b t s
  | .vshr d a b t => Sys2Proof.Machine.execVshr d a b t s
  | .vsha d a b t => Sys2Proof.Machine.execVsha d a b t s
  | .vsplt d a t lane => Sys2Proof.Machine.execVsplt d a t lane s
  | .vins d a t lane => Sys2Proof.Machine.execVins d a t lane s
  | .vextSigned d a t lane => Sys2Proof.Machine.execVextSigned d a t lane s
  | .vextNatural d a t lane => Sys2Proof.Machine.execVextNatural d a t lane s
  | .vcvt d a dt st => Sys2Proof.Machine.execVcvt d a dt st s
  | .vdec d a t tbl four => Sys2Proof.Machine.execVdec d a t tbl four s
  | .venc d a t tbl four => Sys2Proof.Machine.execVenc d a t tbl four s
  | .vscl d a b t => Sys2Proof.Machine.execVscl d a b t s
  | .vsclE8m0 d a b t => Sys2Proof.Machine.execVsclE8m0 d a b t s
  | .vsclSca d a t => Sys2Proof.Machine.execVsclSca d a t s
  | .vsclScb d a t => Sys2Proof.Machine.execVsclScb d a t s
  | .fcls d a t => Sys2Proof.Machine.execFcls d a t s
  | .tbld d a tbl => Sys2Proof.Machine.execTbld d a tbl s
  | .tbcf d k tbl => Sys2Proof.Machine.execTbcf d k tbl s
  | .tbcfQuery d tbl => Sys2Proof.Machine.execTbcfQuery d tbl s
  | .mldb a b => Sys2Proof.Machine.execMldb a b s
  | .mldbTile tl => Sys2Proof.Machine.execMldbTile tl s
  | .mgeo d a => Sys2Proof.Machine.execMgeo d a s
  | .manc d a => Sys2Proof.Machine.execManc d a s
  | .mmv f a m tl => Sys2Proof.Machine.execMmv f a m tl s
  | .mmvs f a m tl => Sys2Proof.Machine.execMmvs f a m tl s
  | .mrd tl f n clr => Sys2Proof.Machine.execMrd tl f n clr s
  | .mclr f n => Sys2Proof.Machine.execMclr f n s
  | .mcmd d a b => Sys2Proof.Machine.execMcmd d a b s
  | .msta d f lane => Sys2Proof.Machine.execMsta d f lane s
  | .achn d a b clr => Sys2Proof.Machine.execAchn d a b clr s
  | .asnd f n a b clr => Sys2Proof.Machine.execAsnd f n a b clr s
  | .adrn d a => Sys2Proof.Machine.execAdrn d a s
  | .adrnNw d a => Sys2Proof.Machine.execAdrnNw d a s
  | .acls d a => Sys2Proof.Machine.execAcls d a s
  | .arsn d => Sys2Proof.Machine.execArsn d s
  | .arsnNw d => Sys2Proof.Machine.execArsnNw d s
  | .arsnDrop d => Sys2Proof.Machine.execArsnDrop d s
  | .astaOutbox d => Sys2Proof.Machine.execAstaOutbox d s
  | .astaChain d a => Sys2Proof.Machine.execAstaChain d a s
  | .xfer d a b e => Sys2Proof.Machine.execXfer d a b e s
  | .xferb d a b e => Sys2Proof.Machine.execXferb d a b e s
  | .getx d a b e => Sys2Proof.Machine.execGetx d a b e s
  | .putx d a b e => Sys2Proof.Machine.execPutx d a b e s
  | .cwait d cc a => Sys2Proof.Machine.execCwait d cc a s
  | .crd d cc clr => Sys2Proof.Machine.execCrd d cc clr s
  | .lhnd a k => Sys2Proof.Machine.execLhnd a k s
  | .tldef tl a b rdy => Sys2Proof.Machine.execTldef tl a b rdy s
  | .tlstQuery d tl => Sys2Proof.Machine.execTlstQuery d tl s
  | .tlstReady d tl => Sys2Proof.Machine.execTlstReady d tl s
  | .tlstEmpty d tl => Sys2Proof.Machine.execTlstEmpty d tl s
  | .tlrel tl => Sys2Proof.Machine.execTlrel tl s
  | .caml d tl b => Sys2Proof.Machine.execCaml d tl b s
  | .camp d o p b => Sys2Proof.Machine.execCamp d o p b s
  | .camc d a => Sys2Proof.Machine.execCamc d a s
  | .getr d a b e => Sys2Proof.Machine.execGetr d a b e s
  | .spcf d a => Sys2Proof.Machine.execSpcf d a s
  | .subj d a b => Sys2Proof.Machine.execSubj d a b s
  | .subl d b => Sys2Proof.Machine.execSubl d b s
  | .sopn d a b => Sys2Proof.Machine.execSopn d a b s
  | .ssnd d p a b => Sys2Proof.Machine.execSsnd d p a b s
  | .scls d p => Sys2Proof.Machine.execScls d p s
  | .sysc imm => Sys2Proof.Machine.execSysc imm s
  | .trap a imm => Sys2Proof.Machine.execTrap a imm s
  | .brk imm => Sys2Proof.Machine.execBrk imm s
  | .prmt d a => Sys2Proof.Machine.execPrmt d a s
  | .rsum d a => Sys2Proof.Machine.execRsum d a s
  | .tlbiPg a size => Sys2Proof.Machine.execTlbiPg a size s
  | .tlbiWake a => Sys2Proof.Machine.execTlbiWake a s
  | .pmig d a home => Sys2Proof.Machine.execPmig d a home s
  | .halt d => Sys2Proof.Machine.execHalt d s
  | .cntnContain d a => Sys2Proof.Machine.execCntnContain d a s
  | .cntnRelease d a => Sys2Proof.Machine.execCntnRelease d a s
  | .cntnQuery d a => Sys2Proof.Machine.execCntnQuery d a s
  | .dupc d a => Sys2Proof.Machine.execDupc d a s
  | .dupcClear d a => Sys2Proof.Machine.execDupcClear d a s
  | .csrr d csr => Sys2Proof.Machine.execCsrr d csr s
  | .csrw d csr a => Sys2Proof.Machine.execCsrw d csr a s
  | .csrs d csr a => Sys2Proof.Machine.execCsrs d csr a s
  | .csrc d csr a => Sys2Proof.Machine.execCsrc d csr a s
  | .snap d a full => Sys2Proof.Machine.execSnap d a full s
  | .snpw d a => Sys2Proof.Machine.execSnpw d a s
  | .snpq d a => Sys2Proof.Machine.execSnpq d a s
  | .rbck d a => Sys2Proof.Machine.execRbck d a s
  | .rpt l n sd sa sb sc => Sys2Proof.Machine.execRpt l n sd sa sb sc s
  | .tend => Sys2Proof.Machine.execTend s
  | .tirv => Sys2Proof.Machine.execTirv s
  | .msync => Sys2Proof.Machine.execMsync s
  | .lret => Sys2Proof.Machine.execLret s
  | .eret => Sys2Proof.Machine.execEret s
  | .tlbiAll => Sys2Proof.Machine.execTlbiAll s
  | .fencei => Sys2Proof.Machine.execFencei s
  | .elect => Sys2Proof.Machine.execElect s
  | .repeatWordIssue => Sys2Proof.Machine.execRepeatWordIssue s
  | .instructionFill => Sys2Proof.Machine.execInstructionFill s
  | .dataArrival => Sys2Proof.Machine.execDataArrival s
  | .lineFill => Sys2Proof.Machine.execLineFill s
  | .writeBack => Sys2Proof.Machine.execWriteBack s
  | .omegaRequest => Sys2Proof.Machine.execOmegaRequest s
  | .meshScratchRequest => Sys2Proof.Machine.execMeshScratchRequest s
  | .rxAccessPerform => Sys2Proof.Machine.execRxAccessPerform s
  | .linePortPriority => Sys2Proof.Machine.execLinePortPriority s
  | .feWaiterResend => Sys2Proof.Machine.execFeWaiterResend s
  | .faultEntryRetry => Sys2Proof.Machine.execFaultEntryRetry s
  | .wakeMessage => Sys2Proof.Machine.execWakeMessage s
  | .taskRecordArrival => Sys2Proof.Machine.execTaskRecordArrival s
  | .taskRefill => Sys2Proof.Machine.execTaskRefill s
  | .taskDispatch => Sys2Proof.Machine.execTaskDispatch s
  | .homeSpeculativeAccess => Sys2Proof.Machine.execHomeSpeculativeAccess s
  | .ovfProbe => Sys2Proof.Machine.execOvfProbe s
  | .taskAbort => Sys2Proof.Machine.execTaskAbort s
  | .belvedereSample => Sys2Proof.Machine.execBelvedereSample s
  | .roundResult => Sys2Proof.Machine.execRoundResult s
  | .irrevocablePass => Sys2Proof.Machine.execIrrevocablePass s
  | .barrierCycle => Sys2Proof.Machine.execBarrierCycle s
  | .barrierWake => Sys2Proof.Machine.execBarrierWake s
  | .electPostArrival => Sys2Proof.Machine.execElectPostArrival s
  | .rputDelivery => Sys2Proof.Machine.execRputDelivery s
  | .tableBuild => Sys2Proof.Machine.execTableBuild s
  | .matrixOpStart => Sys2Proof.Machine.execMatrixOpStart s
  | .matrixOpComplete => Sys2Proof.Machine.execMatrixOpComplete s
  | .macroParityError => Sys2Proof.Machine.execMacroParityError s
  | .mcmdArrival => Sys2Proof.Machine.execMcmdArrival s
  | .mcmdAck => Sys2Proof.Machine.execMcmdAck s
  | .chainOpenArrival => Sys2Proof.Machine.execChainOpenArrival s
  | .chainCloseArrival => Sys2Proof.Machine.execChainCloseArrival s
  | .trellisRowArrival => Sys2Proof.Machine.execTrellisRowArrival s
  | .trellisAckArrival => Sys2Proof.Machine.execTrellisAckArrival s
  | .resumeNotice => Sys2Proof.Machine.execResumeNotice s
  | .refusalReadyTimeout => Sys2Proof.Machine.execRefusalReadyTimeout s
  | .transferStart => Sys2Proof.Machine.execTransferStart s
  | .chunkArrival => Sys2Proof.Machine.execChunkArrival s
  | .chunkRedelivery => Sys2Proof.Machine.execChunkRedelivery s
  | .landingHandlerStart => Sys2Proof.Machine.execLandingHandlerStart s
  | .handlerTimeout => Sys2Proof.Machine.execHandlerTimeout s
  | .transferCompletion => Sys2Proof.Machine.execTransferCompletion s
  | .multicastJoin => Sys2Proof.Machine.execMulticastJoin s
  | .multicastSend => Sys2Proof.Machine.execMulticastSend s
  | .streamRouteTimeout => Sys2Proof.Machine.execStreamRouteTimeout s
  | .flowPacketArrival => Sys2Proof.Machine.execFlowPacketArrival s
  | .escapeTimeout => Sys2Proof.Machine.execEscapeTimeout s
  | .retryResend => Sys2Proof.Machine.execRetryResend s
  | .prmtArrival => Sys2Proof.Machine.execPrmtArrival s
  | .rsumArrival => Sys2Proof.Machine.execRsumArrival s
  | .spillQueueRetry => Sys2Proof.Machine.execSpillQueueRetry s
  | .mchkDelivery => Sys2Proof.Machine.execMchkDelivery s
  | .memoryError => Sys2Proof.Machine.execMemoryError s
  | .selfTestComplete => Sys2Proof.Machine.execSelfTestComplete s
  | .snapshotMarker => Sys2Proof.Machine.execSnapshotMarker s
  | .scratchSegmentCopy => Sys2Proof.Machine.execScratchSegmentCopy s
  | .snapshotSweep => Sys2Proof.Machine.execSnapshotSweep s
  | .preWriteBack => Sys2Proof.Machine.execPreWriteBack s
  | .snapshotCompletionNotice => Sys2Proof.Machine.execSnapshotCompletionNotice s
  | .snapshotAbortNotice => Sys2Proof.Machine.execSnapshotAbortNotice s
  | .ingressRecordWrite => Sys2Proof.Machine.execIngressRecordWrite s
  | .ingressEnqueue => Sys2Proof.Machine.execIngressEnqueue s
  | .partialClear => Sys2Proof.Machine.execPartialClear s
  | .hostMemRead => Sys2Proof.Machine.execHostMemRead s
  | .hostMemWrite => Sys2Proof.Machine.execHostMemWrite s
  | .snpData => Sys2Proof.Machine.execSnpData s
  | .snpInv => Sys2Proof.Machine.execSnpInv s
  | .snpCur => Sys2Proof.Machine.execSnpCur s
  | .translationCompletion => Sys2Proof.Machine.execTranslationCompletion s
  | .atsInvalidationRequest => Sys2Proof.Machine.execAtsInvalidationRequest s
  | .priSuccess => Sys2Proof.Machine.execPriSuccess s
  | .priInvalidRequest => Sys2Proof.Machine.execPriInvalidRequest s
  | .priResponseFailure => Sys2Proof.Machine.execPriResponseFailure s
  | .peerAccess => Sys2Proof.Machine.execPeerAccess s
  | .linkLaneFailure => Sys2Proof.Machine.execLinkLaneFailure s
  | .routeWrite => Sys2Proof.Machine.execRouteWrite s
  | .lattolWrite => Sys2Proof.Machine.execLattolWrite s
  | .barRegisterWrite => Sys2Proof.Machine.execBarRegisterWrite s
  | .thWrite => Sys2Proof.Machine.execThWrite s
  | .lcmdReboot => Sys2Proof.Machine.execLcmdReboot s
  | .powerStateEvaluate => Sys2Proof.Machine.execPowerStateEvaluate s
  | .wakeEvent => Sys2Proof.Machine.execWakeEvent s
  | .powerWindow => Sys2Proof.Machine.execPowerWindow s
  | .thermalReading => Sys2Proof.Machine.execThermalReading s
  | .slotDisable => Sys2Proof.Machine.execSlotDisable s
  | .slotEnable => Sys2Proof.Machine.execSlotEnable s
  | .thermalRankingUpdate => Sys2Proof.Machine.execThermalRankingUpdate s
  | .powerOn => Sys2Proof.Machine.execPowerOn s
  | .bringUpWatchdog => Sys2Proof.Machine.execBringUpWatchdog s
  | .camOperationEnd => Sys2Proof.Machine.execCamOperationEnd s
  | .homeAcknowledgement => Sys2Proof.Machine.execHomeAcknowledgement s
  | .hostCompletion => Sys2Proof.Machine.execHostCompletion s
  | .backInvalidateResponse => Sys2Proof.Machine.execBackInvalidateResponse s
  | .priEnable => Sys2Proof.Machine.execPriEnable s
  | .streamRouteHeld => Sys2Proof.Machine.execStreamRouteHeld s
  | .contextMessageArrival => Sys2Proof.Machine.execContextMessageArrival s
  | .transferSourceRead => Sys2Proof.Machine.execTransferSourceRead s
  | .snapshotCompletionReport => Sys2Proof.Machine.execSnapshotCompletionReport s
  | .bringUpStepEnd => Sys2Proof.Machine.execBringUpStepEnd s
  | .faleusPortUp => Sys2Proof.Machine.execFaleusPortUp s
  | .powerLoss => Sys2Proof.Machine.execPowerLoss s

end Sys2Proof.Machine
end

