-- ==== Sys2Proof/Machine/Issue.lean ====
section
/-!
DEFINITION. The issue of one word in a thread's own position: fetch, decode, privilege, hazards (R14 to R17, R36, R37, R39, R48, R61, R69,
R70, R232, R294, R348), and what happens when nothing issues.
-/
namespace Sys2Proof.Machine

/-- The words that raise UNDEF in a landing handler (R294). -/
def handlerUndef (i : Instr) (w : Nat) : Bool :=
  i != .lret && [0x13, 0x18, 0x19, 0x1A, 0x23, 0x28, 0x29, 0x2C, 0x2D, 0x2E, 0x2F, 0x30, 0x32, 0x3F].contains (w / 2 ^ 26)
/-- The instructions that raise PRIV in user mode (R37), and those that name a state register that users have no access to (R46). -/
def privileged : Instr → Bool
  | .eret => true
  | .prmt _ _ => true
  | .rsum _ _ => true
  | .tlbiPg _ _ => true
  | .tlbiAll => true
  | .tlbiWake _ => true
  | .pmig _ _ _ => true
  | .halt _ => true
  | .cntnContain _ _ => true
  | .cntnRelease _ _ => true
  | .cntnQuery _ _ => true
  | .dupc _ _ => true
  | .dupcClear _ _ => true
  | .rbck _ _ => true
  | .csrr _ r => csrSupervisor r
  | .csrw _ r _ => csrSupervisor r
  | .csrs _ r _ => csrSupervisor r
  | .csrc _ r _ => csrSupervisor r
  | _ => false
/-- The state register that an instruction names. -/
def csrNamed : Instr → Option Csr
  | .csrr _ r => some r
  | .csrw _ r _ => some r
  | .csrs _ r _ => some r
  | .csrc _ r _ => some r
  | _ => none
/-- Whether an instruction waits until the thread's active frame ends, or until a register leaves its footprint (R232, R169). -/
def Frame.holds (f : Frame) (i : Instr) (w : Nat) : Bool :=
  f.active && (decide (0x3F = w / 2 ^ 26 ∧ i ≠ .elect) || [0x20, 0x21, 0x22, 0x23, 0x28, 0x29].contains (w / 2 ^ 26) || i == .tend
    || csrNamed i == some .fflags || i.names.any f.footprint.contains)
/-- Whether a word is TABT, which acts as TEND in a thread that is not speculative (R170). -/
def Instr.isTabt : Instr → Bool
  | .tabt _ => true
  | _ => false
/-- A machine check that waits for a detached thread is taken before its next word, unless INTRAP is set or an LIHH stands just before
that word (R70, R348). -/
def State.takeMchk (s : State) : Option State :=
  let h := s.cur
  match h.pendMchk with
  | [] => none
  | a :: rest =>
    if h.intrap || h.lihhNow.isSome || s.turn.slot = 15 then none
    else
      let s := s.dropReads s.turn
      some (s.setCur ({ s.cur with pendMchk := rest }.enter ⟨.mchk, a⟩ true h.pcc))
/-- The fault that a decoded word meets before it issues: UNDEF in a handler (R294), PRIV in user mode (R37). -/
def Thread.refuses (h : Thread) (slot : Nat) (i : Instr) (w : Nat) : Option TrapVal :=
  if slot = 15 && handlerUndef i w then some ⟨.undef, w⟩
  else if !h.mode && privileged i then some ⟨.priv, w⟩
  else none
/-- A decoded word goes on to `go`, unless its faults, hazards or waits stop it: a destination of an outstanding `.rx` load forfeits (R39), a
register with poison pending raises POISON, a scalar word's reader too (R91; log entry 51), behind the other causes of the word (R48), and an
active frame holds it (R232). -/
def State.issueInstr (go : Instr → Nat → State → Out) (s : State) (i : Instr) (w : Nat) : Out :=
  let h := s.cur
  match h.refuses s.turn.slot i w with
  | some e => .next (s.takePosition.raiseAt h.epc e)
  | none =>
    if i.names.any h.rxRegs.contains then .next s
    else if h.frame.any (fun f => f.holds i w || (f.active && !h.spec && Instr.isTabt i)) then .next (s.park .frame)
    else match h.poisonPend.find? (fun e => i.regs.1.any (fun r => r.val == e.1)) with
    | some (r, e) => s.takePosition.poisonAt r e (go i w s)
    | none => go i w s
/-- An ELECT word with reserved bits set: the fetch checks and UNDEF of the word that it governs come first (R36). -/
def State.badElect (s : State) (w : Nat) : State :=
  match s.governed with
  | .miss y => s.park (.fetch y)
  | .trap e => s.takePosition.raiseAt s.cur.epc e
  | .word _ => s.takePosition.raiseAt s.cur.epc ⟨.rsvd, w⟩
/-- The word that the PCC of the thread in turn addresses is fetched and decoded, and goes on to `go` (R15, R36). -/
def State.issueWith (go : Instr → Nat → State → Out) (s : State) : Out :=
  let h := s.cur
  match s.takeMchk with
  | some s => .next s
  | none => match s.fetchAt s.turn.core h.pcc with
    | .miss y => .next (s.park (.fetch y))
    | .trap e => .next (s.takePosition.raiseAt h.epc e)
    | .word w => match decode w with
      | .undef => .next (s.takePosition.raiseAt h.epc ⟨.undef, w⟩)
      | .rsvd => .next (if w / 2 ^ 23 = 0x1F9 then s.badElect w else s.takePosition.raiseAt h.epc ⟨.rsvd, w⟩)
      | .instr i =>
        if Instr.formatBad h i then .next (s.takePosition.raiseAt h.epc ⟨.rsvd, w⟩)
        else s.issueInstr go i w
/-- A word of a thread that is in no pair: its instruction runs. -/
def issueAlone (i : Instr) (_w : Nat) (s : State) : Out := exec i s.takePosition

end Sys2Proof.Machine
end

