-- ==== Sys2Proof/Machine/PairIssue.lean ====
section
/-!
DEFINITION. How the two threads of a redundant pair issue (R62, R321, R337, R341, R342), and the turn of a thread.
-/
namespace Sys2Proof.Machine

/-- How a pair issues a word (R62, R341): in both threads, as a load of the leading thread, or as a released action. -/
inductive PairClass where
  | both
  | load (d : RegNum)
  | action
  deriving DecidableEq, Repr
/-- The destination of a load that has no effect beyond its thread (R341). -/
def pairLoad : Instr → Option RegNum
  | .ldS8 d _ _ _ => some d
  | .ldS16 d _ _ _ => some d
  | .ldS32 d _ _ _ => some d
  | .ldS64 d _ _ _ => some d
  | .ldN8 d _ _ _ => some d
  | .ldN16 d _ _ _ => some d
  | .ldN32 d _ _ _ => some d
  | .ldQ128 d _ _ _ => some d
  | .ldc d _ _ => some d
  | .fec d _ _ => some d
  | .feq d _ _ => some d
  | .ldacq d _ _ => some d
  | .sigmrg d _ _ => some d
  | _ => none
/-- Whether both threads of a pair run an instruction of major `m`, each for itself (R62, R341): what acts on the thread's own registers, and the
repeat frame that each of them runs (R234). -/
def pairBoth (i : Instr) (m : Nat) : Bool :=
  match i with
  | .sysc _ => true
  | .trap _ _ => true
  | .brk _ => true
  | .fencei => true
  | .eret => true
  | .csrr _ _ => true
  | .csrw _ r _ => csrScope r == .thread
  | .csrs _ r _ => csrScope r == .thread
  | .csrc _ r _ => csrScope r == .thread
  | .rpt _ _ _ _ _ _ => true
  | _ => (decide (1 ≤ m) && decide (m ≤ 0x0F)) || [0x20, 0x21, 0x22].contains m
/-- The class of a word of the thread in turn. A word that ELECT governs is posted with it (R62). -/
def State.pairClass (s : State) (i : Instr) (w : Nat) : PairClass :=
  if s.cur.electing.isSome then .action
  else match pairLoad i with
    | some d => .load d
    | none => if pairBoth i (w / 2 ^ 26) then .both else .action
/-- Whether the leading thread may issue a word behind actions that are yet to be performed: one that acts on its own registers alone; a load follows
its own thread's stores (log entry 12). -/
def ownWord (w : Nat) : Bool := decide (1 ≤ w / 2 ^ 26) && decide (w / 2 ^ 26 ≤ 0x0F) || [0x20, 0x21, 0x22].contains (w / 2 ^ 26)
/-- A word of the leading thread (R341): a load enters the load-value queue, or waits while 64 are in it; a released action is posted to the comparator
of 16 entries, and the thread goes on behind one that returns nothing and waits at any other. -/
def issueLeader (q : Trail) (i : Instr) (w : Nat) (s : State) : Out :=
  let busy := !q.ahead.isEmpty
  match s.pairClass i w with
  | .both => if busy && !ownWord w then .next s else exec i s.takePosition
  | .load d =>
    if 64 ≤ q.loads.length || busy then .next s
    else exec i (s.setTrail s.turn { q with loads := q.loads ++ [{ d := d, count := s.cur.instret, traps := s.cur.traps }] }).takePosition
  | .action =>
    if 16 ≤ q.ahead.length then .next s
    else if Instr.silent i && s.cur.electing.isNone && q.loads.all (fun e => e.res.isSome) then
      let e : Posted := { w := w, ops := s.cur.operands, traps := s.cur.traps }
      .next (s.setTrail s.turn { q with ahead := q.ahead ++ [e], waiting := false }).takePosition.finish
    else .next (s.setTrail s.turn { q with posted := some w, waiting := false })
/-- The turn of the leading thread of a pair: nothing while an action waits or is performed, or while its core quiesces (R337). A machine
check is taken by both threads at the same instruction (R321). -/
def State.issueLeading (s : State) : Out :=
  match s.trailOf s.turn with
  | none => .next s
  | some q =>
    if q.stopped || q.action.isSome || q.posted.isSome || (s.core s.turn.core).quiescing then .next s
    else match s.takeMchk with
      | some s' =>
        let u := s.thread (trailTid s.turn)
        if u.status = .running && u.instret = s.cur.instret then
          let a := s'.cur.tval
          .next (s'.setThread (trailTid s.turn) (u.enter ⟨.mchk, a.toNat⟩ true u.pcc))
        else .next s
      | none => s.issueWith (issueLeader q)

/-- The comparator (R341, R342): the trailing thread in turn has come to an action `i`, the word `w`, and its leading thread to the word `p`. When
operation, address, size and data are the same the action is performed, once. -/
def State.pairCompare (s : State) (q : Trail) (i : Instr) (w p : Nat) : Out :=
  let t := (leadTid s.turn)
  let u := s.cur
  let s1 := { s with turn := t }
  let h := s1.cur
  let mine := exec i s1.takePosition
  let theirs := exec i (s1.setCur (h.withOperands u)).takePosition
  if p = w && h.sameTraps u && Instr.posted h i == Instr.posted u i && sameEffect t h mine theirs then
    match mine with
    | .next x =>
      let a : Action :=
        { count := h.instret, traps := h.traps, pc := h.pc, fflags := h.fflags, dests := i.regs.2, elect := i == .elect }
      let x := if (x.thread s.turn).trail.isSome then x.setTrail t { q with posted := none, action := some a, waiting := false } else x
      .next { x with turn := s.turn }
    | .fault e => .fault e
    | .refused e => .refused e
  else .next (s.pairMismatch t w)
/-- The trailing thread in turn performs an action behind which its leading thread has gone on, in the leading slot and with its own context, once that
is the same as the posted one (R341, R342). It waits while the leading thread is parked. -/
def State.pairAhead (s : State) (q : Trail) (i : Instr) (w : Nat) (e : Posted) : Out :=
  let t := (leadTid s.turn)
  let u := s.cur
  let h := s.thread t
  let held : Bool := match h.wait with
    | some (.fetch _) => false
    | some _ => true
    | none => h.status != .running
  if held then .next (s.setCur { u with trail := some { q with waiting := true } })
  else
    let b := { h.foldTrail u with status := .running }
    let s1 := { s.setThread t b with turn := t }
    let theirs := exec i s1.takePosition
    if e.w = w && e.traps == u.traps && Instr.posted (b.withOps e.ops) i == Instr.posted b i
        && sameEffect t b (exec i (s1.setCur (b.withOps e.ops)).takePosition) theirs then
      match theirs with
      | .next x =>
        let a : Action := { count := b.instret, traps := b.traps, pc := b.pc, fflags := b.fflags, dests := [], elect := false, ahead := true }
        let x := if (x.thread s.turn).trail.isSome then x.setThread s.turn { h with trail := some { q with action := some a, waiting := false } } else x
        .next { x with turn := s.turn }
      | .fault e => .fault e
      | .refused e => .refused e
    else .next (s.pairMismatch t w)
/-- The turn of a trailing thread did nothing: it waits. -/
def State.trailWaits (s : State) (q : Trail) : State := s.setCur { s.cur with trail := some { q with waiting := true } }
/-- The trap that a load of the trailing thread takes for its own operands: a capability fault or a misalignment. -/
def State.loadTrap (s : State) (i : Instr) : Option State :=
  match exec i s.takePosition with
  | .next x =>
    let codes := [Cause.capTag, .capBnd, .capPerm, .capSeal, .align]
    if x.cur.traps != s.cur.traps && codes.any (fun c => x.cur.causeCode.toNat == c.code) then some x
    else match x.cur.wait with
      | some (.heldTrap e _) => if codes.contains e.cause then some x else none
      | some (.tendAcks _) => some x
      | _ => none
  | .fault _ => none
  | .refused _ => none
/-- A load of the trailing thread takes its result from the load-value queue, in order (R341). -/
def State.trailLoad (s : State) (q : Trail) (i : Instr) : State :=
  match q.loads with
  | [] => s.trailWaits q
  | e :: rest =>
    let q' := { q with loads := rest, waiting := false }
    match e.res with
    | none => s.trailWaits q
    | some (.value v p) => match s.loadTrap i with
      | some x => x.setCur { x.cur with trail := some q' }
      | none =>
        let s := s.takePosition
        let u := s.cur.setReg e.d v
        let u := match p with
          | some k => { u with poisonPend := Map.set u.poisonPend e.d.val k }
          | none => u
        (s.setCur { u with trail := some q' }).finish
    | some (.trap code tval) =>
      let s := s.takePosition
      if s.cur.intrap then s.park (.tendAcks true)
      else s.setCur { s.cur.enter ⟨.mchk, tval.toNat⟩ false s.cur.faultPcc with causeCode := code, trail := some q' }
/-- A word of the trailing thread (R341): as the leading thread's, but it takes the values of loads from the queue, and compares actions. -/
def issueTrailer (q : Trail) (i : Instr) (w : Nat) (s : State) : Out :=
  match s.pairClass i w with
  | .both => exec i (s.setCur { s.cur with trail := some { q with waiting := false } }).takePosition
  | .load _ => .next (s.trailLoad q i)
  | .action => match q.ahead, q.posted with
    | e :: _, _ => s.pairAhead q i w e
    | [], none => .next (s.trailWaits q)
    | [], some p => s.pairCompare q i w p
/-- One word of the trailing thread in turn. -/
def State.trailTurn (s : State) (q : Trail) : Out :=
  match q.trap with
  | some e => .next ((s.setCur { s.cur with trail := some { q with trap := none } }).takePosition.raiseAt s.cur.epc e)
  | none => s.issueWith (issueTrailer q)
/-- Whether the leading thread of the trailing thread in turn has yet to come to the word at which that one stands (R342). -/
def State.leadBehind (s : State) (q : Trail) : Bool := q.posted.isNone && decide ((s.thread (leadTid s.turn)).instret.toNat ≤ s.cur.instret.toNat)
/-- What the trailing thread's turn comes to: a trap that ends it, or that it holds, is a mismatch where the leading thread has passed the word without it
(R342); else it waits for that one. One that has ended its leading thread too ends the pair; a trap or an irrevocable word of a speculative task waits until
its leading thread has passed (R49, R159), as `k` then does. -/
def State.trailSettle (s : State) (q : Trail) (k : Out) (o : Out) : Out :=
  let lead := s.thread (leadTid s.turn)
  let alone := s.pairMismatch (leadTid s.turn) (match s.fetchAt s.turn.core s.cur.pcc with
    | .word w => w
    | .trap _ => 0
    | .miss _ => 0)
  match o with
  | .next x => match x.cur.trail.bind (fun _ => x.cur.wait) with
    | some (.tendAcks _) => .next (match lead.wait with
      | some (.tendAcks _) => s
      | _ => if s.leadBehind q then s.trailWaits q else alone)
    | some (.heldTrap _ _) => match lead.wait with
      | some (.heldTrap _ _) => k
      | some .aborting => k
      | _ => if lead.spec && !s.leadBehind q then .next alone else k
    | some .irrevocable => k
    | _ => .next x
  | .fault e => .fault e
  | .refused e => .refused e
/-- The turn of the trailing thread of a pair. -/
def State.issueTrailing (s : State) : Out :=
  match s.cur.trail with
  | none => .next s
  | some q =>
    let h := s.thread (leadTid s.turn)
    if q.stopped || q.action.isSome || ((s.core s.turn.core).quiescing && h.instret == s.cur.instret) then .next s
    else
      let q := { q with waiting := false }
      let s := s.setCur { s.cur with trail := some q }
      let s2 := s.setCur { s.cur with spec := h.spec, irv := h.irv }
      let again := if h.spec then .next (s.trailWaits q) else s2.trailSettle q (.next (s.trailWaits q)) (s2.trailTurn q)
      s.trailSettle q again (s.trailTurn q)

/-- The turn of a thread: it issues the word that its PCC addresses, or does nothing when it is not running (R15, R36) or its core
quiesces (R337). In a redundant pair
each thread issues for itself (R341). -/
def State.issue (s : State) (t : Tid) : Out :=
  let s := { s with turn := t }
  if s.cur.status ≠ .running || ((s.core t.core).quiescing && t.slot != 15 && s.cur.trail.isNone) then .next s
  else if s.cur.trail.isSome then (s.pairSync (leadTid t)).issueTrailing
  else if (s.trailOf t).isSome then (s.pairSync t).issueLeading
  else s.issueWith issueAlone

end Sys2Proof.Machine
end

