-- ==== Sys2Proof/Machine/Due.lean ====
section
/-!
DEFINITION. What the module does next on its own when the schedule names nobody (R8, log entry 1): the moves that are at hand, kind by
kind, and the first of them that changes the state.
-/
namespace Sys2Proof.Machine

/-- An event that the module performs on its own. -/
def ownEvent (i : Instr) (a : EventArgs) : Turn := .event i { a with own := true }
/-- An event that may happen to each thread slot in use. -/
def State.forThreads (i : Instr) (s : State) : List Turn := s.threads.map (fun e => ownEvent i { t := tidOf e.1 })
/-- An event that may happen to each core in use. -/
def State.forCores (i : Instr) (s : State) : List Turn := s.cores.map (fun e => ownEvent i { core := e.1 })
/-- An event that may happen to each key of a list that a core holds. -/
def State.forCoreKeys (i : Instr) (keys : Core → List Nat) (s : State) : List Turn :=
  s.cores.flatMap (fun e => (keys e.2).map (fun k => ownEvent i { core := e.1, k := k }))
/-- An event that may happen to each cluster in use. -/
def State.forClusters (i : Instr) (s : State) : List Turn := s.clusters.map (fun e => ownEvent i { cluster := e.1 })
/-- An event that may happen to each numbered entry that a cluster holds. -/
def State.forEntries (i : Instr) (keys : Cluster → List Nat) (s : State) : List Turn :=
  s.clusters.flatMap (fun e => (keys e.2).map (fun k => ownEvent i { cluster := e.1, entry := k }))
/-- An event that may happen to each domain. -/
def State.forDomains (i : Instr) (s : State) : List Turn := s.domains.map (fun e => ownEvent i { domain := e.1 })
/-- The running threads, those that follow the last turn first. -/
def State.forTurns (s : State) : List Turn :=
  let run := s.threads.filter (fun e => e.2.status == .running)
  ((run.filter (fun e => decide (tkey s.turn < e.1))) ++ run.filter (fun e => decide (e.1 ≤ tkey s.turn))).map (fun e => .thread (tidOf e.1))
/-- The probes of R151 that clusters have yet to answer. -/
def State.forProbes (s : State) : List Turn :=
  s.clusters.flatMap (fun e => e.2.lines.flatMap (fun l => match l.2.probe with
    | some (_, v, cls) => cls.map (fun k => ownEvent .ovfProbe { cluster := k, line := l.2.va / 64, ts := v.ts, tb := v.tb })
    | none => []))
/-- The markers of R356 that a domain's clusters, or the ports of its job, may receive from inside the module. -/
def State.forMarkers (s : State) : List Turn :=
  s.domains.flatMap (fun from_ => match from_.2.snap with
    | none => []
    | some sn => s.domains.flatMap (fun e =>
      (e.2.clusters ++ (List.range 16).map (fun p => 0x4000 + p)).flatMap (fun ep =>
        ((s.channelsTo sn.job ep).filter (fun ch => decide (ch / 8 < 0x8000))).map (fun ch =>
          ownEvent .snapshotMarker { domain := e.1, endpoint := ep, channel := ch, id := sn.id, full := sn.full }))))
/-- The moves that the module makes on its own, kind by kind: the turns of threads, and the events that need nothing from outside
the module, no error, no time limit and no choice of a unit outside the spec. -/
def State.ownMoves : List (State → List Turn) :=
  [ State.forTurns,
    State.forThreads .repeatWordIssue,
    (fun s => s.threads.map (fun e => ownEvent .repeatWordIssue { t := tidOf e.1, k := 1 })),
    State.forThreads .instructionFill,
    State.forThreads .dataArrival,
    (fun s => s.cores.flatMap (fun e => e.2.fills.map (fun y => ownEvent .lineFill { core := e.1, line := y }))),
    State.forCores .writeBack,
    State.forThreads .meshScratchRequest,
    (fun s => s.threads.flatMap (fun e => (List.range e.2.rx.length).map (fun k => ownEvent .rxAccessPerform { t := tidOf e.1, k := k }))),
    State.forThreads .feWaiterResend,
    State.forThreads .faultEntryRetry,
    State.forThreads .wakeMessage,
    State.forThreads .homeSpeculativeAccess,
    State.forThreads .homeAcknowledgement,
    State.forThreads .irrevocablePass,
    State.forClusters .taskRecordArrival,
    State.forClusters .taskRefill,
    State.forClusters .taskDispatch,
    State.forClusters .contextMessageArrival,
    State.forProbes,
    State.forEntries .taskAbort (fun c => c.aborts.map Prod.fst),
    State.forDomains .belvedereSample,
    State.forDomains .roundResult,
    State.forEntries .barrierCycle (fun c => c.bars.map Prod.fst),
    State.forEntries .barrierWake (fun c => c.bars.map Prod.fst) ]
  ++ [ State.forThreads .electPostArrival,
    State.forCores .rputDelivery,
    State.forCores .tableBuild,
    State.forCores .matrixOpStart,
    (fun s => s.cores.map (fun e => ownEvent .matrixOpComplete { core := e.1, k := 1 })),
    State.forCores .mcmdArrival,
    (fun s => s.threads.flatMap (fun e => (List.range e.2.cmdAcks.length).map (fun k => ownEvent .mcmdAck { t := tidOf e.1, k := k }))),
    State.forThreads .chainOpenArrival,
    State.forThreads .chainCloseArrival,
    (fun s => s.cores.flatMap (fun e => e.2.outbox.map (fun r => ownEvent .trellisRowArrival { src := some (.outbox e.1 r.1) }))),
    State.forCoreKeys .trellisAckArrival (fun c => c.outbox.map Prod.fst),
    (fun s => s.cores.flatMap (fun e => e.2.notices.map (fun c => ownEvent .resumeNotice { core := c, target := e.1 }))),
    State.forCores .transferStart,
    State.forCoreKeys .transferSourceRead (fun c => (c.inflight.filter (fun e => !e.2.ended)).map Prod.fst),
    State.forCoreKeys .chunkArrival (fun c => List.range c.incoming.length),
    State.forCores .chunkRedelivery,
    State.forCores .landingHandlerStart,
    State.forCoreKeys .transferCompletion (fun c => 0 :: 1 :: c.inflight.map Prod.fst),
    (fun s => s.cores.flatMap (fun e => (e.2.joins.take 1).map (fun j => ownEvent .multicastJoin { core := e.1, tag := j.tag, join := j.join }))),
    State.forCoreKeys .multicastSend (fun c => c.inflight.map Prod.fst),
    State.forThreads .streamRouteHeld,
    State.forCores .camOperationEnd ]
  ++ [ State.forCores .prmtArrival,
    State.forCores .rsumArrival,
    State.forDomains .mchkDelivery,
    State.forMarkers,
    (fun s => s.cores.flatMap (fun e => (List.range 64).map (fun g => ownEvent .scratchSegmentCopy { core := e.1, seg := g }))),
    State.forDomains .snapshotSweep,
    State.forCores .preWriteBack,
    (fun s => s.domains.flatMap (fun a => s.domains.map (fun b => ownEvent .snapshotCompletionReport { domain := a.1, child := b.1 }))),
    State.forDomains .snapshotCompletionNotice,
    State.forDomains .snapshotAbortNotice,
    State.forDomains .ingressEnqueue,
    (fun s => if s.held.isEmpty then [] else [ownEvent .wakeEvent {}]) ]
/-- Whether a move does anything: a thread's turn always does, a round's sample when its result changes the state, any other event when it
changes the state itself. -/
def State.moves (s : State) : Turn → Bool
  | .thread _ => true
  | .event .belvedereSample a => match exec .belvedereSample { s with ev := a } with
    | .next s' => match exec .roundResult s' with
      | .next t => decide (t ≠ { s with ev := a })
      | .fault _ => true
      | .refused _ => true
    | .fault _ => true
    | .refused _ => true
  | .event i a => match exec i { s with ev := a } with
    | .next s' => decide (s' ≠ { s with ev := a })
    | .fault _ => true
    | .refused _ => true
/-- The moves of a kind in the order in which they are tried: the threads' turns as they stand, those of another kind from a place that
changes from round to round of the kinds. -/
def moveOrder (pace n k : Nat) (l : List Turn) : List Turn :=
  if k = 0 then l else l.drop (pace / n % l.length) ++ l.take (pace / n % l.length)
/-- The first move at hand when the kinds are tried in turn, from the one that `s.pace` names on, with what `pace` becomes. -/
def State.due (s : State) : Option (Nat × Turn) :=
  let n := State.ownMoves.length
  (List.range n).findSome? (fun j =>
    let k := (s.pace + j) % n
    match State.ownMoves[k]? with
    | some f => ((moveOrder s.pace n k (f s)).find? s.moves).map (fun t => (s.pace + j + 1, t))
    | none => none)
/-- A turn is taken: a thread issues, or an event happens with what takes part in it. A word's instruction is no event. -/
def State.take (s : State) : Turn → Out
  | .thread t => s.issue t
  | .event i a => if i.isEvent then exec i { s with ev := a } else .next s
/-- What the module does when the schedule names nobody: its first move at hand, or nothing. -/
def State.ownStep (s : State) : Out :=
  match s.due with
  | some (k, t) => ({ s with pace := k }).take t
  | none => .next s

end Sys2Proof.Machine
end

