-- ==== Sys2Proof/Machine/Step.lean ====
section
/-!
DEFINITION. One step of the module (R8): the next turn of the schedule, or the module's own next move; and the state in which a given
word is the next to issue.
-/
namespace Sys2Proof.Machine

/-- One step: the schedule's next turn is taken; with an empty schedule the module makes its own next move (log entry 1). -/
def step (s : State) : Host.Outcome State Fault Refusal :=
  match s.schedule with
  | tn :: rest => { s with schedule := rest }.take tn
  | [] => s.ownStep

/-- The state with a word as the next to issue: thread slot 0 of core 0 runs it from address 0 through a code capability (log entry 8),
from the core's instruction cache. -/
def State.withFetchWord (s : State) (_nbits w : Nat) : State :=
  let t : Tid := ⟨0, 0⟩
  let h := s.thread t
  let c := s.core 0
  ({ s with schedule := [.thread t] }.setThread t
    { h with status := .running, trail := none, dup := false, pcc := capFor 0 4096 [permX], frame := none, inFrame := false, electing := none, pendMchk := [], poisonPend := [], rx := [] }).setCore 0
    { c with icache := Map.set c.icache 0 { data := BitVec.ofNat 512 (w % 2 ^ 32) } }

end Sys2Proof.Machine
end

