-- ==== Sys2Proof/Laws/Decode.lean ====
section
/-!
SUPPORT. What the encoder and the decoder do with one field of a word, and which table a word's major opcode selects.
-/
namespace Sys2Proof

theorem encode_val (i : Instr) (n : Nat) (h : encodeNat i = n) (hn : n < 4294967296) : (encode i).toNat = n := by
  rw [encode, BitVec.toNat_ofNat, h]; exact Nat.mod_eq_of_lt hn
theorem packWord_cons (b x k : Nat) (l : List (Nat × Nat)) : packWord b ((x, k) :: l) = x * 2 ^ k + packWord b l := by
  unfold packWord; rw [List.foldr_cons]
theorem packWord_nil (b : Nat) : packWord b [] = b := by unfold packWord; rw [List.foldr_nil]
theorem boolLt (b : Bool) : b.toNat < 2 := by cases b <;> decide
theorem reg5_of {w lo : Nat} (d : Fin 32) (h : fld w lo 5 = d.val) : reg5 w lo = d := by
  unfold reg5; rw [h]; ext; simp [Fin.ofNat, Nat.mod_eq_of_lt d.isLt]
@[simp] theorem finOf {n : Nat} [NeZero n] (x : Fin n) : Fin.ofNat n x.val = x := by ext; simp [Fin.ofNat, Nat.mod_eq_of_lt x.isLt]
@[simp] theorem finOfNat_val {n : Nat} (x : Fin n) : finOfNat n x.val = some x := by simp [finOfNat]
@[simp] theorem nzOfNat_val (x : Fin 7) : nzOfNat (x.val + 1) = some x := by simp [nzOfNat]
@[simp] theorem toNat_ne (b : Bool) : (b.toNat != 0) = b := by cases b <;> rfl
@[simp] theorem toNat_ne' (b : Bool) : (!(b.toNat == 0)) = b := by cases b <;> rfl
@[simp] theorem orUndef_some {α : Type} (x : α) (k : α → Decoded) : orUndef (some x) k = k x := rfl
theorem Scope.code_lt (x : Scope) : x.code < 8 := by cases x <;> decide
theorem AOrder.code_lt (x : AOrder) : x.code < 4 := by cases x <;> decide
theorem Dir.code_lt (x : Dir) : x.code < 4 := by cases x <;> decide
theorem VType.code_lt (x : VType) : x.code < 8 := by cases x <;> decide
theorem SatMode.code_lt (x : SatMode) : x.code < 4 := by cases x <;> decide
theorem FType.code_lt (x : FType) : x.code < 8 := by cases x <;> decide
theorem Pred.code_lt (x : Pred) : x.code < 8 := by cases x <;> decide
theorem NumType.code_lt (x : NumType) : x.code < 32 := by cases x <;> decide
theorem Csr.code_lt (x : Csr) : x.code < 4096 := by cases x <;> decide
@[simp] theorem Scope.ofCode_code (x : Scope) : Scope.ofCode x.code = some x := by cases x <;> rfl
@[simp] theorem AOrder.ofCode_code (x : AOrder) : AOrder.ofCode x.code = some x := by cases x <;> rfl
@[simp] theorem Dir.ofCode_code (x : Dir) : Dir.ofCode x.code = some x := by cases x <;> rfl
@[simp] theorem VType.ofCode_code (x : VType) : VType.ofCode x.code = some x := by cases x <;> rfl
@[simp] theorem SatMode.ofCode_code (x : SatMode) : SatMode.ofCode x.code = some x := by cases x <;> rfl
@[simp] theorem FType.ofCode_code (x : FType) : FType.ofCode x.code = some x := by cases x <;> rfl
@[simp] theorem Pred.ofCode_code (x : Pred) : Pred.ofCode x.code = some x := by cases x <;> rfl
@[simp] theorem NumType.ofCode_code (x : NumType) : NumType.ofCode x.code = some x := by cases x <;> rfl
@[simp] theorem Csr.ofCode_code (x : Csr) : Csr.ofCode x.code = some x := by cases x <;> rfl
@[simp] theorem vtFloat_code (x : VType) : vtFloat x.code = x.isFloat := by cases x <;> rfl
@[simp] theorem vtLanes_code (x : VType) : vtLanes x.code = x.lanes := by cases x <;> rfl
theorem sat_float {t : VType} {m : SatMode} (h : satOk t m = true) : (t.isFloat && (m.code != 0)) = false := by
  revert h; cases t <;> cases m <;> decide
theorem nat_float {t : VType} {n : Bool} (h : natOk t n = true) : (t.isFloat && n) = false := by
  revert h; cases t <;> cases n <;> decide
theorem pred_float {t : VType} {p : Pred} (h : predOk t p = true) : ¬ (6 ≤ p.code ∧ t.isFloat = false) := by
  revert h; cases t <;> cases p <;> decide
theorem dot_code {t : VType} (h : (t == .f16 || t == .bf16 || t == .i8 || t == .i16) = true) : VType.dotOfCode t.code = some t := by
  revert h; cases t <;> decide
theorem lane_lt {t : VType} {l : Fin 32} (h : laneOk t l = true) : ¬ t.lanes ≤ l.val := by
  have := of_decide_eq_true h; omega
theorem csr_mask {c : Csr} (h : maskCsrOk c = true) : ¬ (c.code = 4 ∨ c.code = 5) := by
  revert h; cases c <;> decide
theorem decode_major01 (w : Nat) (h : fld w 26 6 = 1) : decode w = decodeMajor01 w := by unfold decode; rw [h]; rfl
theorem decode_major02 (w : Nat) (h : fld w 26 6 = 2) : decode w = decodeMajor02 w := by unfold decode; rw [h]; rfl
theorem decode_major03 (w : Nat) (h : fld w 26 6 = 3) : decode w = decodeMajor03 w := by unfold decode; rw [h]; rfl
theorem decode_major04 (w : Nat) (h : fld w 26 6 = 4) : decode w = decodeMajor04 w := by unfold decode; rw [h]; rfl
theorem decode_major05 (w : Nat) (h : fld w 26 6 = 5) : decode w = decodeMajor05 w := by unfold decode; rw [h]; rfl
theorem decode_major06 (w : Nat) (h : fld w 26 6 = 6) : decode w = decodeMajor06 w := by unfold decode; rw [h]; rfl
theorem decode_major07 (w : Nat) (h : fld w 26 6 = 7) : decode w = decodeMajor07 w := by unfold decode; rw [h]; rfl
theorem decode_major08 (w : Nat) (h : fld w 26 6 = 8) : decode w = decodeMajor08 w := by unfold decode; rw [h]; rfl
theorem decode_major09 (w : Nat) (h : fld w 26 6 = 9) : decode w = decodeMajor09 w := by unfold decode; rw [h]; rfl
theorem decode_major0A (w : Nat) (h : fld w 26 6 = 10) : decode w = decodeMajor0A w := by unfold decode; rw [h]; rfl
theorem decode_major0B (w : Nat) (h : fld w 26 6 = 11) : decode w = decodeMajor0B w := by unfold decode; rw [h]; rfl
theorem decode_major0C (w : Nat) (h : fld w 26 6 = 12) : decode w = decodeMajor0C w := by unfold decode; rw [h]; rfl
theorem decode_major0D (w : Nat) (h : fld w 26 6 = 13) : decode w = decodeMajor0D w := by unfold decode; rw [h]; rfl
theorem decode_major0E (w : Nat) (h : fld w 26 6 = 14) : decode w = decodeMajor0E w := by unfold decode; rw [h]; rfl
theorem decode_major0F (w : Nat) (h : fld w 26 6 = 15) : decode w = decodeMajor0F w := by unfold decode; rw [h]; rfl
theorem decode_major10 (w : Nat) (h : fld w 26 6 = 16) : decode w = decodeMajor10 w := by unfold decode; rw [h]; rfl
theorem decode_major11 (w : Nat) (h : fld w 26 6 = 17) : decode w = decodeMajor11 w := by unfold decode; rw [h]; rfl
theorem decode_major12 (w : Nat) (h : fld w 26 6 = 18) : decode w = decodeMajor12 w := by unfold decode; rw [h]; rfl
theorem decode_major13 (w : Nat) (h : fld w 26 6 = 19) : decode w = decodeMajor13 w := by unfold decode; rw [h]; rfl
theorem decode_major14 (w : Nat) (h : fld w 26 6 = 20) : decode w = decodeMajor14 w := by unfold decode; rw [h]; rfl
theorem decode_major15 (w : Nat) (h : fld w 26 6 = 21) : decode w = decodeMajor15 w := by unfold decode; rw [h]; rfl
theorem decode_major16 (w : Nat) (h : fld w 26 6 = 22) : decode w = decodeMajor16 w := by unfold decode; rw [h]; rfl
theorem decode_major18 (w : Nat) (h : fld w 26 6 = 24) : decode w = decodeMajor18 w := by unfold decode; rw [h]; rfl
theorem decode_major19 (w : Nat) (h : fld w 26 6 = 25) : decode w = decodeMajor19 w := by unfold decode; rw [h]; rfl
theorem decode_major1A (w : Nat) (h : fld w 26 6 = 26) : decode w = decodeMajor1A w := by unfold decode; rw [h]; rfl
theorem decode_major20 (w : Nat) (h : fld w 26 6 = 32) : decode w = decodeMajor20 w := by unfold decode; rw [h]; rfl
theorem decode_major21 (w : Nat) (h : fld w 26 6 = 33) : decode w = decodeMajor21 w := by unfold decode; rw [h]; rfl
theorem decode_major22 (w : Nat) (h : fld w 26 6 = 34) : decode w = decodeMajor22 w := by unfold decode; rw [h]; rfl
theorem decode_major23 (w : Nat) (h : fld w 26 6 = 35) : decode w = decodeMajor23 w := by unfold decode; rw [h]; rfl
theorem decode_major28 (w : Nat) (h : fld w 26 6 = 40) : decode w = decodeMajor28 w := by unfold decode; rw [h]; rfl
theorem decode_major29 (w : Nat) (h : fld w 26 6 = 41) : decode w = decodeMajor29 w := by unfold decode; rw [h]; rfl
theorem decode_major2C (w : Nat) (h : fld w 26 6 = 44) : decode w = decodeMajor2C w := by unfold decode; rw [h]; rfl
theorem decode_major2D (w : Nat) (h : fld w 26 6 = 45) : decode w = decodeMajor2D w := by unfold decode; rw [h]; rfl
theorem decode_major2E (w : Nat) (h : fld w 26 6 = 46) : decode w = decodeMajor2E w := by unfold decode; rw [h]; rfl
theorem decode_major2F (w : Nat) (h : fld w 26 6 = 47) : decode w = decodeMajor2F w := by unfold decode; rw [h]; rfl
theorem decode_major30 (w : Nat) (h : fld w 26 6 = 48) : decode w = decodeMajor30 w := by unfold decode; rw [h]; rfl
theorem decode_major31 (w : Nat) (h : fld w 26 6 = 49) : decode w = decodeMajor31 w := by unfold decode; rw [h]; rfl
theorem decode_major32 (w : Nat) (h : fld w 26 6 = 50) : decode w = decodeMajor32 w := by unfold decode; rw [h]; rfl
theorem decode_major3F (w : Nat) (h : fld w 26 6 = 63) : decode w = decodeMajor3F w := by unfold decode; rw [h]; rfl

end Sys2Proof
end

