-- ==== Sys2Proof/Laws/PerInstr.lean ====
section
/-!
SUPPORT. The family `RoundTrip`: decoding the word of a well-formed instruction gives that instruction (R25, R36), one lemma for
each constructor of `Instr`.
-/
namespace Sys2Proof.Laws

/-- Decoding the word of an instruction gives it back (R25, R36); an event has no word. -/
def RoundTrip.Statement (i : Instr) : Prop := i.isEvent = false → i.wf = true → decode (encode i).toNat = .instr i
theorem RoundTrip.add (d : RegNum) (a : RegNum) (b : RegNum) : RoundTrip.Statement (.add d a b) := by
  intro _ hwf
  have hw : (encode (.add d a b)).toNat = d.val * 2 ^ 21 + (a.val * 2 ^ 16 + (b.val * 2 ^ 11 + (67108864))) := encode_val _ _ (show packWord 67108864 [(d.val, 21), (a.val, 16), (b.val, 11)] = _ by simp only [packWord_cons, packWord_nil]) (by omega)
  generalize (encode (.add d a b)).toNat = W at hw
  have h0 : fld W 26 6 = 1 := by unfold fld; omega
  have h1 : fld W 0 6 = 0 := by unfold fld; omega
  have h2 : fld W 21 5 = d.val := by unfold fld; omega
  have r2 := reg5_of d h2
  have h3 : fld W 16 5 = a.val := by unfold fld; omega
  have r3 := reg5_of a h3
  have h4 : fld W 11 5 = b.val := by unfold fld; omega
  have r4 := reg5_of b h4
  have h5 : fld W 6 5 = 0 := by unfold fld; omega
  rw [decode_major01 W h0]
  simp [decodeMajor01, whenZero, h1, r2, r3, r4, h5]
theorem RoundTrip.sub (d : RegNum) (a : RegNum) (b : RegNum) : RoundTrip.Statement (.sub d a b) := by
  intro _ hwf
  have hw : (encode (.sub d a b)).toNat = d.val * 2 ^ 21 + (a.val * 2 ^ 16 + (b.val * 2 ^ 11 + (67108865))) := encode_val _ _ (show packWord 67108865 [(d.val, 21), (a.val, 16), (b.val, 11)] = _ by simp only [packWord_cons, packWord_nil]) (by omega)
  generalize (encode (.sub d a b)).toNat = W at hw
  have h0 : fld W 26 6 = 1 := by unfold fld; omega
  have h1 : fld W 0 6 = 1 := by unfold fld; omega
  have h2 : fld W 21 5 = d.val := by unfold fld; omega
  have r2 := reg5_of d h2
  have h3 : fld W 16 5 = a.val := by unfold fld; omega
  have r3 := reg5_of a h3
  have h4 : fld W 11 5 = b.val := by unfold fld; omega
  have r4 := reg5_of b h4
  have h5 : fld W 6 5 = 0 := by unfold fld; omega
  rw [decode_major01 W h0]
  simp [decodeMajor01, whenZero, h1, r2, r3, r4, h5]
theorem RoundTrip.mul (d : RegNum) (a : RegNum) (b : RegNum) : RoundTrip.Statement (.mul d a b) := by
  intro _ hwf
  have hw : (encode (.mul d a b)).toNat = d.val * 2 ^ 21 + (a.val * 2 ^ 16 + (b.val * 2 ^ 11 + (67108866))) := encode_val _ _ (show packWord 67108866 [(d.val, 21), (a.val, 16), (b.val, 11)] = _ by simp only [packWord_cons, packWord_nil]) (by omega)
  generalize (encode (.mul d a b)).toNat = W at hw
  have h0 : fld W 26 6 = 1 := by unfold fld; omega
  have h1 : fld W 0 6 = 2 := by unfold fld; omega
  have h2 : fld W 21 5 = d.val := by unfold fld; omega
  have r2 := reg5_of d h2
  have h3 : fld W 16 5 = a.val := by unfold fld; omega
  have r3 := reg5_of a h3
  have h4 : fld W 11 5 = b.val := by unfold fld; omega
  have r4 := reg5_of b h4
  have h5 : fld W 6 5 = 0 := by unfold fld; omega
  rw [decode_major01 W h0]
  simp [decodeMajor01, whenZero, h1, r2, r3, r4, h5]
theorem RoundTrip.mulh (d : RegNum) (a : RegNum) (b : RegNum) : RoundTrip.Statement (.mulh d a b) := by
  intro _ hwf
  have hw : (encode (.mulh d a b)).toNat = d.val * 2 ^ 21 + (a.val * 2 ^ 16 + (b.val * 2 ^ 11 + (67108867))) := encode_val _ _ (show packWord 67108867 [(d.val, 21), (a.val, 16), (b.val, 11)] = _ by simp only [packWord_cons, packWord_nil]) (by omega)
  generalize (encode (.mulh d a b)).toNat = W at hw
  have h0 : fld W 26 6 = 1 := by unfold fld; omega
  have h1 : fld W 0 6 = 3 := by unfold fld; omega
  have h2 : fld W 21 5 = d.val := by unfold fld; omega
  have r2 := reg5_of d h2
  have h3 : fld W 16 5 = a.val := by unfold fld; omega
  have r3 := reg5_of a h3
  have h4 : fld W 11 5 = b.val := by unfold fld; omega
  have r4 := reg5_of b h4
  have h5 : fld W 6 5 = 0 := by unfold fld; omega
  rw [decode_major01 W h0]
  simp [decodeMajor01, whenZero, h1, r2, r3, r4, h5]
theorem RoundTrip.mulhn (d : RegNum) (a : RegNum) (b : RegNum) : RoundTrip.Statement (.mulhn d a b) := by
  intro _ hwf
  have hw : (encode (.mulhn d a b)).toNat = d.val * 2 ^ 21 + (a.val * 2 ^ 16 + (b.val * 2 ^ 11 + (67108868))) := encode_val _ _ (show packWord 67108868 [(d.val, 21), (a.val, 16), (b.val, 11)] = _ by simp only [packWord_cons, packWord_nil]) (by omega)
  generalize (encode (.mulhn d a b)).toNat = W at hw
  have h0 : fld W 26 6 = 1 := by unfold fld; omega
  have h1 : fld W 0 6 = 4 := by unfold fld; omega
  have h2 : fld W 21 5 = d.val := by unfold fld; omega
  have r2 := reg5_of d h2
  have h3 : fld W 16 5 = a.val := by unfold fld; omega
  have r3 := reg5_of a h3
  have h4 : fld W 11 5 = b.val := by unfold fld; omega
  have r4 := reg5_of b h4
  have h5 : fld W 6 5 = 0 := by unfold fld; omega
  rw [decode_major01 W h0]
  simp [decodeMajor01, whenZero, h1, r2, r3, r4, h5]
theorem RoundTrip.div (d : RegNum) (a : RegNum) (b : RegNum) : RoundTrip.Statement (.div d a b) := by
  intro _ hwf
  have hw : (encode (.div d a b)).toNat = d.val * 2 ^ 21 + (a.val * 2 ^ 16 + (b.val * 2 ^ 11 + (67108869))) := encode_val _ _ (show packWord 67108869 [(d.val, 21), (a.val, 16), (b.val, 11)] = _ by simp only [packWord_cons, packWord_nil]) (by omega)
  generalize (encode (.div d a b)).toNat = W at hw
  have h0 : fld W 26 6 = 1 := by unfold fld; omega
  have h1 : fld W 0 6 = 5 := by unfold fld; omega
  have h2 : fld W 21 5 = d.val := by unfold fld; omega
  have r2 := reg5_of d h2
  have h3 : fld W 16 5 = a.val := by unfold fld; omega
  have r3 := reg5_of a h3
  have h4 : fld W 11 5 = b.val := by unfold fld; omega
  have r4 := reg5_of b h4
  have h5 : fld W 6 5 = 0 := by unfold fld; omega
  rw [decode_major01 W h0]
  simp [decodeMajor01, whenZero, h1, r2, r3, r4, h5]
theorem RoundTrip.divn (d : RegNum) (a : RegNum) (b : RegNum) : RoundTrip.Statement (.divn d a b) := by
  intro _ hwf
  have hw : (encode (.divn d a b)).toNat = d.val * 2 ^ 21 + (a.val * 2 ^ 16 + (b.val * 2 ^ 11 + (67108870))) := encode_val _ _ (show packWord 67108870 [(d.val, 21), (a.val, 16), (b.val, 11)] = _ by simp only [packWord_cons, packWord_nil]) (by omega)
  generalize (encode (.divn d a b)).toNat = W at hw
  have h0 : fld W 26 6 = 1 := by unfold fld; omega
  have h1 : fld W 0 6 = 6 := by unfold fld; omega
  have h2 : fld W 21 5 = d.val := by unfold fld; omega
  have r2 := reg5_of d h2
  have h3 : fld W 16 5 = a.val := by unfold fld; omega
  have r3 := reg5_of a h3
  have h4 : fld W 11 5 = b.val := by unfold fld; omega
  have r4 := reg5_of b h4
  have h5 : fld W 6 5 = 0 := by unfold fld; omega
  rw [decode_major01 W h0]
  simp [decodeMajor01, whenZero, h1, r2, r3, r4, h5]
theorem RoundTrip.rem (d : RegNum) (a : RegNum) (b : RegNum) : RoundTrip.Statement (.rem d a b) := by
  intro _ hwf
  have hw : (encode (.rem d a b)).toNat = d.val * 2 ^ 21 + (a.val * 2 ^ 16 + (b.val * 2 ^ 11 + (67108871))) := encode_val _ _ (show packWord 67108871 [(d.val, 21), (a.val, 16), (b.val, 11)] = _ by simp only [packWord_cons, packWord_nil]) (by omega)
  generalize (encode (.rem d a b)).toNat = W at hw
  have h0 : fld W 26 6 = 1 := by unfold fld; omega
  have h1 : fld W 0 6 = 7 := by unfold fld; omega
  have h2 : fld W 21 5 = d.val := by unfold fld; omega
  have r2 := reg5_of d h2
  have h3 : fld W 16 5 = a.val := by unfold fld; omega
  have r3 := reg5_of a h3
  have h4 : fld W 11 5 = b.val := by unfold fld; omega
  have r4 := reg5_of b h4
  have h5 : fld W 6 5 = 0 := by unfold fld; omega
  rw [decode_major01 W h0]
  simp [decodeMajor01, whenZero, h1, r2, r3, r4, h5]
theorem RoundTrip.remn (d : RegNum) (a : RegNum) (b : RegNum) : RoundTrip.Statement (.remn d a b) := by
  intro _ hwf
  have hw : (encode (.remn d a b)).toNat = d.val * 2 ^ 21 + (a.val * 2 ^ 16 + (b.val * 2 ^ 11 + (67108872))) := encode_val _ _ (show packWord 67108872 [(d.val, 21), (a.val, 16), (b.val, 11)] = _ by simp only [packWord_cons, packWord_nil]) (by omega)
  generalize (encode (.remn d a b)).toNat = W at hw
  have h0 : fld W 26 6 = 1 := by unfold fld; omega
  have h1 : fld W 0 6 = 8 := by unfold fld; omega
  have h2 : fld W 21 5 = d.val := by unfold fld; omega
  have r2 := reg5_of d h2
  have h3 : fld W 16 5 = a.val := by unfold fld; omega
  have r3 := reg5_of a h3
  have h4 : fld W 11 5 = b.val := by unfold fld; omega
  have r4 := reg5_of b h4
  have h5 : fld W 6 5 = 0 := by unfold fld; omega
  rw [decode_major01 W h0]
  simp [decodeMajor01, whenZero, h1, r2, r3, r4, h5]
theorem RoundTrip.and (d : RegNum) (a : RegNum) (b : RegNum) : RoundTrip.Statement (.and d a b) := by
  intro _ hwf
  have hw : (encode (.and d a b)).toNat = d.val * 2 ^ 21 + (a.val * 2 ^ 16 + (b.val * 2 ^ 11 + (67108873))) := encode_val _ _ (show packWord 67108873 [(d.val, 21), (a.val, 16), (b.val, 11)] = _ by simp only [packWord_cons, packWord_nil]) (by omega)
  generalize (encode (.and d a b)).toNat = W at hw
  have h0 : fld W 26 6 = 1 := by unfold fld; omega
  have h1 : fld W 0 6 = 9 := by unfold fld; omega
  have h2 : fld W 21 5 = d.val := by unfold fld; omega
  have r2 := reg5_of d h2
  have h3 : fld W 16 5 = a.val := by unfold fld; omega
  have r3 := reg5_of a h3
  have h4 : fld W 11 5 = b.val := by unfold fld; omega
  have r4 := reg5_of b h4
  have h5 : fld W 6 5 = 0 := by unfold fld; omega
  rw [decode_major01 W h0]
  simp [decodeMajor01, whenZero, h1, r2, r3, r4, h5]
theorem RoundTrip.or (d : RegNum) (a : RegNum) (b : RegNum) : RoundTrip.Statement (.or d a b) := by
  intro _ hwf
  have hw : (encode (.or d a b)).toNat = d.val * 2 ^ 21 + (a.val * 2 ^ 16 + (b.val * 2 ^ 11 + (67108874))) := encode_val _ _ (show packWord 67108874 [(d.val, 21), (a.val, 16), (b.val, 11)] = _ by simp only [packWord_cons, packWord_nil]) (by omega)
  generalize (encode (.or d a b)).toNat = W at hw
  have h0 : fld W 26 6 = 1 := by unfold fld; omega
  have h1 : fld W 0 6 = 10 := by unfold fld; omega
  have h2 : fld W 21 5 = d.val := by unfold fld; omega
  have r2 := reg5_of d h2
  have h3 : fld W 16 5 = a.val := by unfold fld; omega
  have r3 := reg5_of a h3
  have h4 : fld W 11 5 = b.val := by unfold fld; omega
  have r4 := reg5_of b h4
  have h5 : fld W 6 5 = 0 := by unfold fld; omega
  rw [decode_major01 W h0]
  simp [decodeMajor01, whenZero, h1, r2, r3, r4, h5]
theorem RoundTrip.xor (d : RegNum) (a : RegNum) (b : RegNum) : RoundTrip.Statement (.xor d a b) := by
  intro _ hwf
  have hw : (encode (.xor d a b)).toNat = d.val * 2 ^ 21 + (a.val * 2 ^ 16 + (b.val * 2 ^ 11 + (67108875))) := encode_val _ _ (show packWord 67108875 [(d.val, 21), (a.val, 16), (b.val, 11)] = _ by simp only [packWord_cons, packWord_nil]) (by omega)
  generalize (encode (.xor d a b)).toNat = W at hw
  have h0 : fld W 26 6 = 1 := by unfold fld; omega
  have h1 : fld W 0 6 = 11 := by unfold fld; omega
  have h2 : fld W 21 5 = d.val := by unfold fld; omega
  have r2 := reg5_of d h2
  have h3 : fld W 16 5 = a.val := by unfold fld; omega
  have r3 := reg5_of a h3
  have h4 : fld W 11 5 = b.val := by unfold fld; omega
  have r4 := reg5_of b h4
  have h5 : fld W 6 5 = 0 := by unfold fld; omega
  rw [decode_major01 W h0]
  simp [decodeMajor01, whenZero, h1, r2, r3, r4, h5]
theorem RoundTrip.andn (d : RegNum) (a : RegNum) (b : RegNum) : RoundTrip.Statement (.andn d a b) := by
  intro _ hwf
  have hw : (encode (.andn d a b)).toNat = d.val * 2 ^ 21 + (a.val * 2 ^ 16 + (b.val * 2 ^ 11 + (67108876))) := encode_val _ _ (show packWord 67108876 [(d.val, 21), (a.val, 16), (b.val, 11)] = _ by simp only [packWord_cons, packWord_nil]) (by omega)
  generalize (encode (.andn d a b)).toNat = W at hw
  have h0 : fld W 26 6 = 1 := by unfold fld; omega
  have h1 : fld W 0 6 = 12 := by unfold fld; omega
  have h2 : fld W 21 5 = d.val := by unfold fld; omega
  have r2 := reg5_of d h2
  have h3 : fld W 16 5 = a.val := by unfold fld; omega
  have r3 := reg5_of a h3
  have h4 : fld W 11 5 = b.val := by unfold fld; omega
  have r4 := reg5_of b h4
  have h5 : fld W 6 5 = 0 := by unfold fld; omega
  rw [decode_major01 W h0]
  simp [decodeMajor01, whenZero, h1, r2, r3, r4, h5]
theorem RoundTrip.shl (d : RegNum) (a : RegNum) (b : RegNum) : RoundTrip.Statement (.shl d a b) := by
  intro _ hwf
  have hw : (encode (.shl d a b)).toNat = d.val * 2 ^ 21 + (a.val * 2 ^ 16 + (b.val * 2 ^ 11 + (67108877))) := encode_val _ _ (show packWord 67108877 [(d.val, 21), (a.val, 16), (b.val, 11)] = _ by simp only [packWord_cons, packWord_nil]) (by omega)
  generalize (encode (.shl d a b)).toNat = W at hw
  have h0 : fld W 26 6 = 1 := by unfold fld; omega
  have h1 : fld W 0 6 = 13 := by unfold fld; omega
  have h2 : fld W 21 5 = d.val := by unfold fld; omega
  have r2 := reg5_of d h2
  have h3 : fld W 16 5 = a.val := by unfold fld; omega
  have r3 := reg5_of a h3
  have h4 : fld W 11 5 = b.val := by unfold fld; omega
  have r4 := reg5_of b h4
  have h5 : fld W 6 5 = 0 := by unfold fld; omega
  rw [decode_major01 W h0]
  simp [decodeMajor01, whenZero, h1, r2, r3, r4, h5]
theorem RoundTrip.shr (d : RegNum) (a : RegNum) (b : RegNum) : RoundTrip.Statement (.shr d a b) := by
  intro _ hwf
  have hw : (encode (.shr d a b)).toNat = d.val * 2 ^ 21 + (a.val * 2 ^ 16 + (b.val * 2 ^ 11 + (67108878))) := encode_val _ _ (show packWord 67108878 [(d.val, 21), (a.val, 16), (b.val, 11)] = _ by simp only [packWord_cons, packWord_nil]) (by omega)
  generalize (encode (.shr d a b)).toNat = W at hw
  have h0 : fld W 26 6 = 1 := by unfold fld; omega
  have h1 : fld W 0 6 = 14 := by unfold fld; omega
  have h2 : fld W 21 5 = d.val := by unfold fld; omega
  have r2 := reg5_of d h2
  have h3 : fld W 16 5 = a.val := by unfold fld; omega
  have r3 := reg5_of a h3
  have h4 : fld W 11 5 = b.val := by unfold fld; omega
  have r4 := reg5_of b h4
  have h5 : fld W 6 5 = 0 := by unfold fld; omega
  rw [decode_major01 W h0]
  simp [decodeMajor01, whenZero, h1, r2, r3, r4, h5]
theorem RoundTrip.sha (d : RegNum) (a : RegNum) (b : RegNum) : RoundTrip.Statement (.sha d a b) := by
  intro _ hwf
  have hw : (encode (.sha d a b)).toNat = d.val * 2 ^ 21 + (a.val * 2 ^ 16 + (b.val * 2 ^ 11 + (67108879))) := encode_val _ _ (show packWord 67108879 [(d.val, 21), (a.val, 16), (b.val, 11)] = _ by simp only [packWord_cons, packWord_nil]) (by omega)
  generalize (encode (.sha d a b)).toNat = W at hw
  have h0 : fld W 26 6 = 1 := by unfold fld; omega
  have h1 : fld W 0 6 = 15 := by unfold fld; omega
  have h2 : fld W 21 5 = d.val := by unfold fld; omega
  have r2 := reg5_of d h2
  have h3 : fld W 16 5 = a.val := by unfold fld; omega
  have r3 := reg5_of a h3
  have h4 : fld W 11 5 = b.val := by unfold fld; omega
  have r4 := reg5_of b h4
  have h5 : fld W 6 5 = 0 := by unfold fld; omega
  rw [decode_major01 W h0]
  simp [decodeMajor01, whenZero, h1, r2, r3, r4, h5]
theorem RoundTrip.rotr (d : RegNum) (a : RegNum) (b : RegNum) : RoundTrip.Statement (.rotr d a b) := by
  intro _ hwf
  have hw : (encode (.rotr d a b)).toNat = d.val * 2 ^ 21 + (a.val * 2 ^ 16 + (b.val * 2 ^ 11 + (67108880))) := encode_val _ _ (show packWord 67108880 [(d.val, 21), (a.val, 16), (b.val, 11)] = _ by simp only [packWord_cons, packWord_nil]) (by omega)
  generalize (encode (.rotr d a b)).toNat = W at hw
  have h0 : fld W 26 6 = 1 := by unfold fld; omega
  have h1 : fld W 0 6 = 16 := by unfold fld; omega
  have h2 : fld W 21 5 = d.val := by unfold fld; omega
  have r2 := reg5_of d h2
  have h3 : fld W 16 5 = a.val := by unfold fld; omega
  have r3 := reg5_of a h3
  have h4 : fld W 11 5 = b.val := by unfold fld; omega
  have r4 := reg5_of b h4
  have h5 : fld W 6 5 = 0 := by unfold fld; omega
  rw [decode_major01 W h0]
  simp [decodeMajor01, whenZero, h1, r2, r3, r4, h5]
theorem RoundTrip.clz (d : RegNum) (a : RegNum) : RoundTrip.Statement (.clz d a) := by
  intro _ hwf
  have hw : (encode (.clz d a)).toNat = d.val * 2 ^ 21 + (a.val * 2 ^ 16 + (67108881)) := encode_val _ _ (show packWord 67108881 [(d.val, 21), (a.val, 16)] = _ by simp only [packWord_cons, packWord_nil]) (by omega)
  generalize (encode (.clz d a)).toNat = W at hw
  have h0 : fld W 26 6 = 1 := by unfold fld; omega
  have h1 : fld W 0 6 = 17 := by unfold fld; omega
  have h2 : fld W 21 5 = d.val := by unfold fld; omega
  have r2 := reg5_of d h2
  have h3 : fld W 16 5 = a.val := by unfold fld; omega
  have r3 := reg5_of a h3
  have h4 : fld W 11 5 = 0 := by unfold fld; omega
  have h5 : fld W 6 5 = 0 := by unfold fld; omega
  rw [decode_major01 W h0]
  simp [decodeMajor01, whenZero, h1, r2, r3, h4, h5]
theorem RoundTrip.ctz (d : RegNum) (a : RegNum) : RoundTrip.Statement (.ctz d a) := by
  intro _ hwf
  have hw : (encode (.ctz d a)).toNat = d.val * 2 ^ 21 + (a.val * 2 ^ 16 + (67108882)) := encode_val _ _ (show packWord 67108882 [(d.val, 21), (a.val, 16)] = _ by simp only [packWord_cons, packWord_nil]) (by omega)
  generalize (encode (.ctz d a)).toNat = W at hw
  have h0 : fld W 26 6 = 1 := by unfold fld; omega
  have h1 : fld W 0 6 = 18 := by unfold fld; omega
  have h2 : fld W 21 5 = d.val := by unfold fld; omega
  have r2 := reg5_of d h2
  have h3 : fld W 16 5 = a.val := by unfold fld; omega
  have r3 := reg5_of a h3
  have h4 : fld W 11 5 = 0 := by unfold fld; omega
  have h5 : fld W 6 5 = 0 := by unfold fld; omega
  rw [decode_major01 W h0]
  simp [decodeMajor01, whenZero, h1, r2, r3, h4, h5]
theorem RoundTrip.popc (d : RegNum) (a : RegNum) : RoundTrip.Statement (.popc d a) := by
  intro _ hwf
  have hw : (encode (.popc d a)).toNat = d.val * 2 ^ 21 + (a.val * 2 ^ 16 + (67108883)) := encode_val _ _ (show packWord 67108883 [(d.val, 21), (a.val, 16)] = _ by simp only [packWord_cons, packWord_nil]) (by omega)
  generalize (encode (.popc d a)).toNat = W at hw
  have h0 : fld W 26 6 = 1 := by unfold fld; omega
  have h1 : fld W 0 6 = 19 := by unfold fld; omega
  have h2 : fld W 21 5 = d.val := by unfold fld; omega
  have r2 := reg5_of d h2
  have h3 : fld W 16 5 = a.val := by unfold fld; omega
  have r3 := reg5_of a h3
  have h4 : fld W 11 5 = 0 := by unfold fld; omega
  have h5 : fld W 6 5 = 0 := by unfold fld; omega
  rw [decode_major01 W h0]
  simp [decodeMajor01, whenZero, h1, r2, r3, h4, h5]
theorem RoundTrip.min (d : RegNum) (a : RegNum) (b : RegNum) : RoundTrip.Statement (.min d a b) := by
  intro _ hwf
  have hw : (encode (.min d a b)).toNat = d.val * 2 ^ 21 + (a.val * 2 ^ 16 + (b.val * 2 ^ 11 + (67108884))) := encode_val _ _ (show packWord 67108884 [(d.val, 21), (a.val, 16), (b.val, 11)] = _ by simp only [packWord_cons, packWord_nil]) (by omega)
  generalize (encode (.min d a b)).toNat = W at hw
  have h0 : fld W 26 6 = 1 := by unfold fld; omega
  have h1 : fld W 0 6 = 20 := by unfold fld; omega
  have h2 : fld W 21 5 = d.val := by unfold fld; omega
  have r2 := reg5_of d h2
  have h3 : fld W 16 5 = a.val := by unfold fld; omega
  have r3 := reg5_of a h3
  have h4 : fld W 11 5 = b.val := by unfold fld; omega
  have r4 := reg5_of b h4
  have h5 : fld W 6 5 = 0 := by unfold fld; omega
  rw [decode_major01 W h0]
  simp [decodeMajor01, whenZero, h1, r2, r3, r4, h5]
theorem RoundTrip.max (d : RegNum) (a : RegNum) (b : RegNum) : RoundTrip.Statement (.max d a b) := by
  intro _ hwf
  have hw : (encode (.max d a b)).toNat = d.val * 2 ^ 21 + (a.val * 2 ^ 16 + (b.val * 2 ^ 11 + (67108885))) := encode_val _ _ (show packWord 67108885 [(d.val, 21), (a.val, 16), (b.val, 11)] = _ by simp only [packWord_cons, packWord_nil]) (by omega)
  generalize (encode (.max d a b)).toNat = W at hw
  have h0 : fld W 26 6 = 1 := by unfold fld; omega
  have h1 : fld W 0 6 = 21 := by unfold fld; omega
  have h2 : fld W 21 5 = d.val := by unfold fld; omega
  have r2 := reg5_of d h2
  have h3 : fld W 16 5 = a.val := by unfold fld; omega
  have r3 := reg5_of a h3
  have h4 : fld W 11 5 = b.val := by unfold fld; omega
  have r4 := reg5_of b h4
  have h5 : fld W 6 5 = 0 := by unfold fld; omega
  rw [decode_major01 W h0]
  simp [decodeMajor01, whenZero, h1, r2, r3, r4, h5]
theorem RoundTrip.minn (d : RegNum) (a : RegNum) (b : RegNum) : RoundTrip.Statement (.minn d a b) := by
  intro _ hwf
  have hw : (encode (.minn d a b)).toNat = d.val * 2 ^ 21 + (a.val * 2 ^ 16 + (b.val * 2 ^ 11 + (67108886))) := encode_val _ _ (show packWord 67108886 [(d.val, 21), (a.val, 16), (b.val, 11)] = _ by simp only [packWord_cons, packWord_nil]) (by omega)
  generalize (encode (.minn d a b)).toNat = W at hw
  have h0 : fld W 26 6 = 1 := by unfold fld; omega
  have h1 : fld W 0 6 = 22 := by unfold fld; omega
  have h2 : fld W 21 5 = d.val := by unfold fld; omega
  have r2 := reg5_of d h2
  have h3 : fld W 16 5 = a.val := by unfold fld; omega
  have r3 := reg5_of a h3
  have h4 : fld W 11 5 = b.val := by unfold fld; omega
  have r4 := reg5_of b h4
  have h5 : fld W 6 5 = 0 := by unfold fld; omega
  rw [decode_major01 W h0]
  simp [decodeMajor01, whenZero, h1, r2, r3, r4, h5]
theorem RoundTrip.maxn (d : RegNum) (a : RegNum) (b : RegNum) : RoundTrip.Statement (.maxn d a b) := by
  intro _ hwf
  have hw : (encode (.maxn d a b)).toNat = d.val * 2 ^ 21 + (a.val * 2 ^ 16 + (b.val * 2 ^ 11 + (67108887))) := encode_val _ _ (show packWord 67108887 [(d.val, 21), (a.val, 16), (b.val, 11)] = _ by simp only [packWord_cons, packWord_nil]) (by omega)
  generalize (encode (.maxn d a b)).toNat = W at hw
  have h0 : fld W 26 6 = 1 := by unfold fld; omega
  have h1 : fld W 0 6 = 23 := by unfold fld; omega
  have h2 : fld W 21 5 = d.val := by unfold fld; omega
  have r2 := reg5_of d h2
  have h3 : fld W 16 5 = a.val := by unfold fld; omega
  have r3 := reg5_of a h3
  have h4 : fld W 11 5 = b.val := by unfold fld; omega
  have r4 := reg5_of b h4
  have h5 : fld W 6 5 = 0 := by unfold fld; omega
  rw [decode_major01 W h0]
  simp [decodeMajor01, whenZero, h1, r2, r3, r4, h5]
theorem RoundTrip.seq (d : RegNum) (a : RegNum) (b : RegNum) : RoundTrip.Statement (.seq d a b) := by
  intro _ hwf
  have hw : (encode (.seq d a b)).toNat = d.val * 2 ^ 21 + (a.val * 2 ^ 16 + (b.val * 2 ^ 11 + (67108888))) := encode_val _ _ (show packWord 67108888 [(d.val, 21), (a.val, 16), (b.val, 11)] = _ by simp only [packWord_cons, packWord_nil]) (by omega)
  generalize (encode (.seq d a b)).toNat = W at hw
  have h0 : fld W 26 6 = 1 := by unfold fld; omega
  have h1 : fld W 0 6 = 24 := by unfold fld; omega
  have h2 : fld W 21 5 = d.val := by unfold fld; omega
  have r2 := reg5_of d h2
  have h3 : fld W 16 5 = a.val := by unfold fld; omega
  have r3 := reg5_of a h3
  have h4 : fld W 11 5 = b.val := by unfold fld; omega
  have r4 := reg5_of b h4
  have h5 : fld W 6 5 = 0 := by unfold fld; omega
  rw [decode_major01 W h0]
  simp [decodeMajor01, whenZero, h1, r2, r3, r4, h5]
theorem RoundTrip.sne (d : RegNum) (a : RegNum) (b : RegNum) : RoundTrip.Statement (.sne d a b) := by
  intro _ hwf
  have hw : (encode (.sne d a b)).toNat = d.val * 2 ^ 21 + (a.val * 2 ^ 16 + (b.val * 2 ^ 11 + (67108889))) := encode_val _ _ (show packWord 67108889 [(d.val, 21), (a.val, 16), (b.val, 11)] = _ by simp only [packWord_cons, packWord_nil]) (by omega)
  generalize (encode (.sne d a b)).toNat = W at hw
  have h0 : fld W 26 6 = 1 := by unfold fld; omega
  have h1 : fld W 0 6 = 25 := by unfold fld; omega
  have h2 : fld W 21 5 = d.val := by unfold fld; omega
  have r2 := reg5_of d h2
  have h3 : fld W 16 5 = a.val := by unfold fld; omega
  have r3 := reg5_of a h3
  have h4 : fld W 11 5 = b.val := by unfold fld; omega
  have r4 := reg5_of b h4
  have h5 : fld W 6 5 = 0 := by unfold fld; omega
  rw [decode_major01 W h0]
  simp [decodeMajor01, whenZero, h1, r2, r3, r4, h5]
theorem RoundTrip.slt (d : RegNum) (a : RegNum) (b : RegNum) : RoundTrip.Statement (.slt d a b) := by
  intro _ hwf
  have hw : (encode (.slt d a b)).toNat = d.val * 2 ^ 21 + (a.val * 2 ^ 16 + (b.val * 2 ^ 11 + (67108890))) := encode_val _ _ (show packWord 67108890 [(d.val, 21), (a.val, 16), (b.val, 11)] = _ by simp only [packWord_cons, packWord_nil]) (by omega)
  generalize (encode (.slt d a b)).toNat = W at hw
  have h0 : fld W 26 6 = 1 := by unfold fld; omega
  have h1 : fld W 0 6 = 26 := by unfold fld; omega
  have h2 : fld W 21 5 = d.val := by unfold fld; omega
  have r2 := reg5_of d h2
  have h3 : fld W 16 5 = a.val := by unfold fld; omega
  have r3 := reg5_of a h3
  have h4 : fld W 11 5 = b.val := by unfold fld; omega
  have r4 := reg5_of b h4
  have h5 : fld W 6 5 = 0 := by unfold fld; omega
  rw [decode_major01 W h0]
  simp [decodeMajor01, whenZero, h1, r2, r3, r4, h5]
theorem RoundTrip.sltn (d : RegNum) (a : RegNum) (b : RegNum) : RoundTrip.Statement (.sltn d a b) := by
  intro _ hwf
  have hw : (encode (.sltn d a b)).toNat = d.val * 2 ^ 21 + (a.val * 2 ^ 16 + (b.val * 2 ^ 11 + (67108891))) := encode_val _ _ (show packWord 67108891 [(d.val, 21), (a.val, 16), (b.val, 11)] = _ by simp only [packWord_cons, packWord_nil]) (by omega)
  generalize (encode (.sltn d a b)).toNat = W at hw
  have h0 : fld W 26 6 = 1 := by unfold fld; omega
  have h1 : fld W 0 6 = 27 := by unfold fld; omega
  have h2 : fld W 21 5 = d.val := by unfold fld; omega
  have r2 := reg5_of d h2
  have h3 : fld W 16 5 = a.val := by unfold fld; omega
  have r3 := reg5_of a h3
  have h4 : fld W 11 5 = b.val := by unfold fld; omega
  have r4 := reg5_of b h4
  have h5 : fld W 6 5 = 0 := by unfold fld; omega
  rw [decode_major01 W h0]
  simp [decodeMajor01, whenZero, h1, r2, r3, r4, h5]
theorem RoundTrip.sle (d : RegNum) (a : RegNum) (b : RegNum) : RoundTrip.Statement (.sle d a b) := by
  intro _ hwf
  have hw : (encode (.sle d a b)).toNat = d.val * 2 ^ 21 + (a.val * 2 ^ 16 + (b.val * 2 ^ 11 + (67108892))) := encode_val _ _ (show packWord 67108892 [(d.val, 21), (a.val, 16), (b.val, 11)] = _ by simp only [packWord_cons, packWord_nil]) (by omega)
  generalize (encode (.sle d a b)).toNat = W at hw
  have h0 : fld W 26 6 = 1 := by unfold fld; omega
  have h1 : fld W 0 6 = 28 := by unfold fld; omega
  have h2 : fld W 21 5 = d.val := by unfold fld; omega
  have r2 := reg5_of d h2
  have h3 : fld W 16 5 = a.val := by unfold fld; omega
  have r3 := reg5_of a h3
  have h4 : fld W 11 5 = b.val := by unfold fld; omega
  have r4 := reg5_of b h4
  have h5 : fld W 6 5 = 0 := by unfold fld; omega
  rw [decode_major01 W h0]
  simp [decodeMajor01, whenZero, h1, r2, r3, r4, h5]
theorem RoundTrip.slen (d : RegNum) (a : RegNum) (b : RegNum) : RoundTrip.Statement (.slen d a b) := by
  intro _ hwf
  have hw : (encode (.slen d a b)).toNat = d.val * 2 ^ 21 + (a.val * 2 ^ 16 + (b.val * 2 ^ 11 + (67108893))) := encode_val _ _ (show packWord 67108893 [(d.val, 21), (a.val, 16), (b.val, 11)] = _ by simp only [packWord_cons, packWord_nil]) (by omega)
  generalize (encode (.slen d a b)).toNat = W at hw
  have h0 : fld W 26 6 = 1 := by unfold fld; omega
  have h1 : fld W 0 6 = 29 := by unfold fld; omega
  have h2 : fld W 21 5 = d.val := by unfold fld; omega
  have r2 := reg5_of d h2
  have h3 : fld W 16 5 = a.val := by unfold fld; omega
  have r3 := reg5_of a h3
  have h4 : fld W 11 5 = b.val := by unfold fld; omega
  have r4 := reg5_of b h4
  have h5 : fld W 6 5 = 0 := by unfold fld; omega
  rw [decode_major01 W h0]
  simp [decodeMajor01, whenZero, h1, r2, r3, r4, h5]
theorem RoundTrip.sel (d : RegNum) (a : RegNum) (b : RegNum) (c : RegNum) : RoundTrip.Statement (.sel d a b c) := by
  intro _ hwf
  have hw : (encode (.sel d a b c)).toNat = d.val * 2 ^ 21 + (a.val * 2 ^ 16 + (b.val * 2 ^ 11 + (c.val * 2 ^ 6 + (67108894)))) := encode_val _ _ (show packWord 67108894 [(d.val, 21), (a.val, 16), (b.val, 11), (c.val, 6)] = _ by simp only [packWord_cons, packWord_nil]) (by omega)
  generalize (encode (.sel d a b c)).toNat = W at hw
  have h0 : fld W 26 6 = 1 := by unfold fld; omega
  have h1 : fld W 0 6 = 30 := by unfold fld; omega
  have h2 : fld W 21 5 = d.val := by unfold fld; omega
  have r2 := reg5_of d h2
  have h3 : fld W 16 5 = a.val := by unfold fld; omega
  have r3 := reg5_of a h3
  have h4 : fld W 11 5 = b.val := by unfold fld; omega
  have r4 := reg5_of b h4
  have h5 : fld W 6 5 = c.val := by unfold fld; omega
  have r5 := reg5_of c h5
  rw [decode_major01 W h0]
  simp [decodeMajor01, h1, r2, r3, r4, r5]
theorem RoundTrip.extb (d : RegNum) (a : RegNum) (b : RegNum) : RoundTrip.Statement (.extb d a b) := by
  intro _ hwf
  have hw : (encode (.extb d a b)).toNat = d.val * 2 ^ 21 + (a.val * 2 ^ 16 + (b.val * 2 ^ 11 + (67108895))) := encode_val _ _ (show packWord 67108895 [(d.val, 21), (a.val, 16), (b.val, 11)] = _ by simp only [packWord_cons, packWord_nil]) (by omega)
  generalize (encode (.extb d a b)).toNat = W at hw
  have h0 : fld W 26 6 = 1 := by unfold fld; omega
  have h1 : fld W 0 6 = 31 := by unfold fld; omega
  have h2 : fld W 21 5 = d.val := by unfold fld; omega
  have r2 := reg5_of d h2
  have h3 : fld W 16 5 = a.val := by unfold fld; omega
  have r3 := reg5_of a h3
  have h4 : fld W 11 5 = b.val := by unfold fld; omega
  have r4 := reg5_of b h4
  have h5 : fld W 6 5 = 0 := by unfold fld; omega
  rw [decode_major01 W h0]
  simp [decodeMajor01, whenZero, h1, r2, r3, r4, h5]
theorem RoundTrip.extbn (d : RegNum) (a : RegNum) (b : RegNum) : RoundTrip.Statement (.extbn d a b) := by
  intro _ hwf
  have hw : (encode (.extbn d a b)).toNat = d.val * 2 ^ 21 + (a.val * 2 ^ 16 + (b.val * 2 ^ 11 + (67108896))) := encode_val _ _ (show packWord 67108896 [(d.val, 21), (a.val, 16), (b.val, 11)] = _ by simp only [packWord_cons, packWord_nil]) (by omega)
  generalize (encode (.extbn d a b)).toNat = W at hw
  have h0 : fld W 26 6 = 1 := by unfold fld; omega
  have h1 : fld W 0 6 = 32 := by unfold fld; omega
  have h2 : fld W 21 5 = d.val := by unfold fld; omega
  have r2 := reg5_of d h2
  have h3 : fld W 16 5 = a.val := by unfold fld; omega
  have r3 := reg5_of a h3
  have h4 : fld W 11 5 = b.val := by unfold fld; omega
  have r4 := reg5_of b h4
  have h5 : fld W 6 5 = 0 := by unfold fld; omega
  rw [decode_major01 W h0]
  simp [decodeMajor01, whenZero, h1, r2, r3, r4, h5]
theorem RoundTrip.insb (d : RegNum) (a : RegNum) (b : RegNum) : RoundTrip.Statement (.insb d a b) := by
  intro _ hwf
  have hw : (encode (.insb d a b)).toNat = d.val * 2 ^ 21 + (a.val * 2 ^ 16 + (b.val * 2 ^ 11 + (67108897))) := encode_val _ _ (show packWord 67108897 [(d.val, 21), (a.val, 16), (b.val, 11)] = _ by simp only [packWord_cons, packWord_nil]) (by omega)
  generalize (encode (.insb d a b)).toNat = W at hw
  have h0 : fld W 26 6 = 1 := by unfold fld; omega
  have h1 : fld W 0 6 = 33 := by unfold fld; omega
  have h2 : fld W 21 5 = d.val := by unfold fld; omega
  have r2 := reg5_of d h2
  have h3 : fld W 16 5 = a.val := by unfold fld; omega
  have r3 := reg5_of a h3
  have h4 : fld W 11 5 = b.val := by unfold fld; omega
  have r4 := reg5_of b h4
  have h5 : fld W 6 5 = 0 := by unfold fld; omega
  rw [decode_major01 W h0]
  simp [decodeMajor01, whenZero, h1, r2, r3, r4, h5]
theorem RoundTrip.addi (d : RegNum) (a : RegNum) (imm : BitVec 16) : RoundTrip.Statement (.addi d a imm) := by
  intro _ hwf
  have hw : (encode (.addi d a imm)).toNat = d.val * 2 ^ 21 + (a.val * 2 ^ 16 + (imm.toNat * 2 ^ 0 + (134217728))) := encode_val _ _ (show packWord 134217728 [(d.val, 21), (a.val, 16), (imm.toNat, 0)] = _ by simp only [packWord_cons, packWord_nil]) (by omega)
  generalize (encode (.addi d a imm)).toNat = W at hw
  have h0 : fld W 26 6 = 2 := by unfold fld; omega
  have h1 : fld W 0 16 = imm.toNat := by unfold fld; omega
  have h2 : fld W 21 5 = d.val := by unfold fld; omega
  have r2 := reg5_of d h2
  have h3 : fld W 16 5 = a.val := by unfold fld; omega
  have r3 := reg5_of a h3
  rw [decode_major02 W h0]
  simp [decodeMajor02, h1, r2, r3]
theorem RoundTrip.andi (d : RegNum) (a : RegNum) (imm : BitVec 16) : RoundTrip.Statement (.andi d a imm) := by
  intro _ hwf
  have hw : (encode (.andi d a imm)).toNat = d.val * 2 ^ 21 + (a.val * 2 ^ 16 + (imm.toNat * 2 ^ 0 + (201326592))) := encode_val _ _ (show packWord 201326592 [(d.val, 21), (a.val, 16), (imm.toNat, 0)] = _ by simp only [packWord_cons, packWord_nil]) (by omega)
  generalize (encode (.andi d a imm)).toNat = W at hw
  have h0 : fld W 26 6 = 3 := by unfold fld; omega
  have h1 : fld W 0 16 = imm.toNat := by unfold fld; omega
  have h2 : fld W 21 5 = d.val := by unfold fld; omega
  have r2 := reg5_of d h2
  have h3 : fld W 16 5 = a.val := by unfold fld; omega
  have r3 := reg5_of a h3
  rw [decode_major03 W h0]
  simp [decodeMajor03, h1, r2, r3]
theorem RoundTrip.ori (d : RegNum) (a : RegNum) (imm : BitVec 16) : RoundTrip.Statement (.ori d a imm) := by
  intro _ hwf
  have hw : (encode (.ori d a imm)).toNat = d.val * 2 ^ 21 + (a.val * 2 ^ 16 + (imm.toNat * 2 ^ 0 + (268435456))) := encode_val _ _ (show packWord 268435456 [(d.val, 21), (a.val, 16), (imm.toNat, 0)] = _ by simp only [packWord_cons, packWord_nil]) (by omega)
  generalize (encode (.ori d a imm)).toNat = W at hw
  have h0 : fld W 26 6 = 4 := by unfold fld; omega
  have h1 : fld W 0 16 = imm.toNat := by unfold fld; omega
  have h2 : fld W 21 5 = d.val := by unfold fld; omega
  have r2 := reg5_of d h2
  have h3 : fld W 16 5 = a.val := by unfold fld; omega
  have r3 := reg5_of a h3
  rw [decode_major04 W h0]
  simp [decodeMajor04, h1, r2, r3]
theorem RoundTrip.xori (d : RegNum) (a : RegNum) (imm : BitVec 16) : RoundTrip.Statement (.xori d a imm) := by
  intro _ hwf
  have hw : (encode (.xori d a imm)).toNat = d.val * 2 ^ 21 + (a.val * 2 ^ 16 + (imm.toNat * 2 ^ 0 + (335544320))) := encode_val _ _ (show packWord 335544320 [(d.val, 21), (a.val, 16), (imm.toNat, 0)] = _ by simp only [packWord_cons, packWord_nil]) (by omega)
  generalize (encode (.xori d a imm)).toNat = W at hw
  have h0 : fld W 26 6 = 5 := by unfold fld; omega
  have h1 : fld W 0 16 = imm.toNat := by unfold fld; omega
  have h2 : fld W 21 5 = d.val := by unfold fld; omega
  have r2 := reg5_of d h2
  have h3 : fld W 16 5 = a.val := by unfold fld; omega
  have r3 := reg5_of a h3
  rw [decode_major05 W h0]
  simp [decodeMajor05, h1, r2, r3]
theorem RoundTrip.slti (d : RegNum) (a : RegNum) (imm : BitVec 16) : RoundTrip.Statement (.slti d a imm) := by
  intro _ hwf
  have hw : (encode (.slti d a imm)).toNat = d.val * 2 ^ 21 + (a.val * 2 ^ 16 + (imm.toNat * 2 ^ 0 + (402653184))) := encode_val _ _ (show packWord 402653184 [(d.val, 21), (a.val, 16), (imm.toNat, 0)] = _ by simp only [packWord_cons, packWord_nil]) (by omega)
  generalize (encode (.slti d a imm)).toNat = W at hw
  have h0 : fld W 26 6 = 6 := by unfold fld; omega
  have h1 : fld W 0 16 = imm.toNat := by unfold fld; omega
  have h2 : fld W 21 5 = d.val := by unfold fld; omega
  have r2 := reg5_of d h2
  have h3 : fld W 16 5 = a.val := by unfold fld; omega
  have r3 := reg5_of a h3
  rw [decode_major06 W h0]
  simp [decodeMajor06, h1, r2, r3]
theorem RoundTrip.shli (d : RegNum) (a : RegNum) (n : Fin 64) : RoundTrip.Statement (.shli d a n) := by
  intro _ hwf
  have hw : (encode (.shli d a n)).toNat = d.val * 2 ^ 21 + (a.val * 2 ^ 16 + (n.val * 2 ^ 0 + (469762048))) := encode_val _ _ (show packWord 469762048 [(d.val, 21), (a.val, 16), (n.val, 0)] = _ by simp only [packWord_cons, packWord_nil]) (by omega)
  generalize (encode (.shli d a n)).toNat = W at hw
  have h0 : fld W 26 6 = 7 := by unfold fld; omega
  have h1 : fld W 6 2 = 0 := by unfold fld; omega
  have h2 : fld W 0 6 = n.val := by unfold fld; omega
  have h3 : fld W 21 5 = d.val := by unfold fld; omega
  have r3 := reg5_of d h3
  have h4 : fld W 16 5 = a.val := by unfold fld; omega
  have r4 := reg5_of a h4
  have h5 : fld W 8 8 = 0 := by unfold fld; omega
  rw [decode_major07 W h0]
  simp [decodeMajor07, whenZero, h1, h2, r3, r4, h5]
theorem RoundTrip.shri (d : RegNum) (a : RegNum) (n : Fin 64) : RoundTrip.Statement (.shri d a n) := by
  intro _ hwf
  have hw : (encode (.shri d a n)).toNat = d.val * 2 ^ 21 + (a.val * 2 ^ 16 + (n.val * 2 ^ 0 + (469762112))) := encode_val _ _ (show packWord 469762112 [(d.val, 21), (a.val, 16), (n.val, 0)] = _ by simp only [packWord_cons, packWord_nil]) (by omega)
  generalize (encode (.shri d a n)).toNat = W at hw
  have h0 : fld W 26 6 = 7 := by unfold fld; omega
  have h1 : fld W 6 2 = 1 := by unfold fld; omega
  have h2 : fld W 0 6 = n.val := by unfold fld; omega
  have h3 : fld W 21 5 = d.val := by unfold fld; omega
  have r3 := reg5_of d h3
  have h4 : fld W 16 5 = a.val := by unfold fld; omega
  have r4 := reg5_of a h4
  have h5 : fld W 8 8 = 0 := by unfold fld; omega
  rw [decode_major07 W h0]
  simp [decodeMajor07, whenZero, h1, h2, r3, r4, h5]
theorem RoundTrip.shai (d : RegNum) (a : RegNum) (n : Fin 64) : RoundTrip.Statement (.shai d a n) := by
  intro _ hwf
  have hw : (encode (.shai d a n)).toNat = d.val * 2 ^ 21 + (a.val * 2 ^ 16 + (n.val * 2 ^ 0 + (469762176))) := encode_val _ _ (show packWord 469762176 [(d.val, 21), (a.val, 16), (n.val, 0)] = _ by simp only [packWord_cons, packWord_nil]) (by omega)
  generalize (encode (.shai d a n)).toNat = W at hw
  have h0 : fld W 26 6 = 7 := by unfold fld; omega
  have h1 : fld W 6 2 = 2 := by unfold fld; omega
  have h2 : fld W 0 6 = n.val := by unfold fld; omega
  have h3 : fld W 21 5 = d.val := by unfold fld; omega
  have r3 := reg5_of d h3
  have h4 : fld W 16 5 = a.val := by unfold fld; omega
  have r4 := reg5_of a h4
  have h5 : fld W 8 8 = 0 := by unfold fld; omega
  rw [decode_major07 W h0]
  simp [decodeMajor07, whenZero, h1, h2, r3, r4, h5]
theorem RoundTrip.lih (d : RegNum) (imm : BitVec 16) : RoundTrip.Statement (.lih d imm) := by
  intro _ hwf
  have hw : (encode (.lih d imm)).toNat = d.val * 2 ^ 21 + (imm.toNat * 2 ^ 0 + (536870912)) := encode_val _ _ (show packWord 536870912 [(d.val, 21), (imm.toNat, 0)] = _ by simp only [packWord_cons, packWord_nil]) (by omega)
  generalize (encode (.lih d imm)).toNat = W at hw
  have h0 : fld W 26 6 = 8 := by unfold fld; omega
  have h1 : fld W 16 5 = 0 := by unfold fld; omega
  have h2 : fld W 0 16 = imm.toNat := by unfold fld; omega
  have h3 : fld W 21 5 = d.val := by unfold fld; omega
  have r3 := reg5_of d h3
  rw [decode_major08 W h0]
  simp [decodeMajor08, h1, h2, r3]
theorem RoundTrip.lihh (d : RegNum) (imm : BitVec 16) : RoundTrip.Statement (.lihh d imm) := by
  intro _ hwf
  have hw : (encode (.lihh d imm)).toNat = d.val * 2 ^ 21 + (imm.toNat * 2 ^ 0 + (536936448)) := encode_val _ _ (show packWord 536936448 [(d.val, 21), (imm.toNat, 0)] = _ by simp only [packWord_cons, packWord_nil]) (by omega)
  generalize (encode (.lihh d imm)).toNat = W at hw
  have h0 : fld W 26 6 = 8 := by unfold fld; omega
  have h1 : fld W 16 5 = 1 := by unfold fld; omega
  have h2 : fld W 0 16 = imm.toNat := by unfold fld; omega
  have h3 : fld W 21 5 = d.val := by unfold fld; omega
  have r3 := reg5_of d h3
  rw [decode_major08 W h0]
  simp [decodeMajor08, h1, h2, r3]
theorem RoundTrip.cgadr (d : RegNum) (a : RegNum) : RoundTrip.Statement (.cgadr d a) := by
  intro _ hwf
  have hw : (encode (.cgadr d a)).toNat = d.val * 2 ^ 21 + (a.val * 2 ^ 16 + (603979776)) := encode_val _ _ (show packWord 603979776 [(d.val, 21), (a.val, 16)] = _ by simp only [packWord_cons, packWord_nil]) (by omega)
  generalize (encode (.cgadr d a)).toNat = W at hw
  have h0 : fld W 26 6 = 9 := by unfold fld; omega
  have h1 : fld W 0 6 = 0 := by unfold fld; omega
  have h2 : fld W 21 5 = d.val := by unfold fld; omega
  have r2 := reg5_of d h2
  have h3 : fld W 16 5 = a.val := by unfold fld; omega
  have r3 := reg5_of a h3
  have h4 : fld W 11 5 = 0 := by unfold fld; omega
  have h5 : fld W 6 5 = 0 := by unfold fld; omega
  rw [decode_major09 W h0]
  simp [decodeMajor09, whenZero, h1, r2, r3, h4, h5]
theorem RoundTrip.csadr (d : RegNum) (a : RegNum) (b : RegNum) : RoundTrip.Statement (.csadr d a b) := by
  intro _ hwf
  have hw : (encode (.csadr d a b)).toNat = d.val * 2 ^ 21 + (a.val * 2 ^ 16 + (b.val * 2 ^ 11 + (603979777))) := encode_val _ _ (show packWord 603979777 [(d.val, 21), (a.val, 16), (b.val, 11)] = _ by simp only [packWord_cons, packWord_nil]) (by omega)
  generalize (encode (.csadr d a b)).toNat = W at hw
  have h0 : fld W 26 6 = 9 := by unfold fld; omega
  have h1 : fld W 0 6 = 1 := by unfold fld; omega
  have h2 : fld W 21 5 = d.val := by unfold fld; omega
  have r2 := reg5_of d h2
  have h3 : fld W 16 5 = a.val := by unfold fld; omega
  have r3 := reg5_of a h3
  have h4 : fld W 11 5 = b.val := by unfold fld; omega
  have r4 := reg5_of b h4
  have h5 : fld W 6 5 = 0 := by unfold fld; omega
  rw [decode_major09 W h0]
  simp [decodeMajor09, whenZero, h1, r2, r3, r4, h5]
theorem RoundTrip.cinc (d : RegNum) (a : RegNum) (b : RegNum) : RoundTrip.Statement (.cinc d a b) := by
  intro _ hwf
  have hw : (encode (.cinc d a b)).toNat = d.val * 2 ^ 21 + (a.val * 2 ^ 16 + (b.val * 2 ^ 11 + (603979778))) := encode_val _ _ (show packWord 603979778 [(d.val, 21), (a.val, 16), (b.val, 11)] = _ by simp only [packWord_cons, packWord_nil]) (by omega)
  generalize (encode (.cinc d a b)).toNat = W at hw
  have h0 : fld W 26 6 = 9 := by unfold fld; omega
  have h1 : fld W 0 6 = 2 := by unfold fld; omega
  have h2 : fld W 21 5 = d.val := by unfold fld; omega
  have r2 := reg5_of d h2
  have h3 : fld W 16 5 = a.val := by unfold fld; omega
  have r3 := reg5_of a h3
  have h4 : fld W 11 5 = b.val := by unfold fld; omega
  have r4 := reg5_of b h4
  have h5 : fld W 6 5 = 0 := by unfold fld; omega
  rw [decode_major09 W h0]
  simp [decodeMajor09, whenZero, h1, r2, r3, r4, h5]
theorem RoundTrip.cbnd (d : RegNum) (a : RegNum) (b : RegNum) : RoundTrip.Statement (.cbnd d a b) := by
  intro _ hwf
  have hw : (encode (.cbnd d a b)).toNat = d.val * 2 ^ 21 + (a.val * 2 ^ 16 + (b.val * 2 ^ 11 + (603979779))) := encode_val _ _ (show packWord 603979779 [(d.val, 21), (a.val, 16), (b.val, 11)] = _ by simp only [packWord_cons, packWord_nil]) (by omega)
  generalize (encode (.cbnd d a b)).toNat = W at hw
  have h0 : fld W 26 6 = 9 := by unfold fld; omega
  have h1 : fld W 0 6 = 3 := by unfold fld; omega
  have h2 : fld W 21 5 = d.val := by unfold fld; omega
  have r2 := reg5_of d h2
  have h3 : fld W 16 5 = a.val := by unfold fld; omega
  have r3 := reg5_of a h3
  have h4 : fld W 11 5 = b.val := by unfold fld; omega
  have r4 := reg5_of b h4
  have h5 : fld W 6 5 = 0 := by unfold fld; omega
  rw [decode_major09 W h0]
  simp [decodeMajor09, whenZero, h1, r2, r3, r4, h5]
theorem RoundTrip.cbndx (d : RegNum) (a : RegNum) (b : RegNum) : RoundTrip.Statement (.cbndx d a b) := by
  intro _ hwf
  have hw : (encode (.cbndx d a b)).toNat = d.val * 2 ^ 21 + (a.val * 2 ^ 16 + (b.val * 2 ^ 11 + (603979780))) := encode_val _ _ (show packWord 603979780 [(d.val, 21), (a.val, 16), (b.val, 11)] = _ by simp only [packWord_cons, packWord_nil]) (by omega)
  generalize (encode (.cbndx d a b)).toNat = W at hw
  have h0 : fld W 26 6 = 9 := by unfold fld; omega
  have h1 : fld W 0 6 = 4 := by unfold fld; omega
  have h2 : fld W 21 5 = d.val := by unfold fld; omega
  have r2 := reg5_of d h2
  have h3 : fld W 16 5 = a.val := by unfold fld; omega
  have r3 := reg5_of a h3
  have h4 : fld W 11 5 = b.val := by unfold fld; omega
  have r4 := reg5_of b h4
  have h5 : fld W 6 5 = 0 := by unfold fld; omega
  rw [decode_major09 W h0]
  simp [decodeMajor09, whenZero, h1, r2, r3, r4, h5]
theorem RoundTrip.candp (d : RegNum) (a : RegNum) (b : RegNum) : RoundTrip.Statement (.candp d a b) := by
  intro _ hwf
  have hw : (encode (.candp d a b)).toNat = d.val * 2 ^ 21 + (a.val * 2 ^ 16 + (b.val * 2 ^ 11 + (603979781))) := encode_val _ _ (show packWord 603979781 [(d.val, 21), (a.val, 16), (b.val, 11)] = _ by simp only [packWord_cons, packWord_nil]) (by omega)
  generalize (encode (.candp d a b)).toNat = W at hw
  have h0 : fld W 26 6 = 9 := by unfold fld; omega
  have h1 : fld W 0 6 = 5 := by unfold fld; omega
  have h2 : fld W 21 5 = d.val := by unfold fld; omega
  have r2 := reg5_of d h2
  have h3 : fld W 16 5 = a.val := by unfold fld; omega
  have r3 := reg5_of a h3
  have h4 : fld W 11 5 = b.val := by unfold fld; omega
  have r4 := reg5_of b h4
  have h5 : fld W 6 5 = 0 := by unfold fld; omega
  rw [decode_major09 W h0]
  simp [decodeMajor09, whenZero, h1, r2, r3, r4, h5]
theorem RoundTrip.cseal (d : RegNum) (a : RegNum) (b : RegNum) : RoundTrip.Statement (.cseal d a b) := by
  intro _ hwf
  have hw : (encode (.cseal d a b)).toNat = d.val * 2 ^ 21 + (a.val * 2 ^ 16 + (b.val * 2 ^ 11 + (603979782))) := encode_val _ _ (show packWord 603979782 [(d.val, 21), (a.val, 16), (b.val, 11)] = _ by simp only [packWord_cons, packWord_nil]) (by omega)
  generalize (encode (.cseal d a b)).toNat = W at hw
  have h0 : fld W 26 6 = 9 := by unfold fld; omega
  have h1 : fld W 0 6 = 6 := by unfold fld; omega
  have h2 : fld W 21 5 = d.val := by unfold fld; omega
  have r2 := reg5_of d h2
  have h3 : fld W 16 5 = a.val := by unfold fld; omega
  have r3 := reg5_of a h3
  have h4 : fld W 11 5 = b.val := by unfold fld; omega
  have r4 := reg5_of b h4
  have h5 : fld W 6 5 = 0 := by unfold fld; omega
  rw [decode_major09 W h0]
  simp [decodeMajor09, whenZero, h1, r2, r3, r4, h5]
theorem RoundTrip.cunsl (d : RegNum) (a : RegNum) (b : RegNum) : RoundTrip.Statement (.cunsl d a b) := by
  intro _ hwf
  have hw : (encode (.cunsl d a b)).toNat = d.val * 2 ^ 21 + (a.val * 2 ^ 16 + (b.val * 2 ^ 11 + (603979783))) := encode_val _ _ (show packWord 603979783 [(d.val, 21), (a.val, 16), (b.val, 11)] = _ by simp only [packWord_cons, packWord_nil]) (by omega)
  generalize (encode (.cunsl d a b)).toNat = W at hw
  have h0 : fld W 26 6 = 9 := by unfold fld; omega
  have h1 : fld W 0 6 = 7 := by unfold fld; omega
  have h2 : fld W 21 5 = d.val := by unfold fld; omega
  have r2 := reg5_of d h2
  have h3 : fld W 16 5 = a.val := by unfold fld; omega
  have r3 := reg5_of a h3
  have h4 : fld W 11 5 = b.val := by unfold fld; omega
  have r4 := reg5_of b h4
  have h5 : fld W 6 5 = 0 := by unfold fld; omega
  rw [decode_major09 W h0]
  simp [decodeMajor09, whenZero, h1, r2, r3, r4, h5]
theorem RoundTrip.cgbas (d : RegNum) (a : RegNum) : RoundTrip.Statement (.cgbas d a) := by
  intro _ hwf
  have hw : (encode (.cgbas d a)).toNat = d.val * 2 ^ 21 + (a.val * 2 ^ 16 + (603979784)) := encode_val _ _ (show packWord 603979784 [(d.val, 21), (a.val, 16)] = _ by simp only [packWord_cons, packWord_nil]) (by omega)
  generalize (encode (.cgbas d a)).toNat = W at hw
  have h0 : fld W 26 6 = 9 := by unfold fld; omega
  have h1 : fld W 0 6 = 8 := by unfold fld; omega
  have h2 : fld W 21 5 = d.val := by unfold fld; omega
  have r2 := reg5_of d h2
  have h3 : fld W 16 5 = a.val := by unfold fld; omega
  have r3 := reg5_of a h3
  have h4 : fld W 11 5 = 0 := by unfold fld; omega
  have h5 : fld W 6 5 = 0 := by unfold fld; omega
  rw [decode_major09 W h0]
  simp [decodeMajor09, whenZero, h1, r2, r3, h4, h5]
theorem RoundTrip.cglen (d : RegNum) (a : RegNum) : RoundTrip.Statement (.cglen d a) := by
  intro _ hwf
  have hw : (encode (.cglen d a)).toNat = d.val * 2 ^ 21 + (a.val * 2 ^ 16 + (603979785)) := encode_val _ _ (show packWord 603979785 [(d.val, 21), (a.val, 16)] = _ by simp only [packWord_cons, packWord_nil]) (by omega)
  generalize (encode (.cglen d a)).toNat = W at hw
  have h0 : fld W 26 6 = 9 := by unfold fld; omega
  have h1 : fld W 0 6 = 9 := by unfold fld; omega
  have h2 : fld W 21 5 = d.val := by unfold fld; omega
  have r2 := reg5_of d h2
  have h3 : fld W 16 5 = a.val := by unfold fld; omega
  have r3 := reg5_of a h3
  have h4 : fld W 11 5 = 0 := by unfold fld; omega
  have h5 : fld W 6 5 = 0 := by unfold fld; omega
  rw [decode_major09 W h0]
  simp [decodeMajor09, whenZero, h1, r2, r3, h4, h5]
theorem RoundTrip.cgprm (d : RegNum) (a : RegNum) : RoundTrip.Statement (.cgprm d a) := by
  intro _ hwf
  have hw : (encode (.cgprm d a)).toNat = d.val * 2 ^ 21 + (a.val * 2 ^ 16 + (603979786)) := encode_val _ _ (show packWord 603979786 [(d.val, 21), (a.val, 16)] = _ by simp only [packWord_cons, packWord_nil]) (by omega)
  generalize (encode (.cgprm d a)).toNat = W at hw
  have h0 : fld W 26 6 = 9 := by unfold fld; omega
  have h1 : fld W 0 6 = 10 := by unfold fld; omega
  have h2 : fld W 21 5 = d.val := by unfold fld; omega
  have r2 := reg5_of d h2
  have h3 : fld W 16 5 = a.val := by unfold fld; omega
  have r3 := reg5_of a h3
  have h4 : fld W 11 5 = 0 := by unfold fld; omega
  have h5 : fld W 6 5 = 0 := by unfold fld; omega
  rw [decode_major09 W h0]
  simp [decodeMajor09, whenZero, h1, r2, r3, h4, h5]
theorem RoundTrip.cgtyp (d : RegNum) (a : RegNum) : RoundTrip.Statement (.cgtyp d a) := by
  intro _ hwf
  have hw : (encode (.cgtyp d a)).toNat = d.val * 2 ^ 21 + (a.val * 2 ^ 16 + (603979787)) := encode_val _ _ (show packWord 603979787 [(d.val, 21), (a.val, 16)] = _ by simp only [packWord_cons, packWord_nil]) (by omega)
  generalize (encode (.cgtyp d a)).toNat = W at hw
  have h0 : fld W 26 6 = 9 := by unfold fld; omega
  have h1 : fld W 0 6 = 11 := by unfold fld; omega
  have h2 : fld W 21 5 = d.val := by unfold fld; omega
  have r2 := reg5_of d h2
  have h3 : fld W 16 5 = a.val := by unfold fld; omega
  have r3 := reg5_of a h3
  have h4 : fld W 11 5 = 0 := by unfold fld; omega
  have h5 : fld W 6 5 = 0 := by unfold fld; omega
  rw [decode_major09 W h0]
  simp [decodeMajor09, whenZero, h1, r2, r3, h4, h5]
theorem RoundTrip.cgtag (d : RegNum) (a : RegNum) : RoundTrip.Statement (.cgtag d a) := by
  intro _ hwf
  have hw : (encode (.cgtag d a)).toNat = d.val * 2 ^ 21 + (a.val * 2 ^ 16 + (603979788)) := encode_val _ _ (show packWord 603979788 [(d.val, 21), (a.val, 16)] = _ by simp only [packWord_cons, packWord_nil]) (by omega)
  generalize (encode (.cgtag d a)).toNat = W at hw
  have h0 : fld W 26 6 = 9 := by unfold fld; omega
  have h1 : fld W 0 6 = 12 := by unfold fld; omega
  have h2 : fld W 21 5 = d.val := by unfold fld; omega
  have r2 := reg5_of d h2
  have h3 : fld W 16 5 = a.val := by unfold fld; omega
  have r3 := reg5_of a h3
  have h4 : fld W 11 5 = 0 := by unfold fld; omega
  have h5 : fld W 6 5 = 0 := by unfold fld; omega
  rw [decode_major09 W h0]
  simp [decodeMajor09, whenZero, h1, r2, r3, h4, h5]
theorem RoundTrip.cclrt (d : RegNum) (a : RegNum) : RoundTrip.Statement (.cclrt d a) := by
  intro _ hwf
  have hw : (encode (.cclrt d a)).toNat = d.val * 2 ^ 21 + (a.val * 2 ^ 16 + (603979789)) := encode_val _ _ (show packWord 603979789 [(d.val, 21), (a.val, 16)] = _ by simp only [packWord_cons, packWord_nil]) (by omega)
  generalize (encode (.cclrt d a)).toNat = W at hw
  have h0 : fld W 26 6 = 9 := by unfold fld; omega
  have h1 : fld W 0 6 = 13 := by unfold fld; omega
  have h2 : fld W 21 5 = d.val := by unfold fld; omega
  have r2 := reg5_of d h2
  have h3 : fld W 16 5 = a.val := by unfold fld; omega
  have r3 := reg5_of a h3
  have h4 : fld W 11 5 = 0 := by unfold fld; omega
  have h5 : fld W 6 5 = 0 := by unfold fld; omega
  rw [decode_major09 W h0]
  simp [decodeMajor09, whenZero, h1, r2, r3, h4, h5]
theorem RoundTrip.cmov (d : RegNum) (a : RegNum) : RoundTrip.Statement (.cmov d a) := by
  intro _ hwf
  have hw : (encode (.cmov d a)).toNat = d.val * 2 ^ 21 + (a.val * 2 ^ 16 + (603979790)) := encode_val _ _ (show packWord 603979790 [(d.val, 21), (a.val, 16)] = _ by simp only [packWord_cons, packWord_nil]) (by omega)
  generalize (encode (.cmov d a)).toNat = W at hw
  have h0 : fld W 26 6 = 9 := by unfold fld; omega
  have h1 : fld W 0 6 = 14 := by unfold fld; omega
  have h2 : fld W 21 5 = d.val := by unfold fld; omega
  have r2 := reg5_of d h2
  have h3 : fld W 16 5 = a.val := by unfold fld; omega
  have r3 := reg5_of a h3
  have h4 : fld W 11 5 = 0 := by unfold fld; omega
  have h5 : fld W 6 5 = 0 := by unfold fld; omega
  rw [decode_major09 W h0]
  simp [decodeMajor09, whenZero, h1, r2, r3, h4, h5]
theorem RoundTrip.csub (d : RegNum) (a : RegNum) (b : RegNum) : RoundTrip.Statement (.csub d a b) := by
  intro _ hwf
  have hw : (encode (.csub d a b)).toNat = d.val * 2 ^ 21 + (a.val * 2 ^ 16 + (b.val * 2 ^ 11 + (603979791))) := encode_val _ _ (show packWord 603979791 [(d.val, 21), (a.val, 16), (b.val, 11)] = _ by simp only [packWord_cons, packWord_nil]) (by omega)
  generalize (encode (.csub d a b)).toNat = W at hw
  have h0 : fld W 26 6 = 9 := by unfold fld; omega
  have h1 : fld W 0 6 = 15 := by unfold fld; omega
  have h2 : fld W 21 5 = d.val := by unfold fld; omega
  have r2 := reg5_of d h2
  have h3 : fld W 16 5 = a.val := by unfold fld; omega
  have r3 := reg5_of a h3
  have h4 : fld W 11 5 = b.val := by unfold fld; omega
  have r4 := reg5_of b h4
  have h5 : fld W 6 5 = 0 := by unfold fld; omega
  rw [decode_major09 W h0]
  simp [decodeMajor09, whenZero, h1, r2, r3, r4, h5]
theorem RoundTrip.ctsub (d : RegNum) (a : RegNum) (b : RegNum) : RoundTrip.Statement (.ctsub d a b) := by
  intro _ hwf
  have hw : (encode (.ctsub d a b)).toNat = d.val * 2 ^ 21 + (a.val * 2 ^ 16 + (b.val * 2 ^ 11 + (603979792))) := encode_val _ _ (show packWord 603979792 [(d.val, 21), (a.val, 16), (b.val, 11)] = _ by simp only [packWord_cons, packWord_nil]) (by omega)
  generalize (encode (.ctsub d a b)).toNat = W at hw
  have h0 : fld W 26 6 = 9 := by unfold fld; omega
  have h1 : fld W 0 6 = 16 := by unfold fld; omega
  have h2 : fld W 21 5 = d.val := by unfold fld; omega
  have r2 := reg5_of d h2
  have h3 : fld W 16 5 = a.val := by unfold fld; omega
  have r3 := reg5_of a h3
  have h4 : fld W 11 5 = b.val := by unfold fld; omega
  have r4 := reg5_of b h4
  have h5 : fld W 6 5 = 0 := by unfold fld; omega
  rw [decode_major09 W h0]
  simp [decodeMajor09, whenZero, h1, r2, r3, r4, h5]
theorem RoundTrip.cjr (a : RegNum) : RoundTrip.Statement (.cjr a) := by
  intro _ hwf
  have hw : (encode (.cjr a)).toNat = a.val * 2 ^ 16 + (603979793) := encode_val _ _ (show packWord 603979793 [(a.val, 16)] = _ by simp only [packWord_cons, packWord_nil]) (by omega)
  generalize (encode (.cjr a)).toNat = W at hw
  have h0 : fld W 26 6 = 9 := by unfold fld; omega
  have h1 : fld W 0 6 = 17 := by unfold fld; omega
  have h2 : fld W 16 5 = a.val := by unfold fld; omega
  have r2 := reg5_of a h2
  have h3 : fld W 21 5 = 0 := by unfold fld; omega
  have h4 : fld W 11 5 = 0 := by unfold fld; omega
  have h5 : fld W 6 5 = 0 := by unfold fld; omega
  rw [decode_major09 W h0]
  simp [decodeMajor09, whenZero, h1, r2, h3, h4, h5]
theorem RoundTrip.cjlr (d : RegNum) (a : RegNum) : RoundTrip.Statement (.cjlr d a) := by
  intro _ hwf
  have hw : (encode (.cjlr d a)).toNat = d.val * 2 ^ 21 + (a.val * 2 ^ 16 + (603979794)) := encode_val _ _ (show packWord 603979794 [(d.val, 21), (a.val, 16)] = _ by simp only [packWord_cons, packWord_nil]) (by omega)
  generalize (encode (.cjlr d a)).toNat = W at hw
  have h0 : fld W 26 6 = 9 := by unfold fld; omega
  have h1 : fld W 0 6 = 18 := by unfold fld; omega
  have h2 : fld W 21 5 = d.val := by unfold fld; omega
  have r2 := reg5_of d h2
  have h3 : fld W 16 5 = a.val := by unfold fld; omega
  have r3 := reg5_of a h3
  have h4 : fld W 11 5 = 0 := by unfold fld; omega
  have h5 : fld W 6 5 = 0 := by unfold fld; omega
  rw [decode_major09 W h0]
  simp [decodeMajor09, whenZero, h1, r2, r3, h4, h5]
theorem RoundTrip.csent (d : RegNum) (a : RegNum) : RoundTrip.Statement (.csent d a) := by
  intro _ hwf
  have hw : (encode (.csent d a)).toNat = d.val * 2 ^ 21 + (a.val * 2 ^ 16 + (603979795)) := encode_val _ _ (show packWord 603979795 [(d.val, 21), (a.val, 16)] = _ by simp only [packWord_cons, packWord_nil]) (by omega)
  generalize (encode (.csent d a)).toNat = W at hw
  have h0 : fld W 26 6 = 9 := by unfold fld; omega
  have h1 : fld W 0 6 = 19 := by unfold fld; omega
  have h2 : fld W 21 5 = d.val := by unfold fld; omega
  have r2 := reg5_of d h2
  have h3 : fld W 16 5 = a.val := by unfold fld; omega
  have r3 := reg5_of a h3
  have h4 : fld W 11 5 = 0 := by unfold fld; omega
  have h5 : fld W 6 5 = 0 := by unfold fld; omega
  rw [decode_major09 W h0]
  simp [decodeMajor09, whenZero, h1, r2, r3, h4, h5]
theorem RoundTrip.cinci (d : RegNum) (a : RegNum) (imm : BitVec 16) : RoundTrip.Statement (.cinci d a imm) := by
  intro _ hwf
  have hw : (encode (.cinci d a imm)).toNat = d.val * 2 ^ 21 + (a.val * 2 ^ 16 + (imm.toNat * 2 ^ 0 + (671088640))) := encode_val _ _ (show packWord 671088640 [(d.val, 21), (a.val, 16), (imm.toNat, 0)] = _ by simp only [packWord_cons, packWord_nil]) (by omega)
  generalize (encode (.cinci d a imm)).toNat = W at hw
  have h0 : fld W 26 6 = 10 := by unfold fld; omega
  have h1 : fld W 0 16 = imm.toNat := by unfold fld; omega
  have h2 : fld W 21 5 = d.val := by unfold fld; omega
  have r2 := reg5_of d h2
  have h3 : fld W 16 5 = a.val := by unfold fld; omega
  have r3 := reg5_of a h3
  rw [decode_major0A W h0]
  simp [decodeMajor0A, h1, r2, r3]
theorem RoundTrip.beq (a : RegNum) (b : RegNum) (disp : BitVec 12) : RoundTrip.Statement (.beq a b disp) := by
  intro _ hwf
  have hw : (encode (.beq a b disp)).toNat = a.val * 2 ^ 21 + (b.val * 2 ^ 16 + (disp.toNat * 2 ^ 0 + (738197504))) := encode_val _ _ (show packWord 738197504 [(a.val, 21), (b.val, 16), (disp.toNat, 0)] = _ by simp only [packWord_cons, packWord_nil]) (by omega)
  generalize (encode (.beq a b disp)).toNat = W at hw
  have h0 : fld W 26 6 = 11 := by unfold fld; omega
  have h1 : fld W 12 4 = 0 := by unfold fld; omega
  have h2 : fld W 0 12 = disp.toNat := by unfold fld; omega
  have h3 : fld W 21 5 = a.val := by unfold fld; omega
  have r3 := reg5_of a h3
  have h4 : fld W 16 5 = b.val := by unfold fld; omega
  have r4 := reg5_of b h4
  rw [decode_major0B W h0]
  simp [decodeMajor0B, h1, h2, r3, r4]
theorem RoundTrip.bne (a : RegNum) (b : RegNum) (disp : BitVec 12) : RoundTrip.Statement (.bne a b disp) := by
  intro _ hwf
  have hw : (encode (.bne a b disp)).toNat = a.val * 2 ^ 21 + (b.val * 2 ^ 16 + (disp.toNat * 2 ^ 0 + (738201600))) := encode_val _ _ (show packWord 738201600 [(a.val, 21), (b.val, 16), (disp.toNat, 0)] = _ by simp only [packWord_cons, packWord_nil]) (by omega)
  generalize (encode (.bne a b disp)).toNat = W at hw
  have h0 : fld W 26 6 = 11 := by unfold fld; omega
  have h1 : fld W 12 4 = 1 := by unfold fld; omega
  have h2 : fld W 0 12 = disp.toNat := by unfold fld; omega
  have h3 : fld W 21 5 = a.val := by unfold fld; omega
  have r3 := reg5_of a h3
  have h4 : fld W 16 5 = b.val := by unfold fld; omega
  have r4 := reg5_of b h4
  rw [decode_major0B W h0]
  simp [decodeMajor0B, h1, h2, r3, r4]
theorem RoundTrip.blt (a : RegNum) (b : RegNum) (disp : BitVec 12) : RoundTrip.Statement (.blt a b disp) := by
  intro _ hwf
  have hw : (encode (.blt a b disp)).toNat = a.val * 2 ^ 21 + (b.val * 2 ^ 16 + (disp.toNat * 2 ^ 0 + (738205696))) := encode_val _ _ (show packWord 738205696 [(a.val, 21), (b.val, 16), (disp.toNat, 0)] = _ by simp only [packWord_cons, packWord_nil]) (by omega)
  generalize (encode (.blt a b disp)).toNat = W at hw
  have h0 : fld W 26 6 = 11 := by unfold fld; omega
  have h1 : fld W 12 4 = 2 := by unfold fld; omega
  have h2 : fld W 0 12 = disp.toNat := by unfold fld; omega
  have h3 : fld W 21 5 = a.val := by unfold fld; omega
  have r3 := reg5_of a h3
  have h4 : fld W 16 5 = b.val := by unfold fld; omega
  have r4 := reg5_of b h4
  rw [decode_major0B W h0]
  simp [decodeMajor0B, h1, h2, r3, r4]
theorem RoundTrip.bge (a : RegNum) (b : RegNum) (disp : BitVec 12) : RoundTrip.Statement (.bge a b disp) := by
  intro _ hwf
  have hw : (encode (.bge a b disp)).toNat = a.val * 2 ^ 21 + (b.val * 2 ^ 16 + (disp.toNat * 2 ^ 0 + (738209792))) := encode_val _ _ (show packWord 738209792 [(a.val, 21), (b.val, 16), (disp.toNat, 0)] = _ by simp only [packWord_cons, packWord_nil]) (by omega)
  generalize (encode (.bge a b disp)).toNat = W at hw
  have h0 : fld W 26 6 = 11 := by unfold fld; omega
  have h1 : fld W 12 4 = 3 := by unfold fld; omega
  have h2 : fld W 0 12 = disp.toNat := by unfold fld; omega
  have h3 : fld W 21 5 = a.val := by unfold fld; omega
  have r3 := reg5_of a h3
  have h4 : fld W 16 5 = b.val := by unfold fld; omega
  have r4 := reg5_of b h4
  rw [decode_major0B W h0]
  simp [decodeMajor0B, h1, h2, r3, r4]
theorem RoundTrip.bltn (a : RegNum) (b : RegNum) (disp : BitVec 12) : RoundTrip.Statement (.bltn a b disp) := by
  intro _ hwf
  have hw : (encode (.bltn a b disp)).toNat = a.val * 2 ^ 21 + (b.val * 2 ^ 16 + (disp.toNat * 2 ^ 0 + (738213888))) := encode_val _ _ (show packWord 738213888 [(a.val, 21), (b.val, 16), (disp.toNat, 0)] = _ by simp only [packWord_cons, packWord_nil]) (by omega)
  generalize (encode (.bltn a b disp)).toNat = W at hw
  have h0 : fld W 26 6 = 11 := by unfold fld; omega
  have h1 : fld W 12 4 = 4 := by unfold fld; omega
  have h2 : fld W 0 12 = disp.toNat := by unfold fld; omega
  have h3 : fld W 21 5 = a.val := by unfold fld; omega
  have r3 := reg5_of a h3
  have h4 : fld W 16 5 = b.val := by unfold fld; omega
  have r4 := reg5_of b h4
  rw [decode_major0B W h0]
  simp [decodeMajor0B, h1, h2, r3, r4]
theorem RoundTrip.bgen (a : RegNum) (b : RegNum) (disp : BitVec 12) : RoundTrip.Statement (.bgen a b disp) := by
  intro _ hwf
  have hw : (encode (.bgen a b disp)).toNat = a.val * 2 ^ 21 + (b.val * 2 ^ 16 + (disp.toNat * 2 ^ 0 + (738217984))) := encode_val _ _ (show packWord 738217984 [(a.val, 21), (b.val, 16), (disp.toNat, 0)] = _ by simp only [packWord_cons, packWord_nil]) (by omega)
  generalize (encode (.bgen a b disp)).toNat = W at hw
  have h0 : fld W 26 6 = 11 := by unfold fld; omega
  have h1 : fld W 12 4 = 5 := by unfold fld; omega
  have h2 : fld W 0 12 = disp.toNat := by unfold fld; omega
  have h3 : fld W 21 5 = a.val := by unfold fld; omega
  have r3 := reg5_of a h3
  have h4 : fld W 16 5 = b.val := by unfold fld; omega
  have r4 := reg5_of b h4
  rw [decode_major0B W h0]
  simp [decodeMajor0B, h1, h2, r3, r4]
theorem RoundTrip.bez (a : RegNum) (disp : BitVec 18) : RoundTrip.Statement (.bez a disp) := by
  intro _ hwf
  have hw : (encode (.bez a disp)).toNat = a.val * 2 ^ 21 + (disp.toNat * 2 ^ 0 + (805306368)) := encode_val _ _ (show packWord 805306368 [(a.val, 21), (disp.toNat, 0)] = _ by simp only [packWord_cons, packWord_nil]) (by omega)
  generalize (encode (.bez a disp)).toNat = W at hw
  have h0 : fld W 26 6 = 12 := by unfold fld; omega
  have h1 : fld W 18 3 = 0 := by unfold fld; omega
  have h2 : fld W 0 18 = disp.toNat := by unfold fld; omega
  have h3 : fld W 21 5 = a.val := by unfold fld; omega
  have r3 := reg5_of a h3
  rw [decode_major0C W h0]
  simp [decodeMajor0C, h1, h2, r3]
theorem RoundTrip.bnz (a : RegNum) (disp : BitVec 18) : RoundTrip.Statement (.bnz a disp) := by
  intro _ hwf
  have hw : (encode (.bnz a disp)).toNat = a.val * 2 ^ 21 + (disp.toNat * 2 ^ 0 + (805568512)) := encode_val _ _ (show packWord 805568512 [(a.val, 21), (disp.toNat, 0)] = _ by simp only [packWord_cons, packWord_nil]) (by omega)
  generalize (encode (.bnz a disp)).toNat = W at hw
  have h0 : fld W 26 6 = 12 := by unfold fld; omega
  have h1 : fld W 18 3 = 1 := by unfold fld; omega
  have h2 : fld W 0 18 = disp.toNat := by unfold fld; omega
  have h3 : fld W 21 5 = a.val := by unfold fld; omega
  have r3 := reg5_of a h3
  rw [decode_major0C W h0]
  simp [decodeMajor0C, h1, h2, r3]
theorem RoundTrip.blz (a : RegNum) (disp : BitVec 18) : RoundTrip.Statement (.blz a disp) := by
  intro _ hwf
  have hw : (encode (.blz a disp)).toNat = a.val * 2 ^ 21 + (disp.toNat * 2 ^ 0 + (805830656)) := encode_val _ _ (show packWord 805830656 [(a.val, 21), (disp.toNat, 0)] = _ by simp only [packWord_cons, packWord_nil]) (by omega)
  generalize (encode (.blz a disp)).toNat = W at hw
  have h0 : fld W 26 6 = 12 := by unfold fld; omega
  have h1 : fld W 18 3 = 2 := by unfold fld; omega
  have h2 : fld W 0 18 = disp.toNat := by unfold fld; omega
  have h3 : fld W 21 5 = a.val := by unfold fld; omega
  have r3 := reg5_of a h3
  rw [decode_major0C W h0]
  simp [decodeMajor0C, h1, h2, r3]
theorem RoundTrip.bgz (a : RegNum) (disp : BitVec 18) : RoundTrip.Statement (.bgz a disp) := by
  intro _ hwf
  have hw : (encode (.bgz a disp)).toNat = a.val * 2 ^ 21 + (disp.toNat * 2 ^ 0 + (806092800)) := encode_val _ _ (show packWord 806092800 [(a.val, 21), (disp.toNat, 0)] = _ by simp only [packWord_cons, packWord_nil]) (by omega)
  generalize (encode (.bgz a disp)).toNat = W at hw
  have h0 : fld W 26 6 = 12 := by unfold fld; omega
  have h1 : fld W 18 3 = 3 := by unfold fld; omega
  have h2 : fld W 0 18 = disp.toNat := by unfold fld; omega
  have h3 : fld W 21 5 = a.val := by unfold fld; omega
  have r3 := reg5_of a h3
  rw [decode_major0C W h0]
  simp [decodeMajor0C, h1, h2, r3]
theorem RoundTrip.blez (a : RegNum) (disp : BitVec 18) : RoundTrip.Statement (.blez a disp) := by
  intro _ hwf
  have hw : (encode (.blez a disp)).toNat = a.val * 2 ^ 21 + (disp.toNat * 2 ^ 0 + (806354944)) := encode_val _ _ (show packWord 806354944 [(a.val, 21), (disp.toNat, 0)] = _ by simp only [packWord_cons, packWord_nil]) (by omega)
  generalize (encode (.blez a disp)).toNat = W at hw
  have h0 : fld W 26 6 = 12 := by unfold fld; omega
  have h1 : fld W 18 3 = 4 := by unfold fld; omega
  have h2 : fld W 0 18 = disp.toNat := by unfold fld; omega
  have h3 : fld W 21 5 = a.val := by unfold fld; omega
  have r3 := reg5_of a h3
  rw [decode_major0C W h0]
  simp [decodeMajor0C, h1, h2, r3]
theorem RoundTrip.bgez (a : RegNum) (disp : BitVec 18) : RoundTrip.Statement (.bgez a disp) := by
  intro _ hwf
  have hw : (encode (.bgez a disp)).toNat = a.val * 2 ^ 21 + (disp.toNat * 2 ^ 0 + (806617088)) := encode_val _ _ (show packWord 806617088 [(a.val, 21), (disp.toNat, 0)] = _ by simp only [packWord_cons, packWord_nil]) (by omega)
  generalize (encode (.bgez a disp)).toNat = W at hw
  have h0 : fld W 26 6 = 12 := by unfold fld; omega
  have h1 : fld W 18 3 = 5 := by unfold fld; omega
  have h2 : fld W 0 18 = disp.toNat := by unfold fld; omega
  have h3 : fld W 21 5 = a.val := by unfold fld; omega
  have r3 := reg5_of a h3
  rw [decode_major0C W h0]
  simp [decodeMajor0C, h1, h2, r3]
theorem RoundTrip.j (disp : BitVec 26) : RoundTrip.Statement (.j disp) := by
  intro _ hwf
  have hw : (encode (.j disp)).toNat = disp.toNat * 2 ^ 0 + (872415232) := encode_val _ _ (show packWord 872415232 [(disp.toNat, 0)] = _ by simp only [packWord_cons, packWord_nil]) (by omega)
  generalize (encode (.j disp)).toNat = W at hw
  have h0 : fld W 26 6 = 13 := by unfold fld; omega
  have h1 : fld W 0 26 = disp.toNat := by unfold fld; omega
  rw [decode_major0D W h0]
  simp [decodeMajor0D, h1]
theorem RoundTrip.jl (disp : BitVec 26) : RoundTrip.Statement (.jl disp) := by
  intro _ hwf
  have hw : (encode (.jl disp)).toNat = disp.toNat * 2 ^ 0 + (939524096) := encode_val _ _ (show packWord 939524096 [(disp.toNat, 0)] = _ by simp only [packWord_cons, packWord_nil]) (by omega)
  generalize (encode (.jl disp)).toNat = W at hw
  have h0 : fld W 26 6 = 14 := by unfold fld; omega
  have h1 : fld W 0 26 = disp.toNat := by unfold fld; omega
  rw [decode_major0E W h0]
  simp [decodeMajor0E, h1]
theorem RoundTrip.jr (a : RegNum) : RoundTrip.Statement (.jr a) := by
  intro _ hwf
  have hw : (encode (.jr a)).toNat = a.val * 2 ^ 16 + (1006632960) := encode_val _ _ (show packWord 1006632960 [(a.val, 16)] = _ by simp only [packWord_cons, packWord_nil]) (by omega)
  generalize (encode (.jr a)).toNat = W at hw
  have h0 : fld W 26 6 = 15 := by unfold fld; omega
  have h1 : fld W 0 1 = 0 := by unfold fld; omega
  have h2 : fld W 16 5 = a.val := by unfold fld; omega
  have r2 := reg5_of a h2
  have h3 : fld W 21 5 = 0 := by unfold fld; omega
  have h4 : fld W 11 5 = 0 := by unfold fld; omega
  have h5 : fld W 1 10 = 0 := by unfold fld; omega
  rw [decode_major0F W h0]
  simp [decodeMajor0F, whenZero, h1, r2, h3, h4, h5]
theorem RoundTrip.jlr (d : RegNum) (a : RegNum) : RoundTrip.Statement (.jlr d a) := by
  intro _ hwf
  have hw : (encode (.jlr d a)).toNat = d.val * 2 ^ 21 + (a.val * 2 ^ 16 + (1006632961)) := encode_val _ _ (show packWord 1006632961 [(d.val, 21), (a.val, 16)] = _ by simp only [packWord_cons, packWord_nil]) (by omega)
  generalize (encode (.jlr d a)).toNat = W at hw
  have h0 : fld W 26 6 = 15 := by unfold fld; omega
  have h1 : fld W 0 1 = 1 := by unfold fld; omega
  have h2 : fld W 21 5 = d.val := by unfold fld; omega
  have r2 := reg5_of d h2
  have h3 : fld W 16 5 = a.val := by unfold fld; omega
  have r3 := reg5_of a h3
  have h4 : fld W 11 5 = 0 := by unfold fld; omega
  have h5 : fld W 1 10 = 0 := by unfold fld; omega
  rw [decode_major0F W h0]
  simp [decodeMajor0F, whenZero, h1, r2, r3, h4, h5]
theorem RoundTrip.ldS8 (d : RegNum) (base : RegNum) (off : BitVec 11) (rx : Bool) : RoundTrip.Statement (.ldS8 d base off rx) := by
  intro _ hwf
  have b_rx := boolLt rx
  have hw : (encode (.ldS8 d base off rx)).toNat = d.val * 2 ^ 21 + (base.val * 2 ^ 16 + (off.toNat * 2 ^ 0 + (rx.toNat * 2 ^ 11 + (1073741824)))) := encode_val _ _ (show packWord 1073741824 [(d.val, 21), (base.val, 16), (off.toNat, 0), (rx.toNat, 11)] = _ by simp only [packWord_cons, packWord_nil]) (by omega)
  generalize (encode (.ldS8 d base off rx)).toNat = W at hw
  have h0 : fld W 26 6 = 16 := by unfold fld; omega
  have h1 : fld W 13 3 = 0 := by unfold fld; omega
  have h2 : fld W 0 11 = off.toNat := by unfold fld; omega
  have h3 : fld W 11 1 = rx.toNat := by unfold fld; omega
  have h4 : fld W 21 5 = d.val := by unfold fld; omega
  have r4 := reg5_of d h4
  have h5 : fld W 16 5 = base.val := by unfold fld; omega
  have r5 := reg5_of base h5
  have h6 : fld W 12 1 = 0 := by unfold fld; omega
  rw [decode_major10 W h0]
  simp [decodeMajor10, whenZero, h1, h2, h3, r4, r5, h6]
theorem RoundTrip.ldS16 (d : RegNum) (base : RegNum) (off : BitVec 11) (rx : Bool) : RoundTrip.Statement (.ldS16 d base off rx) := by
  intro _ hwf
  have b_rx := boolLt rx
  have hw : (encode (.ldS16 d base off rx)).toNat = d.val * 2 ^ 21 + (base.val * 2 ^ 16 + (off.toNat * 2 ^ 0 + (rx.toNat * 2 ^ 11 + (1073750016)))) := encode_val _ _ (show packWord 1073750016 [(d.val, 21), (base.val, 16), (off.toNat, 0), (rx.toNat, 11)] = _ by simp only [packWord_cons, packWord_nil]) (by omega)
  generalize (encode (.ldS16 d base off rx)).toNat = W at hw
  have h0 : fld W 26 6 = 16 := by unfold fld; omega
  have h1 : fld W 13 3 = 1 := by unfold fld; omega
  have h2 : fld W 0 11 = off.toNat := by unfold fld; omega
  have h3 : fld W 11 1 = rx.toNat := by unfold fld; omega
  have h4 : fld W 21 5 = d.val := by unfold fld; omega
  have r4 := reg5_of d h4
  have h5 : fld W 16 5 = base.val := by unfold fld; omega
  have r5 := reg5_of base h5
  have h6 : fld W 12 1 = 0 := by unfold fld; omega
  rw [decode_major10 W h0]
  simp [decodeMajor10, whenZero, h1, h2, h3, r4, r5, h6]
theorem RoundTrip.ldS32 (d : RegNum) (base : RegNum) (off : BitVec 11) (rx : Bool) : RoundTrip.Statement (.ldS32 d base off rx) := by
  intro _ hwf
  have b_rx := boolLt rx
  have hw : (encode (.ldS32 d base off rx)).toNat = d.val * 2 ^ 21 + (base.val * 2 ^ 16 + (off.toNat * 2 ^ 0 + (rx.toNat * 2 ^ 11 + (1073758208)))) := encode_val _ _ (show packWord 1073758208 [(d.val, 21), (base.val, 16), (off.toNat, 0), (rx.toNat, 11)] = _ by simp only [packWord_cons, packWord_nil]) (by omega)
  generalize (encode (.ldS32 d base off rx)).toNat = W at hw
  have h0 : fld W 26 6 = 16 := by unfold fld; omega
  have h1 : fld W 13 3 = 2 := by unfold fld; omega
  have h2 : fld W 0 11 = off.toNat := by unfold fld; omega
  have h3 : fld W 11 1 = rx.toNat := by unfold fld; omega
  have h4 : fld W 21 5 = d.val := by unfold fld; omega
  have r4 := reg5_of d h4
  have h5 : fld W 16 5 = base.val := by unfold fld; omega
  have r5 := reg5_of base h5
  have h6 : fld W 12 1 = 0 := by unfold fld; omega
  rw [decode_major10 W h0]
  simp [decodeMajor10, whenZero, h1, h2, h3, r4, r5, h6]
theorem RoundTrip.ldS64 (d : RegNum) (base : RegNum) (off : BitVec 11) (rx : Bool) : RoundTrip.Statement (.ldS64 d base off rx) := by
  intro _ hwf
  have b_rx := boolLt rx
  have hw : (encode (.ldS64 d base off rx)).toNat = d.val * 2 ^ 21 + (base.val * 2 ^ 16 + (off.toNat * 2 ^ 0 + (rx.toNat * 2 ^ 11 + (1073766400)))) := encode_val _ _ (show packWord 1073766400 [(d.val, 21), (base.val, 16), (off.toNat, 0), (rx.toNat, 11)] = _ by simp only [packWord_cons, packWord_nil]) (by omega)
  generalize (encode (.ldS64 d base off rx)).toNat = W at hw
  have h0 : fld W 26 6 = 16 := by unfold fld; omega
  have h1 : fld W 13 3 = 3 := by unfold fld; omega
  have h2 : fld W 0 11 = off.toNat := by unfold fld; omega
  have h3 : fld W 11 1 = rx.toNat := by unfold fld; omega
  have h4 : fld W 21 5 = d.val := by unfold fld; omega
  have r4 := reg5_of d h4
  have h5 : fld W 16 5 = base.val := by unfold fld; omega
  have r5 := reg5_of base h5
  have h6 : fld W 12 1 = 0 := by unfold fld; omega
  rw [decode_major10 W h0]
  simp [decodeMajor10, whenZero, h1, h2, h3, r4, r5, h6]
theorem RoundTrip.ldN8 (d : RegNum) (base : RegNum) (off : BitVec 11) (rx : Bool) : RoundTrip.Statement (.ldN8 d base off rx) := by
  intro _ hwf
  have b_rx := boolLt rx
  have hw : (encode (.ldN8 d base off rx)).toNat = d.val * 2 ^ 21 + (base.val * 2 ^ 16 + (off.toNat * 2 ^ 0 + (rx.toNat * 2 ^ 11 + (1073774592)))) := encode_val _ _ (show packWord 1073774592 [(d.val, 21), (base.val, 16), (off.toNat, 0), (rx.toNat, 11)] = _ by simp only [packWord_cons, packWord_nil]) (by omega)
  generalize (encode (.ldN8 d base off rx)).toNat = W at hw
  have h0 : fld W 26 6 = 16 := by unfold fld; omega
  have h1 : fld W 13 3 = 4 := by unfold fld; omega
  have h2 : fld W 0 11 = off.toNat := by unfold fld; omega
  have h3 : fld W 11 1 = rx.toNat := by unfold fld; omega
  have h4 : fld W 21 5 = d.val := by unfold fld; omega
  have r4 := reg5_of d h4
  have h5 : fld W 16 5 = base.val := by unfold fld; omega
  have r5 := reg5_of base h5
  have h6 : fld W 12 1 = 0 := by unfold fld; omega
  rw [decode_major10 W h0]
  simp [decodeMajor10, whenZero, h1, h2, h3, r4, r5, h6]
theorem RoundTrip.ldN16 (d : RegNum) (base : RegNum) (off : BitVec 11) (rx : Bool) : RoundTrip.Statement (.ldN16 d base off rx) := by
  intro _ hwf
  have b_rx := boolLt rx
  have hw : (encode (.ldN16 d base off rx)).toNat = d.val * 2 ^ 21 + (base.val * 2 ^ 16 + (off.toNat * 2 ^ 0 + (rx.toNat * 2 ^ 11 + (1073782784)))) := encode_val _ _ (show packWord 1073782784 [(d.val, 21), (base.val, 16), (off.toNat, 0), (rx.toNat, 11)] = _ by simp only [packWord_cons, packWord_nil]) (by omega)
  generalize (encode (.ldN16 d base off rx)).toNat = W at hw
  have h0 : fld W 26 6 = 16 := by unfold fld; omega
  have h1 : fld W 13 3 = 5 := by unfold fld; omega
  have h2 : fld W 0 11 = off.toNat := by unfold fld; omega
  have h3 : fld W 11 1 = rx.toNat := by unfold fld; omega
  have h4 : fld W 21 5 = d.val := by unfold fld; omega
  have r4 := reg5_of d h4
  have h5 : fld W 16 5 = base.val := by unfold fld; omega
  have r5 := reg5_of base h5
  have h6 : fld W 12 1 = 0 := by unfold fld; omega
  rw [decode_major10 W h0]
  simp [decodeMajor10, whenZero, h1, h2, h3, r4, r5, h6]
theorem RoundTrip.ldN32 (d : RegNum) (base : RegNum) (off : BitVec 11) (rx : Bool) : RoundTrip.Statement (.ldN32 d base off rx) := by
  intro _ hwf
  have b_rx := boolLt rx
  have hw : (encode (.ldN32 d base off rx)).toNat = d.val * 2 ^ 21 + (base.val * 2 ^ 16 + (off.toNat * 2 ^ 0 + (rx.toNat * 2 ^ 11 + (1073790976)))) := encode_val _ _ (show packWord 1073790976 [(d.val, 21), (base.val, 16), (off.toNat, 0), (rx.toNat, 11)] = _ by simp only [packWord_cons, packWord_nil]) (by omega)
  generalize (encode (.ldN32 d base off rx)).toNat = W at hw
  have h0 : fld W 26 6 = 16 := by unfold fld; omega
  have h1 : fld W 13 3 = 6 := by unfold fld; omega
  have h2 : fld W 0 11 = off.toNat := by unfold fld; omega
  have h3 : fld W 11 1 = rx.toNat := by unfold fld; omega
  have h4 : fld W 21 5 = d.val := by unfold fld; omega
  have r4 := reg5_of d h4
  have h5 : fld W 16 5 = base.val := by unfold fld; omega
  have r5 := reg5_of base h5
  have h6 : fld W 12 1 = 0 := by unfold fld; omega
  rw [decode_major10 W h0]
  simp [decodeMajor10, whenZero, h1, h2, h3, r4, r5, h6]
theorem RoundTrip.ldQ128 (d : RegNum) (base : RegNum) (off : BitVec 11) (rx : Bool) : RoundTrip.Statement (.ldQ128 d base off rx) := by
  intro _ hwf
  have b_rx := boolLt rx
  have hw : (encode (.ldQ128 d base off rx)).toNat = d.val * 2 ^ 21 + (base.val * 2 ^ 16 + (off.toNat * 2 ^ 0 + (rx.toNat * 2 ^ 11 + (1073799168)))) := encode_val _ _ (show packWord 1073799168 [(d.val, 21), (base.val, 16), (off.toNat, 0), (rx.toNat, 11)] = _ by simp only [packWord_cons, packWord_nil]) (by omega)
  generalize (encode (.ldQ128 d base off rx)).toNat = W at hw
  have h0 : fld W 26 6 = 16 := by unfold fld; omega
  have h1 : fld W 13 3 = 7 := by unfold fld; omega
  have h2 : fld W 0 11 = off.toNat := by unfold fld; omega
  have h3 : fld W 11 1 = rx.toNat := by unfold fld; omega
  have h4 : fld W 21 5 = d.val := by unfold fld; omega
  have r4 := reg5_of d h4
  have h5 : fld W 16 5 = base.val := by unfold fld; omega
  have r5 := reg5_of base h5
  have h6 : fld W 12 1 = 0 := by unfold fld; omega
  rw [decode_major10 W h0]
  simp [decodeMajor10, whenZero, h1, h2, h3, r4, r5, h6]
theorem RoundTrip.st8 (d : RegNum) (base : RegNum) (off : BitVec 11) (rx : Bool) : RoundTrip.Statement (.st8 d base off rx) := by
  intro _ hwf
  have b_rx := boolLt rx
  have hw : (encode (.st8 d base off rx)).toNat = d.val * 2 ^ 21 + (base.val * 2 ^ 16 + (off.toNat * 2 ^ 0 + (rx.toNat * 2 ^ 11 + (1140850688)))) := encode_val _ _ (show packWord 1140850688 [(d.val, 21), (base.val, 16), (off.toNat, 0), (rx.toNat, 11)] = _ by simp only [packWord_cons, packWord_nil]) (by omega)
  generalize (encode (.st8 d base off rx)).toNat = W at hw
  have h0 : fld W 26 6 = 17 := by unfold fld; omega
  have h1 : fld W 13 3 = 0 := by unfold fld; omega
  have h2 : fld W 0 11 = off.toNat := by unfold fld; omega
  have h3 : fld W 11 1 = rx.toNat := by unfold fld; omega
  have h4 : fld W 21 5 = d.val := by unfold fld; omega
  have r4 := reg5_of d h4
  have h5 : fld W 16 5 = base.val := by unfold fld; omega
  have r5 := reg5_of base h5
  have h6 : fld W 12 1 = 0 := by unfold fld; omega
  rw [decode_major11 W h0]
  simp [decodeMajor11, whenZero, h1, h2, h3, r4, r5, h6]
theorem RoundTrip.st16 (d : RegNum) (base : RegNum) (off : BitVec 11) (rx : Bool) : RoundTrip.Statement (.st16 d base off rx) := by
  intro _ hwf
  have b_rx := boolLt rx
  have hw : (encode (.st16 d base off rx)).toNat = d.val * 2 ^ 21 + (base.val * 2 ^ 16 + (off.toNat * 2 ^ 0 + (rx.toNat * 2 ^ 11 + (1140858880)))) := encode_val _ _ (show packWord 1140858880 [(d.val, 21), (base.val, 16), (off.toNat, 0), (rx.toNat, 11)] = _ by simp only [packWord_cons, packWord_nil]) (by omega)
  generalize (encode (.st16 d base off rx)).toNat = W at hw
  have h0 : fld W 26 6 = 17 := by unfold fld; omega
  have h1 : fld W 13 3 = 1 := by unfold fld; omega
  have h2 : fld W 0 11 = off.toNat := by unfold fld; omega
  have h3 : fld W 11 1 = rx.toNat := by unfold fld; omega
  have h4 : fld W 21 5 = d.val := by unfold fld; omega
  have r4 := reg5_of d h4
  have h5 : fld W 16 5 = base.val := by unfold fld; omega
  have r5 := reg5_of base h5
  have h6 : fld W 12 1 = 0 := by unfold fld; omega
  rw [decode_major11 W h0]
  simp [decodeMajor11, whenZero, h1, h2, h3, r4, r5, h6]
theorem RoundTrip.st32 (d : RegNum) (base : RegNum) (off : BitVec 11) (rx : Bool) : RoundTrip.Statement (.st32 d base off rx) := by
  intro _ hwf
  have b_rx := boolLt rx
  have hw : (encode (.st32 d base off rx)).toNat = d.val * 2 ^ 21 + (base.val * 2 ^ 16 + (off.toNat * 2 ^ 0 + (rx.toNat * 2 ^ 11 + (1140867072)))) := encode_val _ _ (show packWord 1140867072 [(d.val, 21), (base.val, 16), (off.toNat, 0), (rx.toNat, 11)] = _ by simp only [packWord_cons, packWord_nil]) (by omega)
  generalize (encode (.st32 d base off rx)).toNat = W at hw
  have h0 : fld W 26 6 = 17 := by unfold fld; omega
  have h1 : fld W 13 3 = 2 := by unfold fld; omega
  have h2 : fld W 0 11 = off.toNat := by unfold fld; omega
  have h3 : fld W 11 1 = rx.toNat := by unfold fld; omega
  have h4 : fld W 21 5 = d.val := by unfold fld; omega
  have r4 := reg5_of d h4
  have h5 : fld W 16 5 = base.val := by unfold fld; omega
  have r5 := reg5_of base h5
  have h6 : fld W 12 1 = 0 := by unfold fld; omega
  rw [decode_major11 W h0]
  simp [decodeMajor11, whenZero, h1, h2, h3, r4, r5, h6]
theorem RoundTrip.st64 (d : RegNum) (base : RegNum) (off : BitVec 11) (rx : Bool) : RoundTrip.Statement (.st64 d base off rx) := by
  intro _ hwf
  have b_rx := boolLt rx
  have hw : (encode (.st64 d base off rx)).toNat = d.val * 2 ^ 21 + (base.val * 2 ^ 16 + (off.toNat * 2 ^ 0 + (rx.toNat * 2 ^ 11 + (1140875264)))) := encode_val _ _ (show packWord 1140875264 [(d.val, 21), (base.val, 16), (off.toNat, 0), (rx.toNat, 11)] = _ by simp only [packWord_cons, packWord_nil]) (by omega)
  generalize (encode (.st64 d base off rx)).toNat = W at hw
  have h0 : fld W 26 6 = 17 := by unfold fld; omega
  have h1 : fld W 13 3 = 3 := by unfold fld; omega
  have h2 : fld W 0 11 = off.toNat := by unfold fld; omega
  have h3 : fld W 11 1 = rx.toNat := by unfold fld; omega
  have h4 : fld W 21 5 = d.val := by unfold fld; omega
  have r4 := reg5_of d h4
  have h5 : fld W 16 5 = base.val := by unfold fld; omega
  have r5 := reg5_of base h5
  have h6 : fld W 12 1 = 0 := by unfold fld; omega
  rw [decode_major11 W h0]
  simp [decodeMajor11, whenZero, h1, h2, h3, r4, r5, h6]
theorem RoundTrip.stQ128 (d : RegNum) (base : RegNum) (off : BitVec 11) (rx : Bool) : RoundTrip.Statement (.stQ128 d base off rx) := by
  intro _ hwf
  have b_rx := boolLt rx
  have hw : (encode (.stQ128 d base off rx)).toNat = d.val * 2 ^ 21 + (base.val * 2 ^ 16 + (off.toNat * 2 ^ 0 + (rx.toNat * 2 ^ 11 + (1140908032)))) := encode_val _ _ (show packWord 1140908032 [(d.val, 21), (base.val, 16), (off.toNat, 0), (rx.toNat, 11)] = _ by simp only [packWord_cons, packWord_nil]) (by omega)
  generalize (encode (.stQ128 d base off rx)).toNat = W at hw
  have h0 : fld W 26 6 = 17 := by unfold fld; omega
  have h1 : fld W 13 3 = 7 := by unfold fld; omega
  have h2 : fld W 0 11 = off.toNat := by unfold fld; omega
  have h3 : fld W 11 1 = rx.toNat := by unfold fld; omega
  have h4 : fld W 21 5 = d.val := by unfold fld; omega
  have r4 := reg5_of d h4
  have h5 : fld W 16 5 = base.val := by unfold fld; omega
  have r5 := reg5_of base h5
  have h6 : fld W 12 1 = 0 := by unfold fld; omega
  rw [decode_major11 W h0]
  simp [decodeMajor11, whenZero, h1, h2, h3, r4, r5, h6]
theorem RoundTrip.ldc (d : RegNum) (base : RegNum) (off : BitVec 11) : RoundTrip.Statement (.ldc d base off) := by
  intro _ hwf
  have hw : (encode (.ldc d base off)).toNat = d.val * 2 ^ 21 + (base.val * 2 ^ 16 + (off.toNat * 2 ^ 0 + (1207959552))) := encode_val _ _ (show packWord 1207959552 [(d.val, 21), (base.val, 16), (off.toNat, 0)] = _ by simp only [packWord_cons, packWord_nil]) (by omega)
  generalize (encode (.ldc d base off)).toNat = W at hw
  have h0 : fld W 26 6 = 18 := by unfold fld; omega
  have h1 : fld W 13 3 = 0 := by unfold fld; omega
  have h2 : fld W 0 11 = off.toNat := by unfold fld; omega
  have h3 : fld W 21 5 = d.val := by unfold fld; omega
  have r3 := reg5_of d h3
  have h4 : fld W 16 5 = base.val := by unfold fld; omega
  have r4 := reg5_of base h4
  have h5 : fld W 11 2 = 0 := by unfold fld; omega
  rw [decode_major12 W h0]
  simp [decodeMajor12, whenZero, h1, h2, r3, r4, h5]
theorem RoundTrip.stc (d : RegNum) (base : RegNum) (off : BitVec 11) : RoundTrip.Statement (.stc d base off) := by
  intro _ hwf
  have hw : (encode (.stc d base off)).toNat = d.val * 2 ^ 21 + (base.val * 2 ^ 16 + (off.toNat * 2 ^ 0 + (1207967744))) := encode_val _ _ (show packWord 1207967744 [(d.val, 21), (base.val, 16), (off.toNat, 0)] = _ by simp only [packWord_cons, packWord_nil]) (by omega)
  generalize (encode (.stc d base off)).toNat = W at hw
  have h0 : fld W 26 6 = 18 := by unfold fld; omega
  have h1 : fld W 13 3 = 1 := by unfold fld; omega
  have h2 : fld W 0 11 = off.toNat := by unfold fld; omega
  have h3 : fld W 21 5 = d.val := by unfold fld; omega
  have r3 := reg5_of d h3
  have h4 : fld W 16 5 = base.val := by unfold fld; omega
  have r4 := reg5_of base h4
  have h5 : fld W 11 2 = 0 := by unfold fld; omega
  rw [decode_major12 W h0]
  simp [decodeMajor12, whenZero, h1, h2, r3, r4, h5]
theorem RoundTrip.lde (d : RegNum) (base : RegNum) (off : BitVec 11) : RoundTrip.Statement (.lde d base off) := by
  intro _ hwf
  have hw : (encode (.lde d base off)).toNat = d.val * 2 ^ 21 + (base.val * 2 ^ 16 + (off.toNat * 2 ^ 0 + (1275068416))) := encode_val _ _ (show packWord 1275068416 [(d.val, 21), (base.val, 16), (off.toNat, 0)] = _ by simp only [packWord_cons, packWord_nil]) (by omega)
  generalize (encode (.lde d base off)).toNat = W at hw
  have h0 : fld W 26 6 = 19 := by unfold fld; omega
  have h1 : fld W 13 3 = 0 := by unfold fld; omega
  have h2 : fld W 0 11 = off.toNat := by unfold fld; omega
  have h3 : fld W 21 5 = d.val := by unfold fld; omega
  have r3 := reg5_of d h3
  have h4 : fld W 16 5 = base.val := by unfold fld; omega
  have r4 := reg5_of base h4
  have h5 : fld W 11 2 = 0 := by unfold fld; omega
  rw [decode_major13 W h0]
  simp [decodeMajor13, whenZero, h1, h2, r3, r4, h5]
theorem RoundTrip.ldf (d : RegNum) (base : RegNum) (off : BitVec 11) : RoundTrip.Statement (.ldf d base off) := by
  intro _ hwf
  have hw : (encode (.ldf d base off)).toNat = d.val * 2 ^ 21 + (base.val * 2 ^ 16 + (off.toNat * 2 ^ 0 + (1275076608))) := encode_val _ _ (show packWord 1275076608 [(d.val, 21), (base.val, 16), (off.toNat, 0)] = _ by simp only [packWord_cons, packWord_nil]) (by omega)
  generalize (encode (.ldf d base off)).toNat = W at hw
  have h0 : fld W 26 6 = 19 := by unfold fld; omega
  have h1 : fld W 13 3 = 1 := by unfold fld; omega
  have h2 : fld W 0 11 = off.toNat := by unfold fld; omega
  have h3 : fld W 21 5 = d.val := by unfold fld; omega
  have r3 := reg5_of d h3
  have h4 : fld W 16 5 = base.val := by unfold fld; omega
  have r4 := reg5_of base h4
  have h5 : fld W 11 2 = 0 := by unfold fld; omega
  rw [decode_major13 W h0]
  simp [decodeMajor13, whenZero, h1, h2, r3, r4, h5]
theorem RoundTrip.stf (d : RegNum) (base : RegNum) (off : BitVec 11) : RoundTrip.Statement (.stf d base off) := by
  intro _ hwf
  have hw : (encode (.stf d base off)).toNat = d.val * 2 ^ 21 + (base.val * 2 ^ 16 + (off.toNat * 2 ^ 0 + (1275084800))) := encode_val _ _ (show packWord 1275084800 [(d.val, 21), (base.val, 16), (off.toNat, 0)] = _ by simp only [packWord_cons, packWord_nil]) (by omega)
  generalize (encode (.stf d base off)).toNat = W at hw
  have h0 : fld W 26 6 = 19 := by unfold fld; omega
  have h1 : fld W 13 3 = 2 := by unfold fld; omega
  have h2 : fld W 0 11 = off.toNat := by unfold fld; omega
  have h3 : fld W 21 5 = d.val := by unfold fld; omega
  have r3 := reg5_of d h3
  have h4 : fld W 16 5 = base.val := by unfold fld; omega
  have r4 := reg5_of base h4
  have h5 : fld W 11 2 = 0 := by unfold fld; omega
  rw [decode_major13 W h0]
  simp [decodeMajor13, whenZero, h1, h2, r3, r4, h5]
theorem RoundTrip.stx (d : RegNum) (base : RegNum) (off : BitVec 11) : RoundTrip.Statement (.stx d base off) := by
  intro _ hwf
  have hw : (encode (.stx d base off)).toNat = d.val * 2 ^ 21 + (base.val * 2 ^ 16 + (off.toNat * 2 ^ 0 + (1275092992))) := encode_val _ _ (show packWord 1275092992 [(d.val, 21), (base.val, 16), (off.toNat, 0)] = _ by simp only [packWord_cons, packWord_nil]) (by omega)
  generalize (encode (.stx d base off)).toNat = W at hw
  have h0 : fld W 26 6 = 19 := by unfold fld; omega
  have h1 : fld W 13 3 = 3 := by unfold fld; omega
  have h2 : fld W 0 11 = off.toNat := by unfold fld; omega
  have h3 : fld W 21 5 = d.val := by unfold fld; omega
  have r3 := reg5_of d h3
  have h4 : fld W 16 5 = base.val := by unfold fld; omega
  have r4 := reg5_of base h4
  have h5 : fld W 11 2 = 0 := by unfold fld; omega
  rw [decode_major13 W h0]
  simp [decodeMajor13, whenZero, h1, h2, r3, r4, h5]
theorem RoundTrip.fec (d : RegNum) (base : RegNum) (off : BitVec 11) : RoundTrip.Statement (.fec d base off) := by
  intro _ hwf
  have hw : (encode (.fec d base off)).toNat = d.val * 2 ^ 21 + (base.val * 2 ^ 16 + (off.toNat * 2 ^ 0 + (1275101184))) := encode_val _ _ (show packWord 1275101184 [(d.val, 21), (base.val, 16), (off.toNat, 0)] = _ by simp only [packWord_cons, packWord_nil]) (by omega)
  generalize (encode (.fec d base off)).toNat = W at hw
  have h0 : fld W 26 6 = 19 := by unfold fld; omega
  have h1 : fld W 13 3 = 4 := by unfold fld; omega
  have h2 : fld W 0 11 = off.toNat := by unfold fld; omega
  have h3 : fld W 21 5 = d.val := by unfold fld; omega
  have r3 := reg5_of d h3
  have h4 : fld W 16 5 = base.val := by unfold fld; omega
  have r4 := reg5_of base h4
  have h5 : fld W 11 2 = 0 := by unfold fld; omega
  rw [decode_major13 W h0]
  simp [decodeMajor13, whenZero, h1, h2, r3, r4, h5]
theorem RoundTrip.feq (d : RegNum) (base : RegNum) (off : BitVec 11) : RoundTrip.Statement (.feq d base off) := by
  intro _ hwf
  have hw : (encode (.feq d base off)).toNat = d.val * 2 ^ 21 + (base.val * 2 ^ 16 + (off.toNat * 2 ^ 0 + (1275109376))) := encode_val _ _ (show packWord 1275109376 [(d.val, 21), (base.val, 16), (off.toNat, 0)] = _ by simp only [packWord_cons, packWord_nil]) (by omega)
  generalize (encode (.feq d base off)).toNat = W at hw
  have h0 : fld W 26 6 = 19 := by unfold fld; omega
  have h1 : fld W 13 3 = 5 := by unfold fld; omega
  have h2 : fld W 0 11 = off.toNat := by unfold fld; omega
  have h3 : fld W 21 5 = d.val := by unfold fld; omega
  have r3 := reg5_of d h3
  have h4 : fld W 16 5 = base.val := by unfold fld; omega
  have r4 := reg5_of base h4
  have h5 : fld W 11 2 = 0 := by unfold fld; omega
  rw [decode_major13 W h0]
  simp [decodeMajor13, whenZero, h1, h2, r3, r4, h5]
theorem RoundTrip.aadd (d : RegNum) (a : RegNum) (b : RegNum) (w : Bool) (sc : Scope) (ord : AOrder) : RoundTrip.Statement (.aadd d a b w sc ord) := by
  intro _ hwf
  have b_w := boolLt w
  have b_sc := Scope.code_lt sc
  have b_ord := AOrder.code_lt ord
  have hw : (encode (.aadd d a b w sc ord)).toNat = d.val * 2 ^ 21 + (a.val * 2 ^ 16 + (b.val * 2 ^ 11 + (w.toNat * 2 ^ 4 + (sc.code * 2 ^ 5 + (ord.code * 2 ^ 8 + (1342177280)))))) := encode_val _ _ (show packWord 1342177280 [(d.val, 21), (a.val, 16), (b.val, 11), (w.toNat, 4), (sc.code, 5), (ord.code, 8)] = _ by simp only [packWord_cons, packWord_nil]) (by omega)
  generalize (encode (.aadd d a b w sc ord)).toNat = W at hw
  have h0 : fld W 26 6 = 20 := by unfold fld; omega
  have h1 : fld W 0 4 = 0 := by unfold fld; omega
  have h2 : fld W 5 3 = sc.code := by unfold fld; omega
  have h3 : fld W 8 2 = ord.code := by unfold fld; omega
  have h4 : fld W 4 1 = w.toNat := by unfold fld; omega
  have h5 : fld W 21 5 = d.val := by unfold fld; omega
  have r5 := reg5_of d h5
  have h6 : fld W 16 5 = a.val := by unfold fld; omega
  have r6 := reg5_of a h6
  have h7 : fld W 11 5 = b.val := by unfold fld; omega
  have r7 := reg5_of b h7
  have h8 : fld W 10 1 = 0 := by unfold fld; omega
  rw [decode_major14 W h0]
  simp [decodeMajor14, whenZero, h1, h2, h3, h4, r5, r6, r7, h8]
theorem RoundTrip.aand (d : RegNum) (a : RegNum) (b : RegNum) (w : Bool) (sc : Scope) (ord : AOrder) : RoundTrip.Statement (.aand d a b w sc ord) := by
  intro _ hwf
  have b_w := boolLt w
  have b_sc := Scope.code_lt sc
  have b_ord := AOrder.code_lt ord
  have hw : (encode (.aand d a b w sc ord)).toNat = d.val * 2 ^ 21 + (a.val * 2 ^ 16 + (b.val * 2 ^ 11 + (w.toNat * 2 ^ 4 + (sc.code * 2 ^ 5 + (ord.code * 2 ^ 8 + (1342177281)))))) := encode_val _ _ (show packWord 1342177281 [(d.val, 21), (a.val, 16), (b.val, 11), (w.toNat, 4), (sc.code, 5), (ord.code, 8)] = _ by simp only [packWord_cons, packWord_nil]) (by omega)
  generalize (encode (.aand d a b w sc ord)).toNat = W at hw
  have h0 : fld W 26 6 = 20 := by unfold fld; omega
  have h1 : fld W 0 4 = 1 := by unfold fld; omega
  have h2 : fld W 5 3 = sc.code := by unfold fld; omega
  have h3 : fld W 8 2 = ord.code := by unfold fld; omega
  have h4 : fld W 4 1 = w.toNat := by unfold fld; omega
  have h5 : fld W 21 5 = d.val := by unfold fld; omega
  have r5 := reg5_of d h5
  have h6 : fld W 16 5 = a.val := by unfold fld; omega
  have r6 := reg5_of a h6
  have h7 : fld W 11 5 = b.val := by unfold fld; omega
  have r7 := reg5_of b h7
  have h8 : fld W 10 1 = 0 := by unfold fld; omega
  rw [decode_major14 W h0]
  simp [decodeMajor14, whenZero, h1, h2, h3, h4, r5, r6, r7, h8]
theorem RoundTrip.aor (d : RegNum) (a : RegNum) (b : RegNum) (w : Bool) (sc : Scope) (ord : AOrder) : RoundTrip.Statement (.aor d a b w sc ord) := by
  intro _ hwf
  have b_w := boolLt w
  have b_sc := Scope.code_lt sc
  have b_ord := AOrder.code_lt ord
  have hw : (encode (.aor d a b w sc ord)).toNat = d.val * 2 ^ 21 + (a.val * 2 ^ 16 + (b.val * 2 ^ 11 + (w.toNat * 2 ^ 4 + (sc.code * 2 ^ 5 + (ord.code * 2 ^ 8 + (1342177282)))))) := encode_val _ _ (show packWord 1342177282 [(d.val, 21), (a.val, 16), (b.val, 11), (w.toNat, 4), (sc.code, 5), (ord.code, 8)] = _ by simp only [packWord_cons, packWord_nil]) (by omega)
  generalize (encode (.aor d a b w sc ord)).toNat = W at hw
  have h0 : fld W 26 6 = 20 := by unfold fld; omega
  have h1 : fld W 0 4 = 2 := by unfold fld; omega
  have h2 : fld W 5 3 = sc.code := by unfold fld; omega
  have h3 : fld W 8 2 = ord.code := by unfold fld; omega
  have h4 : fld W 4 1 = w.toNat := by unfold fld; omega
  have h5 : fld W 21 5 = d.val := by unfold fld; omega
  have r5 := reg5_of d h5
  have h6 : fld W 16 5 = a.val := by unfold fld; omega
  have r6 := reg5_of a h6
  have h7 : fld W 11 5 = b.val := by unfold fld; omega
  have r7 := reg5_of b h7
  have h8 : fld W 10 1 = 0 := by unfold fld; omega
  rw [decode_major14 W h0]
  simp [decodeMajor14, whenZero, h1, h2, h3, h4, r5, r6, r7, h8]
theorem RoundTrip.axor (d : RegNum) (a : RegNum) (b : RegNum) (w : Bool) (sc : Scope) (ord : AOrder) : RoundTrip.Statement (.axor d a b w sc ord) := by
  intro _ hwf
  have b_w := boolLt w
  have b_sc := Scope.code_lt sc
  have b_ord := AOrder.code_lt ord
  have hw : (encode (.axor d a b w sc ord)).toNat = d.val * 2 ^ 21 + (a.val * 2 ^ 16 + (b.val * 2 ^ 11 + (w.toNat * 2 ^ 4 + (sc.code * 2 ^ 5 + (ord.code * 2 ^ 8 + (1342177283)))))) := encode_val _ _ (show packWord 1342177283 [(d.val, 21), (a.val, 16), (b.val, 11), (w.toNat, 4), (sc.code, 5), (ord.code, 8)] = _ by simp only [packWord_cons, packWord_nil]) (by omega)
  generalize (encode (.axor d a b w sc ord)).toNat = W at hw
  have h0 : fld W 26 6 = 20 := by unfold fld; omega
  have h1 : fld W 0 4 = 3 := by unfold fld; omega
  have h2 : fld W 5 3 = sc.code := by unfold fld; omega
  have h3 : fld W 8 2 = ord.code := by unfold fld; omega
  have h4 : fld W 4 1 = w.toNat := by unfold fld; omega
  have h5 : fld W 21 5 = d.val := by unfold fld; omega
  have r5 := reg5_of d h5
  have h6 : fld W 16 5 = a.val := by unfold fld; omega
  have r6 := reg5_of a h6
  have h7 : fld W 11 5 = b.val := by unfold fld; omega
  have r7 := reg5_of b h7
  have h8 : fld W 10 1 = 0 := by unfold fld; omega
  rw [decode_major14 W h0]
  simp [decodeMajor14, whenZero, h1, h2, h3, h4, r5, r6, r7, h8]
theorem RoundTrip.amin (d : RegNum) (a : RegNum) (b : RegNum) (w : Bool) (sc : Scope) (ord : AOrder) : RoundTrip.Statement (.amin d a b w sc ord) := by
  intro _ hwf
  have b_w := boolLt w
  have b_sc := Scope.code_lt sc
  have b_ord := AOrder.code_lt ord
  have hw : (encode (.amin d a b w sc ord)).toNat = d.val * 2 ^ 21 + (a.val * 2 ^ 16 + (b.val * 2 ^ 11 + (w.toNat * 2 ^ 4 + (sc.code * 2 ^ 5 + (ord.code * 2 ^ 8 + (1342177284)))))) := encode_val _ _ (show packWord 1342177284 [(d.val, 21), (a.val, 16), (b.val, 11), (w.toNat, 4), (sc.code, 5), (ord.code, 8)] = _ by simp only [packWord_cons, packWord_nil]) (by omega)
  generalize (encode (.amin d a b w sc ord)).toNat = W at hw
  have h0 : fld W 26 6 = 20 := by unfold fld; omega
  have h1 : fld W 0 4 = 4 := by unfold fld; omega
  have h2 : fld W 5 3 = sc.code := by unfold fld; omega
  have h3 : fld W 8 2 = ord.code := by unfold fld; omega
  have h4 : fld W 4 1 = w.toNat := by unfold fld; omega
  have h5 : fld W 21 5 = d.val := by unfold fld; omega
  have r5 := reg5_of d h5
  have h6 : fld W 16 5 = a.val := by unfold fld; omega
  have r6 := reg5_of a h6
  have h7 : fld W 11 5 = b.val := by unfold fld; omega
  have r7 := reg5_of b h7
  have h8 : fld W 10 1 = 0 := by unfold fld; omega
  rw [decode_major14 W h0]
  simp [decodeMajor14, whenZero, h1, h2, h3, h4, r5, r6, r7, h8]
theorem RoundTrip.amax (d : RegNum) (a : RegNum) (b : RegNum) (w : Bool) (sc : Scope) (ord : AOrder) : RoundTrip.Statement (.amax d a b w sc ord) := by
  intro _ hwf
  have b_w := boolLt w
  have b_sc := Scope.code_lt sc
  have b_ord := AOrder.code_lt ord
  have hw : (encode (.amax d a b w sc ord)).toNat = d.val * 2 ^ 21 + (a.val * 2 ^ 16 + (b.val * 2 ^ 11 + (w.toNat * 2 ^ 4 + (sc.code * 2 ^ 5 + (ord.code * 2 ^ 8 + (1342177285)))))) := encode_val _ _ (show packWord 1342177285 [(d.val, 21), (a.val, 16), (b.val, 11), (w.toNat, 4), (sc.code, 5), (ord.code, 8)] = _ by simp only [packWord_cons, packWord_nil]) (by omega)
  generalize (encode (.amax d a b w sc ord)).toNat = W at hw
  have h0 : fld W 26 6 = 20 := by unfold fld; omega
  have h1 : fld W 0 4 = 5 := by unfold fld; omega
  have h2 : fld W 5 3 = sc.code := by unfold fld; omega
  have h3 : fld W 8 2 = ord.code := by unfold fld; omega
  have h4 : fld W 4 1 = w.toNat := by unfold fld; omega
  have h5 : fld W 21 5 = d.val := by unfold fld; omega
  have r5 := reg5_of d h5
  have h6 : fld W 16 5 = a.val := by unfold fld; omega
  have r6 := reg5_of a h6
  have h7 : fld W 11 5 = b.val := by unfold fld; omega
  have r7 := reg5_of b h7
  have h8 : fld W 10 1 = 0 := by unfold fld; omega
  rw [decode_major14 W h0]
  simp [decodeMajor14, whenZero, h1, h2, h3, h4, r5, r6, r7, h8]
theorem RoundTrip.aminn (d : RegNum) (a : RegNum) (b : RegNum) (w : Bool) (sc : Scope) (ord : AOrder) : RoundTrip.Statement (.aminn d a b w sc ord) := by
  intro _ hwf
  have b_w := boolLt w
  have b_sc := Scope.code_lt sc
  have b_ord := AOrder.code_lt ord
  have hw : (encode (.aminn d a b w sc ord)).toNat = d.val * 2 ^ 21 + (a.val * 2 ^ 16 + (b.val * 2 ^ 11 + (w.toNat * 2 ^ 4 + (sc.code * 2 ^ 5 + (ord.code * 2 ^ 8 + (1342177286)))))) := encode_val _ _ (show packWord 1342177286 [(d.val, 21), (a.val, 16), (b.val, 11), (w.toNat, 4), (sc.code, 5), (ord.code, 8)] = _ by simp only [packWord_cons, packWord_nil]) (by omega)
  generalize (encode (.aminn d a b w sc ord)).toNat = W at hw
  have h0 : fld W 26 6 = 20 := by unfold fld; omega
  have h1 : fld W 0 4 = 6 := by unfold fld; omega
  have h2 : fld W 5 3 = sc.code := by unfold fld; omega
  have h3 : fld W 8 2 = ord.code := by unfold fld; omega
  have h4 : fld W 4 1 = w.toNat := by unfold fld; omega
  have h5 : fld W 21 5 = d.val := by unfold fld; omega
  have r5 := reg5_of d h5
  have h6 : fld W 16 5 = a.val := by unfold fld; omega
  have r6 := reg5_of a h6
  have h7 : fld W 11 5 = b.val := by unfold fld; omega
  have r7 := reg5_of b h7
  have h8 : fld W 10 1 = 0 := by unfold fld; omega
  rw [decode_major14 W h0]
  simp [decodeMajor14, whenZero, h1, h2, h3, h4, r5, r6, r7, h8]
theorem RoundTrip.amaxn (d : RegNum) (a : RegNum) (b : RegNum) (w : Bool) (sc : Scope) (ord : AOrder) : RoundTrip.Statement (.amaxn d a b w sc ord) := by
  intro _ hwf
  have b_w := boolLt w
  have b_sc := Scope.code_lt sc
  have b_ord := AOrder.code_lt ord
  have hw : (encode (.amaxn d a b w sc ord)).toNat = d.val * 2 ^ 21 + (a.val * 2 ^ 16 + (b.val * 2 ^ 11 + (w.toNat * 2 ^ 4 + (sc.code * 2 ^ 5 + (ord.code * 2 ^ 8 + (1342177287)))))) := encode_val _ _ (show packWord 1342177287 [(d.val, 21), (a.val, 16), (b.val, 11), (w.toNat, 4), (sc.code, 5), (ord.code, 8)] = _ by simp only [packWord_cons, packWord_nil]) (by omega)
  generalize (encode (.amaxn d a b w sc ord)).toNat = W at hw
  have h0 : fld W 26 6 = 20 := by unfold fld; omega
  have h1 : fld W 0 4 = 7 := by unfold fld; omega
  have h2 : fld W 5 3 = sc.code := by unfold fld; omega
  have h3 : fld W 8 2 = ord.code := by unfold fld; omega
  have h4 : fld W 4 1 = w.toNat := by unfold fld; omega
  have h5 : fld W 21 5 = d.val := by unfold fld; omega
  have r5 := reg5_of d h5
  have h6 : fld W 16 5 = a.val := by unfold fld; omega
  have r6 := reg5_of a h6
  have h7 : fld W 11 5 = b.val := by unfold fld; omega
  have r7 := reg5_of b h7
  have h8 : fld W 10 1 = 0 := by unfold fld; omega
  rw [decode_major14 W h0]
  simp [decodeMajor14, whenZero, h1, h2, h3, h4, r5, r6, r7, h8]
theorem RoundTrip.aswp (d : RegNum) (a : RegNum) (b : RegNum) (w : Bool) (sc : Scope) (ord : AOrder) : RoundTrip.Statement (.aswp d a b w sc ord) := by
  intro _ hwf
  have b_w := boolLt w
  have b_sc := Scope.code_lt sc
  have b_ord := AOrder.code_lt ord
  have hw : (encode (.aswp d a b w sc ord)).toNat = d.val * 2 ^ 21 + (a.val * 2 ^ 16 + (b.val * 2 ^ 11 + (w.toNat * 2 ^ 4 + (sc.code * 2 ^ 5 + (ord.code * 2 ^ 8 + (1342177288)))))) := encode_val _ _ (show packWord 1342177288 [(d.val, 21), (a.val, 16), (b.val, 11), (w.toNat, 4), (sc.code, 5), (ord.code, 8)] = _ by simp only [packWord_cons, packWord_nil]) (by omega)
  generalize (encode (.aswp d a b w sc ord)).toNat = W at hw
  have h0 : fld W 26 6 = 20 := by unfold fld; omega
  have h1 : fld W 0 4 = 8 := by unfold fld; omega
  have h2 : fld W 5 3 = sc.code := by unfold fld; omega
  have h3 : fld W 8 2 = ord.code := by unfold fld; omega
  have h4 : fld W 4 1 = w.toNat := by unfold fld; omega
  have h5 : fld W 21 5 = d.val := by unfold fld; omega
  have r5 := reg5_of d h5
  have h6 : fld W 16 5 = a.val := by unfold fld; omega
  have r6 := reg5_of a h6
  have h7 : fld W 11 5 = b.val := by unfold fld; omega
  have r7 := reg5_of b h7
  have h8 : fld W 10 1 = 0 := by unfold fld; omega
  rw [decode_major14 W h0]
  simp [decodeMajor14, whenZero, h1, h2, h3, h4, r5, r6, r7, h8]
theorem RoundTrip.acas (d : RegNum) (a : RegNum) (b : RegNum) (w : Bool) (sc : Scope) (ord : AOrder) : RoundTrip.Statement (.acas d a b w sc ord) := by
  intro _ hwf
  have b_w := boolLt w
  have b_sc := Scope.code_lt sc
  have b_ord := AOrder.code_lt ord
  have hw : (encode (.acas d a b w sc ord)).toNat = d.val * 2 ^ 21 + (a.val * 2 ^ 16 + (b.val * 2 ^ 11 + (w.toNat * 2 ^ 4 + (sc.code * 2 ^ 5 + (ord.code * 2 ^ 8 + (1342177289)))))) := encode_val _ _ (show packWord 1342177289 [(d.val, 21), (a.val, 16), (b.val, 11), (w.toNat, 4), (sc.code, 5), (ord.code, 8)] = _ by simp only [packWord_cons, packWord_nil]) (by omega)
  generalize (encode (.acas d a b w sc ord)).toNat = W at hw
  have h0 : fld W 26 6 = 20 := by unfold fld; omega
  have h1 : fld W 0 4 = 9 := by unfold fld; omega
  have h2 : fld W 5 3 = sc.code := by unfold fld; omega
  have h3 : fld W 8 2 = ord.code := by unfold fld; omega
  have h4 : fld W 4 1 = w.toNat := by unfold fld; omega
  have h5 : fld W 21 5 = d.val := by unfold fld; omega
  have r5 := reg5_of d h5
  have h6 : fld W 16 5 = a.val := by unfold fld; omega
  have r6 := reg5_of a h6
  have h7 : fld W 11 5 = b.val := by unfold fld; omega
  have r7 := reg5_of b h7
  have h8 : fld W 10 1 = 0 := by unfold fld; omega
  rw [decode_major14 W h0]
  simp [decodeMajor14, whenZero, h1, h2, h3, h4, r5, r6, r7, h8]
theorem RoundTrip.afadd (d : RegNum) (a : RegNum) (b : RegNum) (sc : Scope) (ord : AOrder) : RoundTrip.Statement (.afadd d a b sc ord) := by
  intro _ hwf
  have b_sc := Scope.code_lt sc
  have b_ord := AOrder.code_lt ord
  have hw : (encode (.afadd d a b sc ord)).toNat = d.val * 2 ^ 21 + (a.val * 2 ^ 16 + (b.val * 2 ^ 11 + (sc.code * 2 ^ 5 + (ord.code * 2 ^ 8 + (1342177290))))) := encode_val _ _ (show packWord 1342177290 [(d.val, 21), (a.val, 16), (b.val, 11), (sc.code, 5), (ord.code, 8)] = _ by simp only [packWord_cons, packWord_nil]) (by omega)
  generalize (encode (.afadd d a b sc ord)).toNat = W at hw
  have h0 : fld W 26 6 = 20 := by unfold fld; omega
  have h1 : fld W 0 4 = 10 := by unfold fld; omega
  have h2 : fld W 4 1 = 0 := by unfold fld; omega
  have h3 : fld W 5 3 = sc.code := by unfold fld; omega
  have h4 : fld W 8 2 = ord.code := by unfold fld; omega
  have h5 : fld W 21 5 = d.val := by unfold fld; omega
  have r5 := reg5_of d h5
  have h6 : fld W 16 5 = a.val := by unfold fld; omega
  have r6 := reg5_of a h6
  have h7 : fld W 11 5 = b.val := by unfold fld; omega
  have r7 := reg5_of b h7
  have h8 : fld W 10 1 = 0 := by unfold fld; omega
  rw [decode_major14 W h0]
  simp [decodeMajor14, whenZero, h1, h2, h3, h4, r5, r6, r7, h8]
theorem RoundTrip.fence (sets : BitVec 4) (sc : Scope) : RoundTrip.Statement (.fence sets sc) := by
  intro _ hwf
  have b_sc := Scope.code_lt sc
  have hw : (encode (.fence sets sc)).toNat = sets.toNat * 2 ^ 6 + (sc.code * 2 ^ 3 + (1409286144)) := encode_val _ _ (show packWord 1409286144 [(sets.toNat, 6), (sc.code, 3)] = _ by simp only [packWord_cons, packWord_nil]) (by omega)
  generalize (encode (.fence sets sc)).toNat = W at hw
  have h0 : fld W 26 6 = 21 := by unfold fld; omega
  have h1 : fld W 0 3 = 0 := by unfold fld; omega
  have h2 : fld W 3 3 = sc.code := by unfold fld; omega
  have h3 : fld W 6 4 = sets.toNat := by unfold fld; omega
  have h4 : fld W 21 5 = 0 := by unfold fld; omega
  have h5 : fld W 16 5 = 0 := by unfold fld; omega
  have h6 : fld W 11 5 = 0 := by unfold fld; omega
  have h7 : fld W 10 1 = 0 := by unfold fld; omega
  rw [decode_major15 W h0]
  simp [decodeMajor15, whenZero, h1, h2, h3, h4, h5, h6, h7]
theorem RoundTrip.strel (d : RegNum) (a : RegNum) (sc : Scope) : RoundTrip.Statement (.strel d a sc) := by
  intro _ hwf
  have b_sc := Scope.code_lt sc
  have hw : (encode (.strel d a sc)).toNat = d.val * 2 ^ 21 + (a.val * 2 ^ 16 + (sc.code * 2 ^ 3 + (1409286145))) := encode_val _ _ (show packWord 1409286145 [(d.val, 21), (a.val, 16), (sc.code, 3)] = _ by simp only [packWord_cons, packWord_nil]) (by omega)
  generalize (encode (.strel d a sc)).toNat = W at hw
  have h0 : fld W 26 6 = 21 := by unfold fld; omega
  have h1 : fld W 0 3 = 1 := by unfold fld; omega
  have h2 : fld W 3 3 = sc.code := by unfold fld; omega
  have h3 : fld W 21 5 = d.val := by unfold fld; omega
  have r3 := reg5_of d h3
  have h4 : fld W 16 5 = a.val := by unfold fld; omega
  have r4 := reg5_of a h4
  have h5 : fld W 11 5 = 0 := by unfold fld; omega
  have h6 : fld W 6 5 = 0 := by unfold fld; omega
  rw [decode_major15 W h0]
  simp [decodeMajor15, whenZero, h1, h2, r3, r4, h5, h6]
theorem RoundTrip.ldacq (d : RegNum) (a : RegNum) (sc : Scope) : RoundTrip.Statement (.ldacq d a sc) := by
  intro _ hwf
  have b_sc := Scope.code_lt sc
  have hw : (encode (.ldacq d a sc)).toNat = d.val * 2 ^ 21 + (a.val * 2 ^ 16 + (sc.code * 2 ^ 3 + (1409286146))) := encode_val _ _ (show packWord 1409286146 [(d.val, 21), (a.val, 16), (sc.code, 3)] = _ by simp only [packWord_cons, packWord_nil]) (by omega)
  generalize (encode (.ldacq d a sc)).toNat = W at hw
  have h0 : fld W 26 6 = 21 := by unfold fld; omega
  have h1 : fld W 0 3 = 2 := by unfold fld; omega
  have h2 : fld W 3 3 = sc.code := by unfold fld; omega
  have h3 : fld W 21 5 = d.val := by unfold fld; omega
  have r3 := reg5_of d h3
  have h4 : fld W 16 5 = a.val := by unfold fld; omega
  have r4 := reg5_of a h4
  have h5 : fld W 11 5 = 0 := by unfold fld; omega
  have h6 : fld W 6 5 = 0 := by unfold fld; omega
  rw [decode_major15 W h0]
  simp [decodeMajor15, whenZero, h1, h2, r3, r4, h5, h6]
theorem RoundTrip.sigrst (a : RegNum) (sc : Scope) : RoundTrip.Statement (.sigrst a sc) := by
  intro _ hwf
  have b_sc := Scope.code_lt sc
  have hw : (encode (.sigrst a sc)).toNat = a.val * 2 ^ 16 + (sc.code * 2 ^ 3 + (1409286147)) := encode_val _ _ (show packWord 1409286147 [(a.val, 16), (sc.code, 3)] = _ by simp only [packWord_cons, packWord_nil]) (by omega)
  generalize (encode (.sigrst a sc)).toNat = W at hw
  have h0 : fld W 26 6 = 21 := by unfold fld; omega
  have h1 : fld W 0 3 = 3 := by unfold fld; omega
  have h2 : fld W 3 3 = sc.code := by unfold fld; omega
  have h3 : fld W 16 5 = a.val := by unfold fld; omega
  have r3 := reg5_of a h3
  have h4 : fld W 21 5 = 0 := by unfold fld; omega
  have h5 : fld W 11 5 = 0 := by unfold fld; omega
  have h6 : fld W 6 5 = 0 := by unfold fld; omega
  rw [decode_major15 W h0]
  simp [decodeMajor15, whenZero, h1, h2, r3, h4, h5, h6]
theorem RoundTrip.sigmrg (d : RegNum) (a : RegNum) (sc : Scope) : RoundTrip.Statement (.sigmrg d a sc) := by
  intro _ hwf
  have b_sc := Scope.code_lt sc
  have hw : (encode (.sigmrg d a sc)).toNat = d.val * 2 ^ 21 + (a.val * 2 ^ 16 + (sc.code * 2 ^ 3 + (1409286148))) := encode_val _ _ (show packWord 1409286148 [(d.val, 21), (a.val, 16), (sc.code, 3)] = _ by simp only [packWord_cons, packWord_nil]) (by omega)
  generalize (encode (.sigmrg d a sc)).toNat = W at hw
  have h0 : fld W 26 6 = 21 := by unfold fld; omega
  have h1 : fld W 0 3 = 4 := by unfold fld; omega
  have h2 : fld W 3 3 = sc.code := by unfold fld; omega
  have h3 : fld W 21 5 = d.val := by unfold fld; omega
  have r3 := reg5_of d h3
  have h4 : fld W 16 5 = a.val := by unfold fld; omega
  have r4 := reg5_of a h4
  have h5 : fld W 11 5 = 0 := by unfold fld; omega
  have h6 : fld W 6 5 = 0 := by unfold fld; omega
  rw [decode_major15 W h0]
  simp [decodeMajor15, whenZero, h1, h2, r3, r4, h5, h6]
theorem RoundTrip.pref (a : RegNum) (b : RegNum) : RoundTrip.Statement (.pref a b) := by
  intro _ hwf
  have hw : (encode (.pref a b)).toNat = a.val * 2 ^ 16 + (b.val * 2 ^ 11 + (1476395008)) := encode_val _ _ (show packWord 1476395008 [(a.val, 16), (b.val, 11)] = _ by simp only [packWord_cons, packWord_nil]) (by omega)
  generalize (encode (.pref a b)).toNat = W at hw
  have h0 : fld W 26 6 = 22 := by unfold fld; omega
  have h1 : fld W 0 3 = 0 := by unfold fld; omega
  have h2 : fld W 16 5 = a.val := by unfold fld; omega
  have r2 := reg5_of a h2
  have h3 : fld W 11 5 = b.val := by unfold fld; omega
  have r3 := reg5_of b h3
  have h4 : fld W 21 5 = 0 := by unfold fld; omega
  have h5 : fld W 3 8 = 0 := by unfold fld; omega
  rw [decode_major16 W h0]
  simp [decodeMajor16, whenZero, h1, r2, r3, h4, h5]
theorem RoundTrip.cflu (a : RegNum) (b : RegNum) : RoundTrip.Statement (.cflu a b) := by
  intro _ hwf
  have hw : (encode (.cflu a b)).toNat = a.val * 2 ^ 16 + (b.val * 2 ^ 11 + (1476395009)) := encode_val _ _ (show packWord 1476395009 [(a.val, 16), (b.val, 11)] = _ by simp only [packWord_cons, packWord_nil]) (by omega)
  generalize (encode (.cflu a b)).toNat = W at hw
  have h0 : fld W 26 6 = 22 := by unfold fld; omega
  have h1 : fld W 0 3 = 1 := by unfold fld; omega
  have h2 : fld W 16 5 = a.val := by unfold fld; omega
  have r2 := reg5_of a h2
  have h3 : fld W 11 5 = b.val := by unfold fld; omega
  have r3 := reg5_of b h3
  have h4 : fld W 21 5 = 0 := by unfold fld; omega
  have h5 : fld W 3 8 = 0 := by unfold fld; omega
  rw [decode_major16 W h0]
  simp [decodeMajor16, whenZero, h1, r2, r3, h4, h5]
theorem RoundTrip.cinv (a : RegNum) (b : RegNum) : RoundTrip.Statement (.cinv a b) := by
  intro _ hwf
  have hw : (encode (.cinv a b)).toNat = a.val * 2 ^ 16 + (b.val * 2 ^ 11 + (1476395010)) := encode_val _ _ (show packWord 1476395010 [(a.val, 16), (b.val, 11)] = _ by simp only [packWord_cons, packWord_nil]) (by omega)
  generalize (encode (.cinv a b)).toNat = W at hw
  have h0 : fld W 26 6 = 22 := by unfold fld; omega
  have h1 : fld W 0 3 = 2 := by unfold fld; omega
  have h2 : fld W 16 5 = a.val := by unfold fld; omega
  have r2 := reg5_of a h2
  have h3 : fld W 11 5 = b.val := by unfold fld; omega
  have r3 := reg5_of b h3
  have h4 : fld W 21 5 = 0 := by unfold fld; omega
  have h5 : fld W 3 8 = 0 := by unfold fld; omega
  rw [decode_major16 W h0]
  simp [decodeMajor16, whenZero, h1, r2, r3, h4, h5]
theorem RoundTrip.disc (a : RegNum) (b : RegNum) : RoundTrip.Statement (.disc a b) := by
  intro _ hwf
  have hw : (encode (.disc a b)).toNat = a.val * 2 ^ 16 + (b.val * 2 ^ 11 + (1476395011)) := encode_val _ _ (show packWord 1476395011 [(a.val, 16), (b.val, 11)] = _ by simp only [packWord_cons, packWord_nil]) (by omega)
  generalize (encode (.disc a b)).toNat = W at hw
  have h0 : fld W 26 6 = 22 := by unfold fld; omega
  have h1 : fld W 0 3 = 3 := by unfold fld; omega
  have h2 : fld W 16 5 = a.val := by unfold fld; omega
  have r2 := reg5_of a h2
  have h3 : fld W 11 5 = b.val := by unfold fld; omega
  have r3 := reg5_of b h3
  have h4 : fld W 21 5 = 0 := by unfold fld; omega
  have h5 : fld W 3 8 = 0 := by unfold fld; omega
  rw [decode_major16 W h0]
  simp [decodeMajor16, whenZero, h1, r2, r3, h4, h5]
theorem RoundTrip.llck (d : RegNum) (a : RegNum) (b : RegNum) : RoundTrip.Statement (.llck d a b) := by
  intro _ hwf
  have hw : (encode (.llck d a b)).toNat = d.val * 2 ^ 21 + (a.val * 2 ^ 16 + (b.val * 2 ^ 11 + (1476395012))) := encode_val _ _ (show packWord 1476395012 [(d.val, 21), (a.val, 16), (b.val, 11)] = _ by simp only [packWord_cons, packWord_nil]) (by omega)
  generalize (encode (.llck d a b)).toNat = W at hw
  have h0 : fld W 26 6 = 22 := by unfold fld; omega
  have h1 : fld W 0 3 = 4 := by unfold fld; omega
  have h2 : fld W 21 5 = d.val := by unfold fld; omega
  have r2 := reg5_of d h2
  have h3 : fld W 16 5 = a.val := by unfold fld; omega
  have r3 := reg5_of a h3
  have h4 : fld W 11 5 = b.val := by unfold fld; omega
  have r4 := reg5_of b h4
  have h5 : fld W 3 8 = 0 := by unfold fld; omega
  rw [decode_major16 W h0]
  simp [decodeMajor16, whenZero, h1, r2, r3, r4, h5]
theorem RoundTrip.lulk (d : RegNum) (a : RegNum) (b : RegNum) : RoundTrip.Statement (.lulk d a b) := by
  intro _ hwf
  have hw : (encode (.lulk d a b)).toNat = d.val * 2 ^ 21 + (a.val * 2 ^ 16 + (b.val * 2 ^ 11 + (1476395013))) := encode_val _ _ (show packWord 1476395013 [(d.val, 21), (a.val, 16), (b.val, 11)] = _ by simp only [packWord_cons, packWord_nil]) (by omega)
  generalize (encode (.lulk d a b)).toNat = W at hw
  have h0 : fld W 26 6 = 22 := by unfold fld; omega
  have h1 : fld W 0 3 = 5 := by unfold fld; omega
  have h2 : fld W 21 5 = d.val := by unfold fld; omega
  have r2 := reg5_of d h2
  have h3 : fld W 16 5 = a.val := by unfold fld; omega
  have r3 := reg5_of a h3
  have h4 : fld W 11 5 = b.val := by unfold fld; omega
  have r4 := reg5_of b h4
  have h5 : fld W 3 8 = 0 := by unfold fld; omega
  rw [decode_major16 W h0]
  simp [decodeMajor16, whenZero, h1, r2, r3, r4, h5]
theorem RoundTrip.tenq (d : RegNum) (a : RegNum) (b : RegNum) : RoundTrip.Statement (.tenq d a b) := by
  intro _ hwf
  have hw : (encode (.tenq d a b)).toNat = d.val * 2 ^ 21 + (a.val * 2 ^ 16 + (b.val * 2 ^ 11 + (1610612736))) := encode_val _ _ (show packWord 1610612736 [(d.val, 21), (a.val, 16), (b.val, 11)] = _ by simp only [packWord_cons, packWord_nil]) (by omega)
  generalize (encode (.tenq d a b)).toNat = W at hw
  have h0 : fld W 26 6 = 24 := by unfold fld; omega
  have h1 : fld W 0 4 = 0 := by unfold fld; omega
  have h2 : fld W 21 5 = d.val := by unfold fld; omega
  have r2 := reg5_of d h2
  have h3 : fld W 16 5 = a.val := by unfold fld; omega
  have r3 := reg5_of a h3
  have h4 : fld W 11 5 = b.val := by unfold fld; omega
  have r4 := reg5_of b h4
  have h5 : fld W 4 7 = 0 := by unfold fld; omega
  rw [decode_major18 W h0]
  simp [decodeMajor18, whenZero, h1, r2, r3, r4, h5]
theorem RoundTrip.tenqw (d : RegNum) (a : RegNum) (b : RegNum) : RoundTrip.Statement (.tenqw d a b) := by
  intro _ hwf
  have hw : (encode (.tenqw d a b)).toNat = d.val * 2 ^ 21 + (a.val * 2 ^ 16 + (b.val * 2 ^ 11 + (1610612737))) := encode_val _ _ (show packWord 1610612737 [(d.val, 21), (a.val, 16), (b.val, 11)] = _ by simp only [packWord_cons, packWord_nil]) (by omega)
  generalize (encode (.tenqw d a b)).toNat = W at hw
  have h0 : fld W 26 6 = 24 := by unfold fld; omega
  have h1 : fld W 0 4 = 1 := by unfold fld; omega
  have h2 : fld W 21 5 = d.val := by unfold fld; omega
  have r2 := reg5_of d h2
  have h3 : fld W 16 5 = a.val := by unfold fld; omega
  have r3 := reg5_of a h3
  have h4 : fld W 11 5 = b.val := by unfold fld; omega
  have r4 := reg5_of b h4
  have h5 : fld W 4 7 = 0 := by unfold fld; omega
  rw [decode_major18 W h0]
  simp [decodeMajor18, whenZero, h1, r2, r3, r4, h5]
theorem RoundTrip.tabt (a : RegNum) : RoundTrip.Statement (.tabt a) := by
  intro _ hwf
  have hw : (encode (.tabt a)).toNat = a.val * 2 ^ 16 + (1610612739) := encode_val _ _ (show packWord 1610612739 [(a.val, 16)] = _ by simp only [packWord_cons, packWord_nil]) (by omega)
  generalize (encode (.tabt a)).toNat = W at hw
  have h0 : fld W 26 6 = 24 := by unfold fld; omega
  have h1 : fld W 0 4 = 3 := by unfold fld; omega
  have h2 : fld W 16 5 = a.val := by unfold fld; omega
  have r2 := reg5_of a h2
  have h3 : fld W 21 5 = 0 := by unfold fld; omega
  have h4 : fld W 11 5 = 0 := by unfold fld; omega
  have h5 : fld W 4 7 = 0 := by unfold fld; omega
  rw [decode_major18 W h0]
  simp [decodeMajor18, whenZero, h1, r2, h3, h4, h5]
theorem RoundTrip.tvt (d : RegNum) (sel : Fin 2) : RoundTrip.Statement (.tvt d sel) := by
  intro _ hwf
  have hw : (encode (.tvt d sel)).toNat = d.val * 2 ^ 21 + (sel.val * 2 ^ 16 + (1610612741)) := encode_val _ _ (show packWord 1610612741 [(d.val, 21), (sel.val, 16)] = _ by simp only [packWord_cons, packWord_nil]) (by omega)
  generalize (encode (.tvt d sel)).toNat = W at hw
  have h0 : fld W 26 6 = 24 := by unfold fld; omega
  have h1 : fld W 0 4 = 5 := by unfold fld; omega
  have h2 : fld W 16 5 = sel.val := by unfold fld; omega
  have h3 : fld W 21 5 = d.val := by unfold fld; omega
  have r3 := reg5_of d h3
  have h4 : fld W 11 5 = 0 := by unfold fld; omega
  have h5 : fld W 4 7 = 0 := by unfold fld; omega
  rw [decode_major18 W h0]
  simp [decodeMajor18, whenZero, h1, h2, r3, h4, h5]
theorem RoundTrip.csig (d : RegNum) (a : RegNum) (b : RegNum) : RoundTrip.Statement (.csig d a b) := by
  intro _ hwf
  have hw : (encode (.csig d a b)).toNat = d.val * 2 ^ 21 + (a.val * 2 ^ 16 + (b.val * 2 ^ 11 + (1610612742))) := encode_val _ _ (show packWord 1610612742 [(d.val, 21), (a.val, 16), (b.val, 11)] = _ by simp only [packWord_cons, packWord_nil]) (by omega)
  generalize (encode (.csig d a b)).toNat = W at hw
  have h0 : fld W 26 6 = 24 := by unfold fld; omega
  have h1 : fld W 0 4 = 6 := by unfold fld; omega
  have h2 : fld W 21 5 = d.val := by unfold fld; omega
  have r2 := reg5_of d h2
  have h3 : fld W 16 5 = a.val := by unfold fld; omega
  have r3 := reg5_of a h3
  have h4 : fld W 11 5 = b.val := by unfold fld; omega
  have r4 := reg5_of b h4
  have h5 : fld W 4 7 = 0 := by unfold fld; omega
  rw [decode_major18 W h0]
  simp [decodeMajor18, whenZero, h1, r2, r3, r4, h5]
theorem RoundTrip.garr (d : RegNum) : RoundTrip.Statement (.garr d) := by
  intro _ hwf
  have hw : (encode (.garr d)).toNat = d.val * 2 ^ 21 + (1677721600) := encode_val _ _ (show packWord 1677721600 [(d.val, 21)] = _ by simp only [packWord_cons, packWord_nil]) (by omega)
  generalize (encode (.garr d)).toNat = W at hw
  have h0 : fld W 26 6 = 25 := by unfold fld; omega
  have h1 : fld W 0 4 = 0 := by unfold fld; omega
  have h2 : fld W 21 5 = d.val := by unfold fld; omega
  have r2 := reg5_of d h2
  have h3 : fld W 16 5 = 0 := by unfold fld; omega
  have h4 : fld W 11 5 = 0 := by unfold fld; omega
  have h5 : fld W 4 7 = 0 := by unfold fld; omega
  rw [decode_major19 W h0]
  simp [decodeMajor19, whenZero, h1, r2, h3, h4, h5]
theorem RoundTrip.gwait (d : RegNum) : RoundTrip.Statement (.gwait d) := by
  intro _ hwf
  have hw : (encode (.gwait d)).toNat = d.val * 2 ^ 21 + (1677721601) := encode_val _ _ (show packWord 1677721601 [(d.val, 21)] = _ by simp only [packWord_cons, packWord_nil]) (by omega)
  generalize (encode (.gwait d)).toNat = W at hw
  have h0 : fld W 26 6 = 25 := by unfold fld; omega
  have h1 : fld W 0 4 = 1 := by unfold fld; omega
  have h2 : fld W 21 5 = d.val := by unfold fld; omega
  have r2 := reg5_of d h2
  have h3 : fld W 16 5 = 0 := by unfold fld; omega
  have h4 : fld W 11 5 = 0 := by unfold fld; omega
  have h5 : fld W 4 7 = 0 := by unfold fld; omega
  rw [decode_major19 W h0]
  simp [decodeMajor19, whenZero, h1, r2, h3, h4, h5]
theorem RoundTrip.gsync (d : RegNum) : RoundTrip.Statement (.gsync d) := by
  intro _ hwf
  have hw : (encode (.gsync d)).toNat = d.val * 2 ^ 21 + (1677721602) := encode_val _ _ (show packWord 1677721602 [(d.val, 21)] = _ by simp only [packWord_cons, packWord_nil]) (by omega)
  generalize (encode (.gsync d)).toNat = W at hw
  have h0 : fld W 26 6 = 25 := by unfold fld; omega
  have h1 : fld W 0 4 = 2 := by unfold fld; omega
  have h2 : fld W 21 5 = d.val := by unfold fld; omega
  have r2 := reg5_of d h2
  have h3 : fld W 16 5 = 0 := by unfold fld; omega
  have h4 : fld W 11 5 = 0 := by unfold fld; omega
  have h5 : fld W 4 7 = 0 := by unfold fld; omega
  rw [decode_major19 W h0]
  simp [decodeMajor19, whenZero, h1, r2, h3, h4, h5]
theorem RoundTrip.gexp (a : RegNum) : RoundTrip.Statement (.gexp a) := by
  intro _ hwf
  have hw : (encode (.gexp a)).toNat = a.val * 2 ^ 16 + (1677721603) := encode_val _ _ (show packWord 1677721603 [(a.val, 16)] = _ by simp only [packWord_cons, packWord_nil]) (by omega)
  generalize (encode (.gexp a)).toNat = W at hw
  have h0 : fld W 26 6 = 25 := by unfold fld; omega
  have h1 : fld W 0 4 = 3 := by unfold fld; omega
  have h2 : fld W 16 5 = a.val := by unfold fld; omega
  have r2 := reg5_of a h2
  have h3 : fld W 21 5 = 0 := by unfold fld; omega
  have h4 : fld W 11 5 = 0 := by unfold fld; omega
  have h5 : fld W 4 7 = 0 := by unfold fld; omega
  rw [decode_major19 W h0]
  simp [decodeMajor19, whenZero, h1, r2, h3, h4, h5]
theorem RoundTrip.grank (d : RegNum) (sel : Fin 5) : RoundTrip.Statement (.grank d sel) := by
  intro _ hwf
  have hw : (encode (.grank d sel)).toNat = d.val * 2 ^ 21 + (sel.val * 2 ^ 16 + (1677721604)) := encode_val _ _ (show packWord 1677721604 [(d.val, 21), (sel.val, 16)] = _ by simp only [packWord_cons, packWord_nil]) (by omega)
  generalize (encode (.grank d sel)).toNat = W at hw
  have h0 : fld W 26 6 = 25 := by unfold fld; omega
  have h1 : fld W 0 4 = 4 := by unfold fld; omega
  have h2 : fld W 16 5 = sel.val := by unfold fld; omega
  have h3 : fld W 21 5 = d.val := by unfold fld; omega
  have r3 := reg5_of d h3
  have h4 : fld W 11 5 = 0 := by unfold fld; omega
  have h5 : fld W 4 7 = 0 := by unfold fld; omega
  rw [decode_major19 W h0]
  simp [decodeMajor19, whenZero, h1, h2, r3, h4, h5]
theorem RoundTrip.rput (d : RegNum) (a : RegNum) (t : RegNum) (slot : Fin 15) (dir : Dir) : RoundTrip.Statement (.rput d a t slot dir) := by
  intro _ hwf
  have b_dir := Dir.code_lt dir
  have hw : (encode (.rput d a t slot dir)).toNat = d.val * 2 ^ 21 + (a.val * 2 ^ 16 + (t.val * 2 ^ 11 + (slot.val * 2 ^ 2 + (dir.code * 2 ^ 0 + (1744830464))))) := encode_val _ _ (show packWord 1744830464 [(d.val, 21), (a.val, 16), (t.val, 11), (slot.val, 2), (dir.code, 0)] = _ by simp only [packWord_cons, packWord_nil]) (by omega)
  generalize (encode (.rput d a t slot dir)).toNat = W at hw
  have h0 : fld W 26 6 = 26 := by unfold fld; omega
  have h1 : fld W 6 5 = 0 := by unfold fld; omega
  have h2 : fld W 2 4 = slot.val := by unfold fld; omega
  have h3 : fld W 0 2 = dir.code := by unfold fld; omega
  have h4 : fld W 21 5 = d.val := by unfold fld; omega
  have r4 := reg5_of d h4
  have h5 : fld W 16 5 = a.val := by unfold fld; omega
  have r5 := reg5_of a h5
  have h6 : fld W 11 5 = t.val := by unfold fld; omega
  have r6 := reg5_of t h6
  rw [decode_major1A W h0]
  simp [decodeMajor1A, h1, h2, h3, r4, r5, r6]
theorem RoundTrip.rtake (d : RegNum) : RoundTrip.Statement (.rtake d) := by
  intro _ hwf
  have hw : (encode (.rtake d)).toNat = d.val * 2 ^ 21 + (1744830528) := encode_val _ _ (show packWord 1744830528 [(d.val, 21)] = _ by simp only [packWord_cons, packWord_nil]) (by omega)
  generalize (encode (.rtake d)).toNat = W at hw
  have h0 : fld W 26 6 = 26 := by unfold fld; omega
  have h1 : fld W 6 5 = 1 := by unfold fld; omega
  have h2 : fld W 21 5 = d.val := by unfold fld; omega
  have r2 := reg5_of d h2
  have h3 : fld W 16 5 = 0 := by unfold fld; omega
  have h4 : fld W 11 5 = 0 := by unfold fld; omega
  have h5 : fld W 0 6 = 0 := by unfold fld; omega
  rw [decode_major1A W h0]
  simp [decodeMajor1A, whenZero, h1, r2, h3, h4, h5]
theorem RoundTrip.rpres (d : RegNum) (a : RegNum) : RoundTrip.Statement (.rpres d a) := by
  intro _ hwf
  have hw : (encode (.rpres d a)).toNat = d.val * 2 ^ 21 + (a.val * 2 ^ 16 + (1744830592)) := encode_val _ _ (show packWord 1744830592 [(d.val, 21), (a.val, 16)] = _ by simp only [packWord_cons, packWord_nil]) (by omega)
  generalize (encode (.rpres d a)).toNat = W at hw
  have h0 : fld W 26 6 = 26 := by unfold fld; omega
  have h1 : fld W 6 5 = 2 := by unfold fld; omega
  have h2 : fld W 21 5 = d.val := by unfold fld; omega
  have r2 := reg5_of d h2
  have h3 : fld W 16 5 = a.val := by unfold fld; omega
  have r3 := reg5_of a h3
  have h4 : fld W 11 5 = 0 := by unfold fld; omega
  have h5 : fld W 0 6 = 0 := by unfold fld; omega
  rw [decode_major1A W h0]
  simp [decodeMajor1A, whenZero, h1, r2, r3, h4, h5]
theorem RoundTrip.vadd (d : RegNum) (a : RegNum) (b : RegNum) (t : VType) (mode : SatMode) : RoundTrip.Statement (.vadd d a b t mode) := by
  intro _ hwf
  have b_t := VType.code_lt t
  have b_mode := SatMode.code_lt mode
  have hw : (encode (.vadd d a b t mode)).toNat = d.val * 2 ^ 21 + (a.val * 2 ^ 16 + (b.val * 2 ^ 11 + (t.code * 2 ^ 3 + (mode.code * 2 ^ 6 + (2147483648))))) := encode_val _ _ (show packWord 2147483648 [(d.val, 21), (a.val, 16), (b.val, 11), (t.code, 3), (mode.code, 6)] = _ by simp only [packWord_cons, packWord_nil]) (by omega)
  generalize (encode (.vadd d a b t mode)).toNat = W at hw
  have h0 : fld W 26 6 = 32 := by unfold fld; omega
  have h1 : fld W 0 3 = 0 := by unfold fld; omega
  have h2 : fld W 3 3 = t.code := by unfold fld; omega
  have h3 : fld W 6 2 = mode.code := by unfold fld; omega
  have h4 : fld W 21 5 = d.val := by unfold fld; omega
  have r4 := reg5_of d h4
  have h5 : fld W 16 5 = a.val := by unfold fld; omega
  have r5 := reg5_of a h5
  have h6 : fld W 11 5 = b.val := by unfold fld; omega
  have r6 := reg5_of b h6
  have h7 : fld W 8 3 = 0 := by unfold fld; omega
  rw [decode_major20 W h0]
  have q := sat_float hwf
  simp [decodeMajor20, whenZero, h1, h2, h3, r4, r5, r6, h7, q]
theorem RoundTrip.vsub (d : RegNum) (a : RegNum) (b : RegNum) (t : VType) (mode : SatMode) : RoundTrip.Statement (.vsub d a b t mode) := by
  intro _ hwf
  have b_t := VType.code_lt t
  have b_mode := SatMode.code_lt mode
  have hw : (encode (.vsub d a b t mode)).toNat = d.val * 2 ^ 21 + (a.val * 2 ^ 16 + (b.val * 2 ^ 11 + (t.code * 2 ^ 3 + (mode.code * 2 ^ 6 + (2147483649))))) := encode_val _ _ (show packWord 2147483649 [(d.val, 21), (a.val, 16), (b.val, 11), (t.code, 3), (mode.code, 6)] = _ by simp only [packWord_cons, packWord_nil]) (by omega)
  generalize (encode (.vsub d a b t mode)).toNat = W at hw
  have h0 : fld W 26 6 = 32 := by unfold fld; omega
  have h1 : fld W 0 3 = 1 := by unfold fld; omega
  have h2 : fld W 3 3 = t.code := by unfold fld; omega
  have h3 : fld W 6 2 = mode.code := by unfold fld; omega
  have h4 : fld W 21 5 = d.val := by unfold fld; omega
  have r4 := reg5_of d h4
  have h5 : fld W 16 5 = a.val := by unfold fld; omega
  have r5 := reg5_of a h5
  have h6 : fld W 11 5 = b.val := by unfold fld; omega
  have r6 := reg5_of b h6
  have h7 : fld W 8 3 = 0 := by unfold fld; omega
  rw [decode_major20 W h0]
  have q := sat_float hwf
  simp [decodeMajor20, whenZero, h1, h2, h3, r4, r5, r6, h7, q]
theorem RoundTrip.vmul (d : RegNum) (a : RegNum) (b : RegNum) (t : VType) (mode : SatMode) : RoundTrip.Statement (.vmul d a b t mode) := by
  intro _ hwf
  have b_t := VType.code_lt t
  have b_mode := SatMode.code_lt mode
  have hw : (encode (.vmul d a b t mode)).toNat = d.val * 2 ^ 21 + (a.val * 2 ^ 16 + (b.val * 2 ^ 11 + (t.code * 2 ^ 3 + (mode.code * 2 ^ 6 + (2147483650))))) := encode_val _ _ (show packWord 2147483650 [(d.val, 21), (a.val, 16), (b.val, 11), (t.code, 3), (mode.code, 6)] = _ by simp only [packWord_cons, packWord_nil]) (by omega)
  generalize (encode (.vmul d a b t mode)).toNat = W at hw
  have h0 : fld W 26 6 = 32 := by unfold fld; omega
  have h1 : fld W 0 3 = 2 := by unfold fld; omega
  have h2 : fld W 3 3 = t.code := by unfold fld; omega
  have h3 : fld W 6 2 = mode.code := by unfold fld; omega
  have h4 : fld W 21 5 = d.val := by unfold fld; omega
  have r4 := reg5_of d h4
  have h5 : fld W 16 5 = a.val := by unfold fld; omega
  have r5 := reg5_of a h5
  have h6 : fld W 11 5 = b.val := by unfold fld; omega
  have r6 := reg5_of b h6
  have h7 : fld W 8 3 = 0 := by unfold fld; omega
  rw [decode_major20 W h0]
  have q := sat_float hwf
  simp [decodeMajor20, whenZero, h1, h2, h3, r4, r5, r6, h7, q]
theorem RoundTrip.vfma (d : RegNum) (a : RegNum) (b : RegNum) (c : RegNum) (t : VType) : RoundTrip.Statement (.vfma d a b c t) := by
  intro _ hwf
  have b_t := VType.code_lt t
  have hw : (encode (.vfma d a b c t)).toNat = d.val * 2 ^ 21 + (a.val * 2 ^ 16 + (b.val * 2 ^ 11 + (c.val * 2 ^ 6 + (t.code * 2 ^ 3 + (2147483651))))) := encode_val _ _ (show packWord 2147483651 [(d.val, 21), (a.val, 16), (b.val, 11), (c.val, 6), (t.code, 3)] = _ by simp only [packWord_cons, packWord_nil]) (by omega)
  generalize (encode (.vfma d a b c t)).toNat = W at hw
  have h0 : fld W 26 6 = 32 := by unfold fld; omega
  have h1 : fld W 0 3 = 3 := by unfold fld; omega
  have h2 : fld W 3 3 = t.code := by unfold fld; omega
  have h3 : fld W 21 5 = d.val := by unfold fld; omega
  have r3 := reg5_of d h3
  have h4 : fld W 16 5 = a.val := by unfold fld; omega
  have r4 := reg5_of a h4
  have h5 : fld W 11 5 = b.val := by unfold fld; omega
  have r5 := reg5_of b h5
  have h6 : fld W 6 5 = c.val := by unfold fld; omega
  have r6 := reg5_of c h6
  rw [decode_major20 W h0]
  simp [decodeMajor20, h1, h2, r3, r4, r5, r6]
theorem RoundTrip.vfms (d : RegNum) (a : RegNum) (b : RegNum) (c : RegNum) (t : VType) : RoundTrip.Statement (.vfms d a b c t) := by
  intro _ hwf
  have b_t := VType.code_lt t
  have hw : (encode (.vfms d a b c t)).toNat = d.val * 2 ^ 21 + (a.val * 2 ^ 16 + (b.val * 2 ^ 11 + (c.val * 2 ^ 6 + (t.code * 2 ^ 3 + (2147483652))))) := encode_val _ _ (show packWord 2147483652 [(d.val, 21), (a.val, 16), (b.val, 11), (c.val, 6), (t.code, 3)] = _ by simp only [packWord_cons, packWord_nil]) (by omega)
  generalize (encode (.vfms d a b c t)).toNat = W at hw
  have h0 : fld W 26 6 = 32 := by unfold fld; omega
  have h1 : fld W 0 3 = 4 := by unfold fld; omega
  have h2 : fld W 3 3 = t.code := by unfold fld; omega
  have h3 : fld W 21 5 = d.val := by unfold fld; omega
  have r3 := reg5_of d h3
  have h4 : fld W 16 5 = a.val := by unfold fld; omega
  have r4 := reg5_of a h4
  have h5 : fld W 11 5 = b.val := by unfold fld; omega
  have r5 := reg5_of b h5
  have h6 : fld W 6 5 = c.val := by unfold fld; omega
  have r6 := reg5_of c h6
  rw [decode_major20 W h0]
  simp [decodeMajor20, h1, h2, r3, r4, r5, r6]
theorem RoundTrip.vdot (d : RegNum) (a : RegNum) (b : RegNum) (c : RegNum) (t : VType) : RoundTrip.Statement (.vdot d a b c t) := by
  intro _ hwf
  have b_t := VType.code_lt t
  have hw : (encode (.vdot d a b c t)).toNat = d.val * 2 ^ 21 + (a.val * 2 ^ 16 + (b.val * 2 ^ 11 + (c.val * 2 ^ 6 + (t.code * 2 ^ 3 + (2147483653))))) := encode_val _ _ (show packWord 2147483653 [(d.val, 21), (a.val, 16), (b.val, 11), (c.val, 6), (t.code, 3)] = _ by simp only [packWord_cons, packWord_nil]) (by omega)
  generalize (encode (.vdot d a b c t)).toNat = W at hw
  have h0 : fld W 26 6 = 32 := by unfold fld; omega
  have h1 : fld W 0 3 = 5 := by unfold fld; omega
  have h2 : fld W 3 3 = t.code := by unfold fld; omega
  have h3 : fld W 21 5 = d.val := by unfold fld; omega
  have r3 := reg5_of d h3
  have h4 : fld W 16 5 = a.val := by unfold fld; omega
  have r4 := reg5_of a h4
  have h5 : fld W 11 5 = b.val := by unfold fld; omega
  have r5 := reg5_of b h5
  have h6 : fld W 6 5 = c.val := by unfold fld; omega
  have r6 := reg5_of c h6
  rw [decode_major20 W h0]
  have q := dot_code hwf
  simp [decodeMajor20, h1, h2, r3, r4, r5, r6, q]
theorem RoundTrip.vmin (d : RegNum) (a : RegNum) (b : RegNum) (t : VType) (nat : Bool) : RoundTrip.Statement (.vmin d a b t nat) := by
  intro _ hwf
  have b_t := VType.code_lt t
  have b_nat := boolLt nat
  have hw : (encode (.vmin d a b t nat)).toNat = d.val * 2 ^ 21 + (a.val * 2 ^ 16 + (b.val * 2 ^ 11 + (t.code * 2 ^ 3 + (nat.toNat * 2 ^ 9 + (2147483654))))) := encode_val _ _ (show packWord 2147483654 [(d.val, 21), (a.val, 16), (b.val, 11), (t.code, 3), (nat.toNat, 9)] = _ by simp only [packWord_cons, packWord_nil]) (by omega)
  generalize (encode (.vmin d a b t nat)).toNat = W at hw
  have h0 : fld W 26 6 = 32 := by unfold fld; omega
  have h1 : fld W 0 3 = 6 := by unfold fld; omega
  have h2 : fld W 6 3 = 0 := by unfold fld; omega
  have h3 : fld W 3 3 = t.code := by unfold fld; omega
  have h4 : fld W 9 1 = nat.toNat := by unfold fld; omega
  have h5 : fld W 21 5 = d.val := by unfold fld; omega
  have r5 := reg5_of d h5
  have h6 : fld W 16 5 = a.val := by unfold fld; omega
  have r6 := reg5_of a h6
  have h7 : fld W 11 5 = b.val := by unfold fld; omega
  have r7 := reg5_of b h7
  have h8 : fld W 10 1 = 0 := by unfold fld; omega
  rw [decode_major20 W h0]
  have q := nat_float hwf
  simp [decodeMajor20, decodeMajor20Sel6, whenZero, h1, h2, h3, h4, r5, r6, r7, h8, q]
theorem RoundTrip.vmax (d : RegNum) (a : RegNum) (b : RegNum) (t : VType) (nat : Bool) : RoundTrip.Statement (.vmax d a b t nat) := by
  intro _ hwf
  have b_t := VType.code_lt t
  have b_nat := boolLt nat
  have hw : (encode (.vmax d a b t nat)).toNat = d.val * 2 ^ 21 + (a.val * 2 ^ 16 + (b.val * 2 ^ 11 + (t.code * 2 ^ 3 + (nat.toNat * 2 ^ 9 + (2147483718))))) := encode_val _ _ (show packWord 2147483718 [(d.val, 21), (a.val, 16), (b.val, 11), (t.code, 3), (nat.toNat, 9)] = _ by simp only [packWord_cons, packWord_nil]) (by omega)
  generalize (encode (.vmax d a b t nat)).toNat = W at hw
  have h0 : fld W 26 6 = 32 := by unfold fld; omega
  have h1 : fld W 0 3 = 6 := by unfold fld; omega
  have h2 : fld W 6 3 = 1 := by unfold fld; omega
  have h3 : fld W 3 3 = t.code := by unfold fld; omega
  have h4 : fld W 9 1 = nat.toNat := by unfold fld; omega
  have h5 : fld W 21 5 = d.val := by unfold fld; omega
  have r5 := reg5_of d h5
  have h6 : fld W 16 5 = a.val := by unfold fld; omega
  have r6 := reg5_of a h6
  have h7 : fld W 11 5 = b.val := by unfold fld; omega
  have r7 := reg5_of b h7
  have h8 : fld W 10 1 = 0 := by unfold fld; omega
  rw [decode_major20 W h0]
  have q := nat_float hwf
  simp [decodeMajor20, decodeMajor20Sel6, whenZero, h1, h2, h3, h4, r5, r6, r7, h8, q]
theorem RoundTrip.vabs (d : RegNum) (a : RegNum) (t : VType) (nat : Bool) : RoundTrip.Statement (.vabs d a t nat) := by
  intro _ hwf
  have b_t := VType.code_lt t
  have b_nat := boolLt nat
  have hw : (encode (.vabs d a t nat)).toNat = d.val * 2 ^ 21 + (a.val * 2 ^ 16 + (t.code * 2 ^ 3 + (nat.toNat * 2 ^ 9 + (2147483782)))) := encode_val _ _ (show packWord 2147483782 [(d.val, 21), (a.val, 16), (t.code, 3), (nat.toNat, 9)] = _ by simp only [packWord_cons, packWord_nil]) (by omega)
  generalize (encode (.vabs d a t nat)).toNat = W at hw
  have h0 : fld W 26 6 = 32 := by unfold fld; omega
  have h1 : fld W 0 3 = 6 := by unfold fld; omega
  have h2 : fld W 6 3 = 2 := by unfold fld; omega
  have h3 : fld W 3 3 = t.code := by unfold fld; omega
  have h4 : fld W 9 1 = nat.toNat := by unfold fld; omega
  have h5 : fld W 21 5 = d.val := by unfold fld; omega
  have r5 := reg5_of d h5
  have h6 : fld W 16 5 = a.val := by unfold fld; omega
  have r6 := reg5_of a h6
  have h7 : fld W 11 5 = 0 := by unfold fld; omega
  have h8 : fld W 10 1 = 0 := by unfold fld; omega
  rw [decode_major20 W h0]
  have q := nat_float hwf
  simp [decodeMajor20, decodeMajor20Sel6, whenZero, h1, h2, h3, h4, r5, r6, h7, h8, q]
theorem RoundTrip.vneg (d : RegNum) (a : RegNum) (t : VType) (nat : Bool) : RoundTrip.Statement (.vneg d a t nat) := by
  intro _ hwf
  have b_t := VType.code_lt t
  have b_nat := boolLt nat
  have hw : (encode (.vneg d a t nat)).toNat = d.val * 2 ^ 21 + (a.val * 2 ^ 16 + (t.code * 2 ^ 3 + (nat.toNat * 2 ^ 9 + (2147483846)))) := encode_val _ _ (show packWord 2147483846 [(d.val, 21), (a.val, 16), (t.code, 3), (nat.toNat, 9)] = _ by simp only [packWord_cons, packWord_nil]) (by omega)
  generalize (encode (.vneg d a t nat)).toNat = W at hw
  have h0 : fld W 26 6 = 32 := by unfold fld; omega
  have h1 : fld W 0 3 = 6 := by unfold fld; omega
  have h2 : fld W 6 3 = 3 := by unfold fld; omega
  have h3 : fld W 3 3 = t.code := by unfold fld; omega
  have h4 : fld W 9 1 = nat.toNat := by unfold fld; omega
  have h5 : fld W 21 5 = d.val := by unfold fld; omega
  have r5 := reg5_of d h5
  have h6 : fld W 16 5 = a.val := by unfold fld; omega
  have r6 := reg5_of a h6
  have h7 : fld W 11 5 = 0 := by unfold fld; omega
  have h8 : fld W 10 1 = 0 := by unfold fld; omega
  rw [decode_major20 W h0]
  have q := nat_float hwf
  simp [decodeMajor20, decodeMajor20Sel6, whenZero, h1, h2, h3, h4, r5, r6, h7, h8, q]
theorem RoundTrip.vdiv (d : RegNum) (a : RegNum) (b : RegNum) (t : FType) : RoundTrip.Statement (.vdiv d a b t) := by
  intro _ hwf
  have b_t := FType.code_lt t
  have hw : (encode (.vdiv d a b t)).toNat = d.val * 2 ^ 21 + (a.val * 2 ^ 16 + (b.val * 2 ^ 11 + (t.code * 2 ^ 3 + (2147483910)))) := encode_val _ _ (show packWord 2147483910 [(d.val, 21), (a.val, 16), (b.val, 11), (t.code, 3)] = _ by simp only [packWord_cons, packWord_nil]) (by omega)
  generalize (encode (.vdiv d a b t)).toNat = W at hw
  have h0 : fld W 26 6 = 32 := by unfold fld; omega
  have h1 : fld W 0 3 = 6 := by unfold fld; omega
  have h2 : fld W 6 3 = 4 := by unfold fld; omega
  have h3 : fld W 3 3 = t.code := by unfold fld; omega
  have h4 : fld W 21 5 = d.val := by unfold fld; omega
  have r4 := reg5_of d h4
  have h5 : fld W 16 5 = a.val := by unfold fld; omega
  have r5 := reg5_of a h5
  have h6 : fld W 11 5 = b.val := by unfold fld; omega
  have r6 := reg5_of b h6
  have h7 : fld W 9 2 = 0 := by unfold fld; omega
  rw [decode_major20 W h0]
  simp [decodeMajor20, decodeMajor20Sel6, whenZero, h1, h2, h3, r4, r5, r6, h7]
theorem RoundTrip.vrsq (d : RegNum) (a : RegNum) (t : FType) : RoundTrip.Statement (.vrsq d a t) := by
  intro _ hwf
  have b_t := FType.code_lt t
  have hw : (encode (.vrsq d a t)).toNat = d.val * 2 ^ 21 + (a.val * 2 ^ 16 + (t.code * 2 ^ 3 + (2147483974))) := encode_val _ _ (show packWord 2147483974 [(d.val, 21), (a.val, 16), (t.code, 3)] = _ by simp only [packWord_cons, packWord_nil]) (by omega)
  generalize (encode (.vrsq d a t)).toNat = W at hw
  have h0 : fld W 26 6 = 32 := by unfold fld; omega
  have h1 : fld W 0 3 = 6 := by unfold fld; omega
  have h2 : fld W 6 3 = 5 := by unfold fld; omega
  have h3 : fld W 3 3 = t.code := by unfold fld; omega
  have h4 : fld W 21 5 = d.val := by unfold fld; omega
  have r4 := reg5_of d h4
  have h5 : fld W 16 5 = a.val := by unfold fld; omega
  have r5 := reg5_of a h5
  have h6 : fld W 11 5 = 0 := by unfold fld; omega
  have h7 : fld W 9 2 = 0 := by unfold fld; omega
  rw [decode_major20 W h0]
  simp [decodeMajor20, decodeMajor20Sel6, whenZero, h1, h2, h3, r4, r5, h6, h7]
theorem RoundTrip.vreda (d : RegNum) (a : RegNum) (b : RegNum) (t : VType) (nat : Bool) : RoundTrip.Statement (.vreda d a b t nat) := by
  intro _ hwf
  have b_t := VType.code_lt t
  have b_nat := boolLt nat
  have hw : (encode (.vreda d a b t nat)).toNat = d.val * 2 ^ 21 + (a.val * 2 ^ 16 + (b.val * 2 ^ 11 + (t.code * 2 ^ 3 + (nat.toNat * 2 ^ 9 + (2147484038))))) := encode_val _ _ (show packWord 2147484038 [(d.val, 21), (a.val, 16), (b.val, 11), (t.code, 3), (nat.toNat, 9)] = _ by simp only [packWord_cons, packWord_nil]) (by omega)
  generalize (encode (.vreda d a b t nat)).toNat = W at hw
  have h0 : fld W 26 6 = 32 := by unfold fld; omega
  have h1 : fld W 0 3 = 6 := by unfold fld; omega
  have h2 : fld W 6 3 = 6 := by unfold fld; omega
  have h3 : fld W 3 3 = t.code := by unfold fld; omega
  have h4 : fld W 9 1 = nat.toNat := by unfold fld; omega
  have h5 : fld W 21 5 = d.val := by unfold fld; omega
  have r5 := reg5_of d h5
  have h6 : fld W 16 5 = a.val := by unfold fld; omega
  have r6 := reg5_of a h6
  have h7 : fld W 11 5 = b.val := by unfold fld; omega
  have r7 := reg5_of b h7
  have h8 : fld W 10 1 = 0 := by unfold fld; omega
  rw [decode_major20 W h0]
  have q := nat_float hwf
  simp [decodeMajor20, decodeMajor20Sel6, whenZero, h1, h2, h3, h4, r5, r6, r7, h8, q]
theorem RoundTrip.vredm (d : RegNum) (a : RegNum) (b : RegNum) (t : VType) (nat : Bool) : RoundTrip.Statement (.vredm d a b t nat) := by
  intro _ hwf
  have b_t := VType.code_lt t
  have b_nat := boolLt nat
  have hw : (encode (.vredm d a b t nat)).toNat = d.val * 2 ^ 21 + (a.val * 2 ^ 16 + (b.val * 2 ^ 11 + (t.code * 2 ^ 3 + (nat.toNat * 2 ^ 9 + (2147484102))))) := encode_val _ _ (show packWord 2147484102 [(d.val, 21), (a.val, 16), (b.val, 11), (t.code, 3), (nat.toNat, 9)] = _ by simp only [packWord_cons, packWord_nil]) (by omega)
  generalize (encode (.vredm d a b t nat)).toNat = W at hw
  have h0 : fld W 26 6 = 32 := by unfold fld; omega
  have h1 : fld W 0 3 = 6 := by unfold fld; omega
  have h2 : fld W 6 3 = 7 := by unfold fld; omega
  have h3 : fld W 3 3 = t.code := by unfold fld; omega
  have h4 : fld W 9 1 = nat.toNat := by unfold fld; omega
  have h5 : fld W 21 5 = d.val := by unfold fld; omega
  have r5 := reg5_of d h5
  have h6 : fld W 16 5 = a.val := by unfold fld; omega
  have r6 := reg5_of a h6
  have h7 : fld W 11 5 = b.val := by unfold fld; omega
  have r7 := reg5_of b h7
  have h8 : fld W 10 1 = 0 := by unfold fld; omega
  rw [decode_major20 W h0]
  have q := nat_float hwf
  simp [decodeMajor20, decodeMajor20Sel6, whenZero, h1, h2, h3, h4, r5, r6, r7, h8, q]
theorem RoundTrip.vcmp (d : RegNum) (a : RegNum) (b : RegNum) (t : VType) (p : Pred) (nat : Bool) : RoundTrip.Statement (.vcmp d a b t p nat) := by
  intro _ hwf
  have b_t := VType.code_lt t
  have b_p := Pred.code_lt p
  have b_nat := boolLt nat
  have hw : (encode (.vcmp d a b t p nat)).toNat = d.val * 2 ^ 21 + (a.val * 2 ^ 16 + (b.val * 2 ^ 11 + (t.code * 2 ^ 3 + (p.code * 2 ^ 6 + (nat.toNat * 2 ^ 9 + (2147483655)))))) := encode_val _ _ (show packWord 2147483655 [(d.val, 21), (a.val, 16), (b.val, 11), (t.code, 3), (p.code, 6), (nat.toNat, 9)] = _ by simp only [packWord_cons, packWord_nil]) (by omega)
  generalize (encode (.vcmp d a b t p nat)).toNat = W at hw
  have h0 : fld W 26 6 = 32 := by unfold fld; omega
  have h1 : fld W 0 3 = 7 := by unfold fld; omega
  have h2 : fld W 6 3 = p.code := by unfold fld; omega
  have h3 : fld W 3 3 = t.code := by unfold fld; omega
  have h4 : fld W 9 1 = nat.toNat := by unfold fld; omega
  have h5 : fld W 21 5 = d.val := by unfold fld; omega
  have r5 := reg5_of d h5
  have h6 : fld W 16 5 = a.val := by unfold fld; omega
  have r6 := reg5_of a h6
  have h7 : fld W 11 5 = b.val := by unfold fld; omega
  have r7 := reg5_of b h7
  have h8 : fld W 10 1 = 0 := by unfold fld; omega
  rw [decode_major20 W h0]
  have hn := (Bool.and_eq_true _ _ ▸ hwf : _ ∧ _)
  have q := nat_float hn.1
  have q2 := pred_float hn.2
  simp [decodeMajor20, whenZero, h1, h2, h3, h4, r5, r6, r7, h8, q, q2]
theorem RoundTrip.vand (d : RegNum) (a : RegNum) (b : RegNum) : RoundTrip.Statement (.vand d a b) := by
  intro _ hwf
  have hw : (encode (.vand d a b)).toNat = d.val * 2 ^ 21 + (a.val * 2 ^ 16 + (b.val * 2 ^ 11 + (2214592512))) := encode_val _ _ (show packWord 2214592512 [(d.val, 21), (a.val, 16), (b.val, 11)] = _ by simp only [packWord_cons, packWord_nil]) (by omega)
  generalize (encode (.vand d a b)).toNat = W at hw
  have h0 : fld W 26 6 = 33 := by unfold fld; omega
  have h1 : fld W 0 3 = 0 := by unfold fld; omega
  have h2 : fld W 21 5 = d.val := by unfold fld; omega
  have r2 := reg5_of d h2
  have h3 : fld W 16 5 = a.val := by unfold fld; omega
  have r3 := reg5_of a h3
  have h4 : fld W 11 5 = b.val := by unfold fld; omega
  have r4 := reg5_of b h4
  have h5 : fld W 6 5 = 0 := by unfold fld; omega
  have h6 : fld W 3 3 = 0 := by unfold fld; omega
  rw [decode_major21 W h0]
  simp [decodeMajor21, whenZero, h1, r2, r3, r4, h5, h6]
theorem RoundTrip.vor (d : RegNum) (a : RegNum) (b : RegNum) : RoundTrip.Statement (.vor d a b) := by
  intro _ hwf
  have hw : (encode (.vor d a b)).toNat = d.val * 2 ^ 21 + (a.val * 2 ^ 16 + (b.val * 2 ^ 11 + (2214592513))) := encode_val _ _ (show packWord 2214592513 [(d.val, 21), (a.val, 16), (b.val, 11)] = _ by simp only [packWord_cons, packWord_nil]) (by omega)
  generalize (encode (.vor d a b)).toNat = W at hw
  have h0 : fld W 26 6 = 33 := by unfold fld; omega
  have h1 : fld W 0 3 = 1 := by unfold fld; omega
  have h2 : fld W 21 5 = d.val := by unfold fld; omega
  have r2 := reg5_of d h2
  have h3 : fld W 16 5 = a.val := by unfold fld; omega
  have r3 := reg5_of a h3
  have h4 : fld W 11 5 = b.val := by unfold fld; omega
  have r4 := reg5_of b h4
  have h5 : fld W 6 5 = 0 := by unfold fld; omega
  have h6 : fld W 3 3 = 0 := by unfold fld; omega
  rw [decode_major21 W h0]
  simp [decodeMajor21, whenZero, h1, r2, r3, r4, h5, h6]
theorem RoundTrip.vxor (d : RegNum) (a : RegNum) (b : RegNum) : RoundTrip.Statement (.vxor d a b) := by
  intro _ hwf
  have hw : (encode (.vxor d a b)).toNat = d.val * 2 ^ 21 + (a.val * 2 ^ 16 + (b.val * 2 ^ 11 + (2214592514))) := encode_val _ _ (show packWord 2214592514 [(d.val, 21), (a.val, 16), (b.val, 11)] = _ by simp only [packWord_cons, packWord_nil]) (by omega)
  generalize (encode (.vxor d a b)).toNat = W at hw
  have h0 : fld W 26 6 = 33 := by unfold fld; omega
  have h1 : fld W 0 3 = 2 := by unfold fld; omega
  have h2 : fld W 21 5 = d.val := by unfold fld; omega
  have r2 := reg5_of d h2
  have h3 : fld W 16 5 = a.val := by unfold fld; omega
  have r3 := reg5_of a h3
  have h4 : fld W 11 5 = b.val := by unfold fld; omega
  have r4 := reg5_of b h4
  have h5 : fld W 6 5 = 0 := by unfold fld; omega
  have h6 : fld W 3 3 = 0 := by unfold fld; omega
  rw [decode_major21 W h0]
  simp [decodeMajor21, whenZero, h1, r2, r3, r4, h5, h6]
theorem RoundTrip.vsel (d : RegNum) (a : RegNum) (b : RegNum) (c : RegNum) : RoundTrip.Statement (.vsel d a b c) := by
  intro _ hwf
  have hw : (encode (.vsel d a b c)).toNat = d.val * 2 ^ 21 + (a.val * 2 ^ 16 + (b.val * 2 ^ 11 + (c.val * 2 ^ 6 + (2214592515)))) := encode_val _ _ (show packWord 2214592515 [(d.val, 21), (a.val, 16), (b.val, 11), (c.val, 6)] = _ by simp only [packWord_cons, packWord_nil]) (by omega)
  generalize (encode (.vsel d a b c)).toNat = W at hw
  have h0 : fld W 26 6 = 33 := by unfold fld; omega
  have h1 : fld W 0 3 = 3 := by unfold fld; omega
  have h2 : fld W 21 5 = d.val := by unfold fld; omega
  have r2 := reg5_of d h2
  have h3 : fld W 16 5 = a.val := by unfold fld; omega
  have r3 := reg5_of a h3
  have h4 : fld W 11 5 = b.val := by unfold fld; omega
  have r4 := reg5_of b h4
  have h5 : fld W 6 5 = c.val := by unfold fld; omega
  have r5 := reg5_of c h5
  have h6 : fld W 3 3 = 0 := by unfold fld; omega
  rw [decode_major21 W h0]
  simp [decodeMajor21, whenZero, h1, r2, r3, r4, r5, h6]
theorem RoundTrip.vperm (d : RegNum) (a : RegNum) (b : RegNum) (c : RegNum) : RoundTrip.Statement (.vperm d a b c) := by
  intro _ hwf
  have hw : (encode (.vperm d a b c)).toNat = d.val * 2 ^ 21 + (a.val * 2 ^ 16 + (b.val * 2 ^ 11 + (c.val * 2 ^ 6 + (2214592516)))) := encode_val _ _ (show packWord 2214592516 [(d.val, 21), (a.val, 16), (b.val, 11), (c.val, 6)] = _ by simp only [packWord_cons, packWord_nil]) (by omega)
  generalize (encode (.vperm d a b c)).toNat = W at hw
  have h0 : fld W 26 6 = 33 := by unfold fld; omega
  have h1 : fld W 0 3 = 4 := by unfold fld; omega
  have h2 : fld W 21 5 = d.val := by unfold fld; omega
  have r2 := reg5_of d h2
  have h3 : fld W 16 5 = a.val := by unfold fld; omega
  have r3 := reg5_of a h3
  have h4 : fld W 11 5 = b.val := by unfold fld; omega
  have r4 := reg5_of b h4
  have h5 : fld W 6 5 = c.val := by unfold fld; omega
  have r5 := reg5_of c h5
  have h6 : fld W 3 3 = 0 := by unfold fld; omega
  rw [decode_major21 W h0]
  simp [decodeMajor21, whenZero, h1, r2, r3, r4, r5, h6]
theorem RoundTrip.vshl (d : RegNum) (a : RegNum) (b : RegNum) (t : VType) : RoundTrip.Statement (.vshl d a b t) := by
  intro _ hwf
  have b_t := VType.code_lt t
  have hw : (encode (.vshl d a b t)).toNat = d.val * 2 ^ 21 + (a.val * 2 ^ 16 + (b.val * 2 ^ 11 + (t.code * 2 ^ 3 + (2214592517)))) := encode_val _ _ (show packWord 2214592517 [(d.val, 21), (a.val, 16), (b.val, 11), (t.code, 3)] = _ by simp only [packWord_cons, packWord_nil]) (by omega)
  generalize (encode (.vshl d a b t)).toNat = W at hw
  have h0 : fld W 26 6 = 33 := by unfold fld; omega
  have h1 : fld W 0 3 = 5 := by unfold fld; omega
  have h2 : fld W 6 2 = 0 := by unfold fld; omega
  have h3 : fld W 3 3 = t.code := by unfold fld; omega
  have h4 : fld W 21 5 = d.val := by unfold fld; omega
  have r4 := reg5_of d h4
  have h5 : fld W 16 5 = a.val := by unfold fld; omega
  have r5 := reg5_of a h5
  have h6 : fld W 11 5 = b.val := by unfold fld; omega
  have r6 := reg5_of b h6
  have h7 : fld W 8 3 = 0 := by unfold fld; omega
  rw [decode_major21 W h0]
  simp [decodeMajor21, decodeMajor21Sel5, whenZero, h1, h2, h3, r4, r5, r6, h7]
theorem RoundTrip.vshr (d : RegNum) (a : RegNum) (b : RegNum) (t : VType) : RoundTrip.Statement (.vshr d a b t) := by
  intro _ hwf
  have b_t := VType.code_lt t
  have hw : (encode (.vshr d a b t)).toNat = d.val * 2 ^ 21 + (a.val * 2 ^ 16 + (b.val * 2 ^ 11 + (t.code * 2 ^ 3 + (2214592581)))) := encode_val _ _ (show packWord 2214592581 [(d.val, 21), (a.val, 16), (b.val, 11), (t.code, 3)] = _ by simp only [packWord_cons, packWord_nil]) (by omega)
  generalize (encode (.vshr d a b t)).toNat = W at hw
  have h0 : fld W 26 6 = 33 := by unfold fld; omega
  have h1 : fld W 0 3 = 5 := by unfold fld; omega
  have h2 : fld W 6 2 = 1 := by unfold fld; omega
  have h3 : fld W 3 3 = t.code := by unfold fld; omega
  have h4 : fld W 21 5 = d.val := by unfold fld; omega
  have r4 := reg5_of d h4
  have h5 : fld W 16 5 = a.val := by unfold fld; omega
  have r5 := reg5_of a h5
  have h6 : fld W 11 5 = b.val := by unfold fld; omega
  have r6 := reg5_of b h6
  have h7 : fld W 8 3 = 0 := by unfold fld; omega
  rw [decode_major21 W h0]
  simp [decodeMajor21, decodeMajor21Sel5, whenZero, h1, h2, h3, r4, r5, r6, h7]
theorem RoundTrip.vsha (d : RegNum) (a : RegNum) (b : RegNum) (t : VType) : RoundTrip.Statement (.vsha d a b t) := by
  intro _ hwf
  have b_t := VType.code_lt t
  have hw : (encode (.vsha d a b t)).toNat = d.val * 2 ^ 21 + (a.val * 2 ^ 16 + (b.val * 2 ^ 11 + (t.code * 2 ^ 3 + (2214592645)))) := encode_val _ _ (show packWord 2214592645 [(d.val, 21), (a.val, 16), (b.val, 11), (t.code, 3)] = _ by simp only [packWord_cons, packWord_nil]) (by omega)
  generalize (encode (.vsha d a b t)).toNat = W at hw
  have h0 : fld W 26 6 = 33 := by unfold fld; omega
  have h1 : fld W 0 3 = 5 := by unfold fld; omega
  have h2 : fld W 6 2 = 2 := by unfold fld; omega
  have h3 : fld W 3 3 = t.code := by unfold fld; omega
  have h4 : fld W 21 5 = d.val := by unfold fld; omega
  have r4 := reg5_of d h4
  have h5 : fld W 16 5 = a.val := by unfold fld; omega
  have r5 := reg5_of a h5
  have h6 : fld W 11 5 = b.val := by unfold fld; omega
  have r6 := reg5_of b h6
  have h7 : fld W 8 3 = 0 := by unfold fld; omega
  rw [decode_major21 W h0]
  simp [decodeMajor21, decodeMajor21Sel5, whenZero, h1, h2, h3, r4, r5, r6, h7]
theorem RoundTrip.vsplt (d : RegNum) (a : RegNum) (t : VType) (lane : Fin 32) : RoundTrip.Statement (.vsplt d a t lane) := by
  intro _ hwf
  have b_t := VType.code_lt t
  have hw : (encode (.vsplt d a t lane)).toNat = d.val * 2 ^ 21 + (a.val * 2 ^ 16 + (t.code * 2 ^ 3 + (lane.val * 2 ^ 6 + (2214592518)))) := encode_val _ _ (show packWord 2214592518 [(d.val, 21), (a.val, 16), (t.code, 3), (lane.val, 6)] = _ by simp only [packWord_cons, packWord_nil]) (by omega)
  generalize (encode (.vsplt d a t lane)).toNat = W at hw
  have h0 : fld W 26 6 = 33 := by unfold fld; omega
  have h1 : fld W 0 3 = 6 := by unfold fld; omega
  have h2 : fld W 3 3 = t.code := by unfold fld; omega
  have h3 : fld W 6 5 = lane.val := by unfold fld; omega
  have r3 := reg5_of lane h3
  have h4 : fld W 21 5 = d.val := by unfold fld; omega
  have r4 := reg5_of d h4
  have h5 : fld W 16 5 = a.val := by unfold fld; omega
  have r5 := reg5_of a h5
  have h6 : fld W 11 5 = 0 := by unfold fld; omega
  rw [decode_major21 W h0]
  have q := lane_lt hwf
  simp [decodeMajor21, whenZero, h1, h2, h3, r3, r4, r5, h6, q]
theorem RoundTrip.vins (d : RegNum) (a : RegNum) (t : VType) (lane : Fin 32) : RoundTrip.Statement (.vins d a t lane) := by
  intro _ hwf
  have b_t := VType.code_lt t
  have hw : (encode (.vins d a t lane)).toNat = d.val * 2 ^ 21 + (a.val * 2 ^ 16 + (t.code * 2 ^ 3 + (lane.val * 2 ^ 6 + (2214592519)))) := encode_val _ _ (show packWord 2214592519 [(d.val, 21), (a.val, 16), (t.code, 3), (lane.val, 6)] = _ by simp only [packWord_cons, packWord_nil]) (by omega)
  generalize (encode (.vins d a t lane)).toNat = W at hw
  have h0 : fld W 26 6 = 33 := by unfold fld; omega
  have h1 : fld W 0 3 = 7 := by unfold fld; omega
  have h2 : fld W 11 5 = 0 := by unfold fld; omega
  have h3 : fld W 3 3 = t.code := by unfold fld; omega
  have h4 : fld W 6 5 = lane.val := by unfold fld; omega
  have r4 := reg5_of lane h4
  have h5 : fld W 21 5 = d.val := by unfold fld; omega
  have r5 := reg5_of d h5
  have h6 : fld W 16 5 = a.val := by unfold fld; omega
  have r6 := reg5_of a h6
  rw [decode_major21 W h0]
  have q := lane_lt hwf
  simp [decodeMajor21, decodeMajor21Sel7, h1, h2, h3, h4, r4, r5, r6, q]
theorem RoundTrip.vextSigned (d : RegNum) (a : RegNum) (t : VType) (lane : Fin 32) : RoundTrip.Statement (.vextSigned d a t lane) := by
  intro _ hwf
  have b_t := VType.code_lt t
  have hw : (encode (.vextSigned d a t lane)).toNat = d.val * 2 ^ 21 + (a.val * 2 ^ 16 + (t.code * 2 ^ 3 + (lane.val * 2 ^ 6 + (2214594567)))) := encode_val _ _ (show packWord 2214594567 [(d.val, 21), (a.val, 16), (t.code, 3), (lane.val, 6)] = _ by simp only [packWord_cons, packWord_nil]) (by omega)
  generalize (encode (.vextSigned d a t lane)).toNat = W at hw
  have h0 : fld W 26 6 = 33 := by unfold fld; omega
  have h1 : fld W 0 3 = 7 := by unfold fld; omega
  have h2 : fld W 11 5 = 1 := by unfold fld; omega
  have h3 : fld W 3 3 = t.code := by unfold fld; omega
  have h4 : fld W 6 5 = lane.val := by unfold fld; omega
  have r4 := reg5_of lane h4
  have h5 : fld W 21 5 = d.val := by unfold fld; omega
  have r5 := reg5_of d h5
  have h6 : fld W 16 5 = a.val := by unfold fld; omega
  have r6 := reg5_of a h6
  rw [decode_major21 W h0]
  have hn := (Bool.and_eq_true _ _ ▸ hwf : _ ∧ _)
  have q := lane_lt hn.1
  have q2 : t.isFloat = false := by simpa using hn.2
  simp [decodeMajor21, decodeMajor21Sel7, h1, h2, h3, h4, r4, r5, r6, q, q2]
theorem RoundTrip.vextNatural (d : RegNum) (a : RegNum) (t : VType) (lane : Fin 32) : RoundTrip.Statement (.vextNatural d a t lane) := by
  intro _ hwf
  have b_t := VType.code_lt t
  have hw : (encode (.vextNatural d a t lane)).toNat = d.val * 2 ^ 21 + (a.val * 2 ^ 16 + (t.code * 2 ^ 3 + (lane.val * 2 ^ 6 + (2214596615)))) := encode_val _ _ (show packWord 2214596615 [(d.val, 21), (a.val, 16), (t.code, 3), (lane.val, 6)] = _ by simp only [packWord_cons, packWord_nil]) (by omega)
  generalize (encode (.vextNatural d a t lane)).toNat = W at hw
  have h0 : fld W 26 6 = 33 := by unfold fld; omega
  have h1 : fld W 0 3 = 7 := by unfold fld; omega
  have h2 : fld W 11 5 = 2 := by unfold fld; omega
  have h3 : fld W 3 3 = t.code := by unfold fld; omega
  have h4 : fld W 6 5 = lane.val := by unfold fld; omega
  have r4 := reg5_of lane h4
  have h5 : fld W 21 5 = d.val := by unfold fld; omega
  have r5 := reg5_of d h5
  have h6 : fld W 16 5 = a.val := by unfold fld; omega
  have r6 := reg5_of a h6
  rw [decode_major21 W h0]
  have q := lane_lt hwf
  simp [decodeMajor21, decodeMajor21Sel7, h1, h2, h3, h4, r4, r5, r6, q]
theorem RoundTrip.vcvt (d : RegNum) (a : RegNum) (dt : NumType) (st : NumType) : RoundTrip.Statement (.vcvt d a dt st) := by
  intro _ hwf
  have b_dt := NumType.code_lt dt
  have b_st := NumType.code_lt st
  have hw : (encode (.vcvt d a dt st)).toNat = d.val * 2 ^ 21 + (a.val * 2 ^ 16 + (dt.code * 2 ^ 11 + (st.code * 2 ^ 6 + (2281701376)))) := encode_val _ _ (show packWord 2281701376 [(d.val, 21), (a.val, 16), (dt.code, 11), (st.code, 6)] = _ by simp only [packWord_cons, packWord_nil]) (by omega)
  generalize (encode (.vcvt d a dt st)).toNat = W at hw
  have h0 : fld W 26 6 = 34 := by unfold fld; omega
  have h1 : fld W 0 3 = 0 := by unfold fld; omega
  have h2 : fld W 11 5 = dt.code := by unfold fld; omega
  have h3 : fld W 6 5 = st.code := by unfold fld; omega
  have h4 : fld W 21 5 = d.val := by unfold fld; omega
  have r4 := reg5_of d h4
  have h5 : fld W 16 5 = a.val := by unfold fld; omega
  have r5 := reg5_of a h5
  have h6 : fld W 3 3 = 0 := by unfold fld; omega
  rw [decode_major22 W h0]
  simp [decodeMajor22, whenZero, h1, h2, h3, r4, r5, h6]
theorem RoundTrip.vdec (d : RegNum) (a : RegNum) (t : FType) (tbl : Fin 4) (four : Bool) : RoundTrip.Statement (.vdec d a t tbl four) := by
  intro _ hwf
  have b_t := FType.code_lt t
  have b_four := boolLt four
  have hw : (encode (.vdec d a t tbl four)).toNat = d.val * 2 ^ 21 + (a.val * 2 ^ 16 + (t.code * 2 ^ 3 + (tbl.val * 2 ^ 6 + (four.toNat * 2 ^ 8 + (2281701377))))) := encode_val _ _ (show packWord 2281701377 [(d.val, 21), (a.val, 16), (t.code, 3), (tbl.val, 6), (four.toNat, 8)] = _ by simp only [packWord_cons, packWord_nil]) (by omega)
  generalize (encode (.vdec d a t tbl four)).toNat = W at hw
  have h0 : fld W 26 6 = 34 := by unfold fld; omega
  have h1 : fld W 0 3 = 1 := by unfold fld; omega
  have h2 : fld W 3 3 = t.code := by unfold fld; omega
  have h3 : fld W 6 2 = tbl.val := by unfold fld; omega
  have h4 : fld W 8 1 = four.toNat := by unfold fld; omega
  have h5 : fld W 21 5 = d.val := by unfold fld; omega
  have r5 := reg5_of d h5
  have h6 : fld W 16 5 = a.val := by unfold fld; omega
  have r6 := reg5_of a h6
  have h7 : fld W 11 5 = 0 := by unfold fld; omega
  have h8 : fld W 9 2 = 0 := by unfold fld; omega
  rw [decode_major22 W h0]
  simp [decodeMajor22, whenZero, h1, h2, h3, h4, r5, r6, h7, h8]
theorem RoundTrip.venc (d : RegNum) (a : RegNum) (t : FType) (tbl : Fin 4) (four : Bool) : RoundTrip.Statement (.venc d a t tbl four) := by
  intro _ hwf
  have b_t := FType.code_lt t
  have b_four := boolLt four
  have hw : (encode (.venc d a t tbl four)).toNat = d.val * 2 ^ 21 + (a.val * 2 ^ 16 + (t.code * 2 ^ 3 + (tbl.val * 2 ^ 6 + (four.toNat * 2 ^ 8 + (2281701378))))) := encode_val _ _ (show packWord 2281701378 [(d.val, 21), (a.val, 16), (t.code, 3), (tbl.val, 6), (four.toNat, 8)] = _ by simp only [packWord_cons, packWord_nil]) (by omega)
  generalize (encode (.venc d a t tbl four)).toNat = W at hw
  have h0 : fld W 26 6 = 34 := by unfold fld; omega
  have h1 : fld W 0 3 = 2 := by unfold fld; omega
  have h2 : fld W 3 3 = t.code := by unfold fld; omega
  have h3 : fld W 6 2 = tbl.val := by unfold fld; omega
  have h4 : fld W 8 1 = four.toNat := by unfold fld; omega
  have h5 : fld W 21 5 = d.val := by unfold fld; omega
  have r5 := reg5_of d h5
  have h6 : fld W 16 5 = a.val := by unfold fld; omega
  have r6 := reg5_of a h6
  have h7 : fld W 11 5 = 0 := by unfold fld; omega
  have h8 : fld W 9 2 = 0 := by unfold fld; omega
  rw [decode_major22 W h0]
  simp [decodeMajor22, whenZero, h1, h2, h3, h4, r5, r6, h7, h8]
theorem RoundTrip.vscl (d : RegNum) (a : RegNum) (b : RegNum) (t : FType) : RoundTrip.Statement (.vscl d a b t) := by
  intro _ hwf
  have b_t := FType.code_lt t
  have hw : (encode (.vscl d a b t)).toNat = d.val * 2 ^ 21 + (a.val * 2 ^ 16 + (b.val * 2 ^ 11 + (t.code * 2 ^ 3 + (2281701379)))) := encode_val _ _ (show packWord 2281701379 [(d.val, 21), (a.val, 16), (b.val, 11), (t.code, 3)] = _ by simp only [packWord_cons, packWord_nil]) (by omega)
  generalize (encode (.vscl d a b t)).toNat = W at hw
  have h0 : fld W 26 6 = 34 := by unfold fld; omega
  have h1 : fld W 0 3 = 3 := by unfold fld; omega
  have h2 : fld W 6 2 = 0 := by unfold fld; omega
  have h3 : fld W 3 3 = t.code := by unfold fld; omega
  have h4 : fld W 21 5 = d.val := by unfold fld; omega
  have r4 := reg5_of d h4
  have h5 : fld W 16 5 = a.val := by unfold fld; omega
  have r5 := reg5_of a h5
  have h6 : fld W 11 5 = b.val := by unfold fld; omega
  have r6 := reg5_of b h6
  have h7 : fld W 8 3 = 0 := by unfold fld; omega
  rw [decode_major22 W h0]
  simp [decodeMajor22, decodeMajor22Sel3, whenZero, h1, h2, h3, r4, r5, r6, h7]
theorem RoundTrip.vsclE8m0 (d : RegNum) (a : RegNum) (b : RegNum) (t : FType) : RoundTrip.Statement (.vsclE8m0 d a b t) := by
  intro _ hwf
  have b_t := FType.code_lt t
  have hw : (encode (.vsclE8m0 d a b t)).toNat = d.val * 2 ^ 21 + (a.val * 2 ^ 16 + (b.val * 2 ^ 11 + (t.code * 2 ^ 3 + (2281701443)))) := encode_val _ _ (show packWord 2281701443 [(d.val, 21), (a.val, 16), (b.val, 11), (t.code, 3)] = _ by simp only [packWord_cons, packWord_nil]) (by omega)
  generalize (encode (.vsclE8m0 d a b t)).toNat = W at hw
  have h0 : fld W 26 6 = 34 := by unfold fld; omega
  have h1 : fld W 0 3 = 3 := by unfold fld; omega
  have h2 : fld W 6 2 = 1 := by unfold fld; omega
  have h3 : fld W 3 3 = t.code := by unfold fld; omega
  have h4 : fld W 21 5 = d.val := by unfold fld; omega
  have r4 := reg5_of d h4
  have h5 : fld W 16 5 = a.val := by unfold fld; omega
  have r5 := reg5_of a h5
  have h6 : fld W 11 5 = b.val := by unfold fld; omega
  have r6 := reg5_of b h6
  have h7 : fld W 8 3 = 0 := by unfold fld; omega
  rw [decode_major22 W h0]
  simp [decodeMajor22, decodeMajor22Sel3, whenZero, h1, h2, h3, r4, r5, r6, h7]
theorem RoundTrip.vsclSca (d : RegNum) (a : RegNum) (t : FType) : RoundTrip.Statement (.vsclSca d a t) := by
  intro _ hwf
  have b_t := FType.code_lt t
  have hw : (encode (.vsclSca d a t)).toNat = d.val * 2 ^ 21 + (a.val * 2 ^ 16 + (t.code * 2 ^ 3 + (2281701507))) := encode_val _ _ (show packWord 2281701507 [(d.val, 21), (a.val, 16), (t.code, 3)] = _ by simp only [packWord_cons, packWord_nil]) (by omega)
  generalize (encode (.vsclSca d a t)).toNat = W at hw
  have h0 : fld W 26 6 = 34 := by unfold fld; omega
  have h1 : fld W 0 3 = 3 := by unfold fld; omega
  have h2 : fld W 6 2 = 2 := by unfold fld; omega
  have h3 : fld W 3 3 = t.code := by unfold fld; omega
  have h4 : fld W 21 5 = d.val := by unfold fld; omega
  have r4 := reg5_of d h4
  have h5 : fld W 16 5 = a.val := by unfold fld; omega
  have r5 := reg5_of a h5
  have h6 : fld W 11 5 = 0 := by unfold fld; omega
  have h7 : fld W 8 3 = 0 := by unfold fld; omega
  rw [decode_major22 W h0]
  simp [decodeMajor22, decodeMajor22Sel3, whenZero, h1, h2, h3, r4, r5, h6, h7]
theorem RoundTrip.vsclScb (d : RegNum) (a : RegNum) (t : FType) : RoundTrip.Statement (.vsclScb d a t) := by
  intro _ hwf
  have b_t := FType.code_lt t
  have hw : (encode (.vsclScb d a t)).toNat = d.val * 2 ^ 21 + (a.val * 2 ^ 16 + (t.code * 2 ^ 3 + (2281701571))) := encode_val _ _ (show packWord 2281701571 [(d.val, 21), (a.val, 16), (t.code, 3)] = _ by simp only [packWord_cons, packWord_nil]) (by omega)
  generalize (encode (.vsclScb d a t)).toNat = W at hw
  have h0 : fld W 26 6 = 34 := by unfold fld; omega
  have h1 : fld W 0 3 = 3 := by unfold fld; omega
  have h2 : fld W 6 2 = 3 := by unfold fld; omega
  have h3 : fld W 3 3 = t.code := by unfold fld; omega
  have h4 : fld W 21 5 = d.val := by unfold fld; omega
  have r4 := reg5_of d h4
  have h5 : fld W 16 5 = a.val := by unfold fld; omega
  have r5 := reg5_of a h5
  have h6 : fld W 11 5 = 0 := by unfold fld; omega
  have h7 : fld W 8 3 = 0 := by unfold fld; omega
  rw [decode_major22 W h0]
  simp [decodeMajor22, decodeMajor22Sel3, whenZero, h1, h2, h3, r4, r5, h6, h7]
theorem RoundTrip.fcls (d : RegNum) (a : RegNum) (t : FType) : RoundTrip.Statement (.fcls d a t) := by
  intro _ hwf
  have b_t := FType.code_lt t
  have hw : (encode (.fcls d a t)).toNat = d.val * 2 ^ 21 + (a.val * 2 ^ 16 + (t.code * 2 ^ 3 + (2281701380))) := encode_val _ _ (show packWord 2281701380 [(d.val, 21), (a.val, 16), (t.code, 3)] = _ by simp only [packWord_cons, packWord_nil]) (by omega)
  generalize (encode (.fcls d a t)).toNat = W at hw
  have h0 : fld W 26 6 = 34 := by unfold fld; omega
  have h1 : fld W 0 3 = 4 := by unfold fld; omega
  have h2 : fld W 3 3 = t.code := by unfold fld; omega
  have h3 : fld W 21 5 = d.val := by unfold fld; omega
  have r3 := reg5_of d h3
  have h4 : fld W 16 5 = a.val := by unfold fld; omega
  have r4 := reg5_of a h4
  have h5 : fld W 11 5 = 0 := by unfold fld; omega
  have h6 : fld W 6 5 = 0 := by unfold fld; omega
  rw [decode_major22 W h0]
  simp [decodeMajor22, whenZero, h1, h2, r3, r4, h5, h6]
theorem RoundTrip.tbld (d : RegNum) (a : RegNum) (tbl : Fin 4) : RoundTrip.Statement (.tbld d a tbl) := by
  intro _ hwf
  have hw : (encode (.tbld d a tbl)).toNat = d.val * 2 ^ 21 + (a.val * 2 ^ 16 + (tbl.val * 2 ^ 0 + (2348810240))) := encode_val _ _ (show packWord 2348810240 [(d.val, 21), (a.val, 16), (tbl.val, 0)] = _ by simp only [packWord_cons, packWord_nil]) (by omega)
  generalize (encode (.tbld d a tbl)).toNat = W at hw
  have h0 : fld W 26 6 = 35 := by unfold fld; omega
  have h1 : fld W 6 5 = 0 := by unfold fld; omega
  have h2 : fld W 0 2 = tbl.val := by unfold fld; omega
  have h3 : fld W 21 5 = d.val := by unfold fld; omega
  have r3 := reg5_of d h3
  have h4 : fld W 16 5 = a.val := by unfold fld; omega
  have r4 := reg5_of a h4
  have h5 : fld W 11 5 = 0 := by unfold fld; omega
  have h6 : fld W 2 4 = 0 := by unfold fld; omega
  rw [decode_major23 W h0]
  simp [decodeMajor23, whenZero, h1, h2, r3, r4, h5, h6]
theorem RoundTrip.tbcf (d : RegNum) (k : Fin 5) (tbl : Fin 4) : RoundTrip.Statement (.tbcf d k tbl) := by
  intro _ hwf
  have hw : (encode (.tbcf d k tbl)).toNat = d.val * 2 ^ 21 + (k.val * 2 ^ 16 + (tbl.val * 2 ^ 0 + (2348810304))) := encode_val _ _ (show packWord 2348810304 [(d.val, 21), (k.val, 16), (tbl.val, 0)] = _ by simp only [packWord_cons, packWord_nil]) (by omega)
  generalize (encode (.tbcf d k tbl)).toNat = W at hw
  have h0 : fld W 26 6 = 35 := by unfold fld; omega
  have h1 : fld W 6 5 = 1 := by unfold fld; omega
  have h2 : fld W 16 5 = k.val := by unfold fld; omega
  have h3 : fld W 0 2 = tbl.val := by unfold fld; omega
  have h4 : fld W 21 5 = d.val := by unfold fld; omega
  have r4 := reg5_of d h4
  have h5 : fld W 11 5 = 0 := by unfold fld; omega
  have h6 : fld W 2 4 = 0 := by unfold fld; omega
  rw [decode_major23 W h0]
  have n31 : k.val ≠ 31 := by omega
  simp [decodeMajor23, decodeMajor23Sel1, whenZero, h1, h2, h3, r4, h5, h6]
theorem RoundTrip.tbcfQuery (d : RegNum) (tbl : Fin 4) : RoundTrip.Statement (.tbcfQuery d tbl) := by
  intro _ hwf
  have hw : (encode (.tbcfQuery d tbl)).toNat = d.val * 2 ^ 21 + (tbl.val * 2 ^ 0 + (2350841920)) := encode_val _ _ (show packWord 2350841920 [(d.val, 21), (tbl.val, 0)] = _ by simp only [packWord_cons, packWord_nil]) (by omega)
  generalize (encode (.tbcfQuery d tbl)).toNat = W at hw
  have h0 : fld W 26 6 = 35 := by unfold fld; omega
  have h1 : fld W 6 5 = 1 := by unfold fld; omega
  have h2 : fld W 16 5 = 31 := by unfold fld; omega
  have h3 : fld W 0 2 = tbl.val := by unfold fld; omega
  have h4 : fld W 21 5 = d.val := by unfold fld; omega
  have r4 := reg5_of d h4
  have h5 : fld W 11 5 = 0 := by unfold fld; omega
  have h6 : fld W 2 4 = 0 := by unfold fld; omega
  rw [decode_major23 W h0]
  simp [decodeMajor23, decodeMajor23Sel1, whenZero, h1, h2, h3, r4, h5, h6]
theorem RoundTrip.mldb (a : RegNum) (b : RegNum) : RoundTrip.Statement (.mldb a b) := by
  intro _ hwf
  have hw : (encode (.mldb a b)).toNat = a.val * 2 ^ 16 + (b.val * 2 ^ 11 + (2684354560)) := encode_val _ _ (show packWord 2684354560 [(a.val, 16), (b.val, 11)] = _ by simp only [packWord_cons, packWord_nil]) (by omega)
  generalize (encode (.mldb a b)).toNat = W at hw
  have h0 : fld W 26 6 = 40 := by unfold fld; omega
  have h1 : fld W 6 5 = 0 := by unfold fld; omega
  have h2 : fld W 5 1 = 0 := by unfold fld; omega
  have h3 : fld W 16 5 = a.val := by unfold fld; omega
  have r3 := reg5_of a h3
  have h4 : fld W 11 5 = b.val := by unfold fld; omega
  have r4 := reg5_of b h4
  have h5 : fld W 21 5 = 0 := by unfold fld; omega
  have h6 : fld W 0 5 = 0 := by unfold fld; omega
  rw [decode_major28 W h0]
  simp [decodeMajor28, decodeMajor28Sel0, whenZero, h1, h2, r3, r4, h5, h6]
theorem RoundTrip.mldbTile (tl : TileNum) : RoundTrip.Statement (.mldbTile tl) := by
  intro _ hwf
  have hw : (encode (.mldbTile tl)).toNat = tl.val * 2 ^ 0 + (2684354592) := encode_val _ _ (show packWord 2684354592 [(tl.val, 0)] = _ by simp only [packWord_cons, packWord_nil]) (by omega)
  generalize (encode (.mldbTile tl)).toNat = W at hw
  have h0 : fld W 26 6 = 40 := by unfold fld; omega
  have h1 : fld W 6 5 = 0 := by unfold fld; omega
  have h2 : fld W 5 1 = 1 := by unfold fld; omega
  have h3 : fld W 0 5 = tl.val := by unfold fld; omega
  have r3 := reg5_of tl h3
  have h4 : fld W 21 5 = 0 := by unfold fld; omega
  have h5 : fld W 16 5 = 0 := by unfold fld; omega
  have h6 : fld W 11 5 = 0 := by unfold fld; omega
  rw [decode_major28 W h0]
  simp [decodeMajor28, decodeMajor28Sel0, whenZero, h1, h2, r3, h4, h5, h6]
theorem RoundTrip.mgeo (d : RegNum) (a : RegNum) : RoundTrip.Statement (.mgeo d a) := by
  intro _ hwf
  have hw : (encode (.mgeo d a)).toNat = d.val * 2 ^ 21 + (a.val * 2 ^ 16 + (2684354624)) := encode_val _ _ (show packWord 2684354624 [(d.val, 21), (a.val, 16)] = _ by simp only [packWord_cons, packWord_nil]) (by omega)
  generalize (encode (.mgeo d a)).toNat = W at hw
  have h0 : fld W 26 6 = 40 := by unfold fld; omega
  have h1 : fld W 6 5 = 1 := by unfold fld; omega
  have h2 : fld W 21 5 = d.val := by unfold fld; omega
  have r2 := reg5_of d h2
  have h3 : fld W 16 5 = a.val := by unfold fld; omega
  have r3 := reg5_of a h3
  have h4 : fld W 11 5 = 0 := by unfold fld; omega
  have h5 : fld W 0 6 = 0 := by unfold fld; omega
  rw [decode_major28 W h0]
  simp [decodeMajor28, whenZero, h1, r2, r3, h4, h5]
theorem RoundTrip.manc (d : RegNum) (a : RegNum) : RoundTrip.Statement (.manc d a) := by
  intro _ hwf
  have hw : (encode (.manc d a)).toNat = d.val * 2 ^ 21 + (a.val * 2 ^ 16 + (2684354688)) := encode_val _ _ (show packWord 2684354688 [(d.val, 21), (a.val, 16)] = _ by simp only [packWord_cons, packWord_nil]) (by omega)
  generalize (encode (.manc d a)).toNat = W at hw
  have h0 : fld W 26 6 = 40 := by unfold fld; omega
  have h1 : fld W 6 5 = 2 := by unfold fld; omega
  have h2 : fld W 21 5 = d.val := by unfold fld; omega
  have r2 := reg5_of d h2
  have h3 : fld W 16 5 = a.val := by unfold fld; omega
  have r3 := reg5_of a h3
  have h4 : fld W 11 5 = 0 := by unfold fld; omega
  have h5 : fld W 0 6 = 0 := by unfold fld; omega
  rw [decode_major28 W h0]
  simp [decodeMajor28, whenZero, h1, r2, r3, h4, h5]
theorem RoundTrip.mmv (f : Fin 16) (a : RegNum) (m : Fin 16) (tl : TileNum) : RoundTrip.Statement (.mmv f a m tl) := by
  intro _ hwf
  have hw : (encode (.mmv f a m tl)).toNat = f.val * 2 ^ 21 + (a.val * 2 ^ 16 + (m.val * 2 ^ 11 + (tl.val * 2 ^ 0 + (2684354752)))) := encode_val _ _ (show packWord 2684354752 [(f.val, 21), (a.val, 16), (m.val, 11), (tl.val, 0)] = _ by simp only [packWord_cons, packWord_nil]) (by omega)
  generalize (encode (.mmv f a m tl)).toNat = W at hw
  have h0 : fld W 26 6 = 40 := by unfold fld; omega
  have h1 : fld W 6 5 = 3 := by unfold fld; omega
  have h2 : fld W 21 4 = f.val := by unfold fld; omega
  have h3 : fld W 11 4 = m.val := by unfold fld; omega
  have h4 : fld W 16 5 = a.val := by unfold fld; omega
  have r4 := reg5_of a h4
  have h5 : fld W 0 5 = tl.val := by unfold fld; omega
  have r5 := reg5_of tl h5
  have h6 : fld W 25 1 = 0 := by unfold fld; omega
  have h7 : fld W 15 1 = 0 := by unfold fld; omega
  have h8 : fld W 5 1 = 0 := by unfold fld; omega
  rw [decode_major28 W h0]
  simp [decodeMajor28, whenZero, h1, h2, h3, r4, r5, h6, h7, h8]
theorem RoundTrip.mmvs (f : Fin 16) (a : RegNum) (m : Fin 16) (tl : TileNum) : RoundTrip.Statement (.mmvs f a m tl) := by
  intro _ hwf
  have hw : (encode (.mmvs f a m tl)).toNat = f.val * 2 ^ 21 + (a.val * 2 ^ 16 + (m.val * 2 ^ 11 + (tl.val * 2 ^ 0 + (2684354816)))) := encode_val _ _ (show packWord 2684354816 [(f.val, 21), (a.val, 16), (m.val, 11), (tl.val, 0)] = _ by simp only [packWord_cons, packWord_nil]) (by omega)
  generalize (encode (.mmvs f a m tl)).toNat = W at hw
  have h0 : fld W 26 6 = 40 := by unfold fld; omega
  have h1 : fld W 6 5 = 4 := by unfold fld; omega
  have h2 : fld W 21 4 = f.val := by unfold fld; omega
  have h3 : fld W 11 4 = m.val := by unfold fld; omega
  have h4 : fld W 16 5 = a.val := by unfold fld; omega
  have r4 := reg5_of a h4
  have h5 : fld W 0 5 = tl.val := by unfold fld; omega
  have r5 := reg5_of tl h5
  have h6 : fld W 25 1 = 0 := by unfold fld; omega
  have h7 : fld W 15 1 = 0 := by unfold fld; omega
  have h8 : fld W 5 1 = 0 := by unfold fld; omega
  rw [decode_major28 W h0]
  simp [decodeMajor28, whenZero, h1, h2, h3, r4, r5, h6, h7, h8]
theorem RoundTrip.mrd (tl : TileNum) (f : Fin 16) (n : Fin 16) (clr : Bool) : RoundTrip.Statement (.mrd tl f n clr) := by
  intro _ hwf
  have b_clr := boolLt clr
  have hw : (encode (.mrd tl f n clr)).toNat = tl.val * 2 ^ 0 + (f.val * 2 ^ 21 + (n.val * 2 ^ 11 + (clr.toNat * 2 ^ 5 + (2684354880)))) := encode_val _ _ (show packWord 2684354880 [(tl.val, 0), (f.val, 21), (n.val, 11), (clr.toNat, 5)] = _ by simp only [packWord_cons, packWord_nil]) (by omega)
  generalize (encode (.mrd tl f n clr)).toNat = W at hw
  have h0 : fld W 26 6 = 40 := by unfold fld; omega
  have h1 : fld W 6 5 = 5 := by unfold fld; omega
  have h2 : fld W 21 4 = f.val := by unfold fld; omega
  have h3 : fld W 11 4 = n.val := by unfold fld; omega
  have h4 : fld W 5 1 = clr.toNat := by unfold fld; omega
  have h5 : fld W 0 5 = tl.val := by unfold fld; omega
  have r5 := reg5_of tl h5
  have h6 : fld W 25 1 = 0 := by unfold fld; omega
  have h7 : fld W 16 5 = 0 := by unfold fld; omega
  have h8 : fld W 15 1 = 0 := by unfold fld; omega
  rw [decode_major28 W h0]
  simp [decodeMajor28, whenZero, h1, h2, h3, h4, r5, h6, h7, h8]
theorem RoundTrip.mclr (f : Fin 16) (n : Fin 16) : RoundTrip.Statement (.mclr f n) := by
  intro _ hwf
  have hw : (encode (.mclr f n)).toNat = f.val * 2 ^ 21 + (n.val * 2 ^ 11 + (2684354944)) := encode_val _ _ (show packWord 2684354944 [(f.val, 21), (n.val, 11)] = _ by simp only [packWord_cons, packWord_nil]) (by omega)
  generalize (encode (.mclr f n)).toNat = W at hw
  have h0 : fld W 26 6 = 40 := by unfold fld; omega
  have h1 : fld W 6 5 = 6 := by unfold fld; omega
  have h2 : fld W 21 4 = f.val := by unfold fld; omega
  have h3 : fld W 11 4 = n.val := by unfold fld; omega
  have h4 : fld W 25 1 = 0 := by unfold fld; omega
  have h5 : fld W 16 5 = 0 := by unfold fld; omega
  have h6 : fld W 15 1 = 0 := by unfold fld; omega
  have h7 : fld W 0 6 = 0 := by unfold fld; omega
  rw [decode_major28 W h0]
  simp [decodeMajor28, whenZero, h1, h2, h3, h4, h5, h6, h7]
theorem RoundTrip.mcmd (d : RegNum) (a : RegNum) (b : RegNum) : RoundTrip.Statement (.mcmd d a b) := by
  intro _ hwf
  have hw : (encode (.mcmd d a b)).toNat = d.val * 2 ^ 21 + (a.val * 2 ^ 16 + (b.val * 2 ^ 11 + (2684355008))) := encode_val _ _ (show packWord 2684355008 [(d.val, 21), (a.val, 16), (b.val, 11)] = _ by simp only [packWord_cons, packWord_nil]) (by omega)
  generalize (encode (.mcmd d a b)).toNat = W at hw
  have h0 : fld W 26 6 = 40 := by unfold fld; omega
  have h1 : fld W 6 5 = 7 := by unfold fld; omega
  have h2 : fld W 21 5 = d.val := by unfold fld; omega
  have r2 := reg5_of d h2
  have h3 : fld W 16 5 = a.val := by unfold fld; omega
  have r3 := reg5_of a h3
  have h4 : fld W 11 5 = b.val := by unfold fld; omega
  have r4 := reg5_of b h4
  have h5 : fld W 0 6 = 0 := by unfold fld; omega
  rw [decode_major28 W h0]
  simp [decodeMajor28, whenZero, h1, r2, r3, r4, h5]
theorem RoundTrip.msta (d : RegNum) (f : Fin 16) (lane : Fin 32) : RoundTrip.Statement (.msta d f lane) := by
  intro _ hwf
  have hw : (encode (.msta d f lane)).toNat = d.val * 2 ^ 21 + (f.val * 2 ^ 0 + (lane.val * 2 ^ 11 + (2684355072))) := encode_val _ _ (show packWord 2684355072 [(d.val, 21), (f.val, 0), (lane.val, 11)] = _ by simp only [packWord_cons, packWord_nil]) (by omega)
  generalize (encode (.msta d f lane)).toNat = W at hw
  have h0 : fld W 26 6 = 40 := by unfold fld; omega
  have h1 : fld W 6 5 = 8 := by unfold fld; omega
  have h2 : fld W 0 4 = f.val := by unfold fld; omega
  have h3 : fld W 21 5 = d.val := by unfold fld; omega
  have r3 := reg5_of d h3
  have h4 : fld W 11 5 = lane.val := by unfold fld; omega
  have r4 := reg5_of lane h4
  have h5 : fld W 16 5 = 0 := by unfold fld; omega
  have h6 : fld W 4 2 = 0 := by unfold fld; omega
  rw [decode_major28 W h0]
  simp [decodeMajor28, whenZero, h1, h2, r3, r4, h5, h6]
theorem RoundTrip.achn (d : RegNum) (a : RegNum) (b : RegNum) (clr : Bool) : RoundTrip.Statement (.achn d a b clr) := by
  intro _ hwf
  have b_clr := boolLt clr
  have hw : (encode (.achn d a b clr)).toNat = d.val * 2 ^ 21 + (a.val * 2 ^ 16 + (b.val * 2 ^ 11 + (clr.toNat * 2 ^ 0 + (2751463424)))) := encode_val _ _ (show packWord 2751463424 [(d.val, 21), (a.val, 16), (b.val, 11), (clr.toNat, 0)] = _ by simp only [packWord_cons, packWord_nil]) (by omega)
  generalize (encode (.achn d a b clr)).toNat = W at hw
  have h0 : fld W 26 6 = 41 := by unfold fld; omega
  have h1 : fld W 6 5 = 0 := by unfold fld; omega
  have h2 : fld W 0 1 = clr.toNat := by unfold fld; omega
  have h3 : fld W 21 5 = d.val := by unfold fld; omega
  have r3 := reg5_of d h3
  have h4 : fld W 16 5 = a.val := by unfold fld; omega
  have r4 := reg5_of a h4
  have h5 : fld W 11 5 = b.val := by unfold fld; omega
  have r5 := reg5_of b h5
  have h6 : fld W 1 5 = 0 := by unfold fld; omega
  rw [decode_major29 W h0]
  simp [decodeMajor29, whenZero, h1, h2, r3, r4, r5, h6]
theorem RoundTrip.asnd (f : Fin 16) (n : Fin 16) (a : RegNum) (b : RegNum) (clr : Bool) : RoundTrip.Statement (.asnd f n a b clr) := by
  intro _ hwf
  have b_clr := boolLt clr
  have hw : (encode (.asnd f n a b clr)).toNat = f.val * 2 ^ 21 + (n.val * 2 ^ 0 + (a.val * 2 ^ 16 + (b.val * 2 ^ 11 + (clr.toNat * 2 ^ 4 + (2751463488))))) := encode_val _ _ (show packWord 2751463488 [(f.val, 21), (n.val, 0), (a.val, 16), (b.val, 11), (clr.toNat, 4)] = _ by simp only [packWord_cons, packWord_nil]) (by omega)
  generalize (encode (.asnd f n a b clr)).toNat = W at hw
  have h0 : fld W 26 6 = 41 := by unfold fld; omega
  have h1 : fld W 6 5 = 1 := by unfold fld; omega
  have h2 : fld W 21 4 = f.val := by unfold fld; omega
  have h3 : fld W 0 4 = n.val := by unfold fld; omega
  have h4 : fld W 4 1 = clr.toNat := by unfold fld; omega
  have h5 : fld W 16 5 = a.val := by unfold fld; omega
  have r5 := reg5_of a h5
  have h6 : fld W 11 5 = b.val := by unfold fld; omega
  have r6 := reg5_of b h6
  have h7 : fld W 25 1 = 0 := by unfold fld; omega
  have h8 : fld W 5 1 = 0 := by unfold fld; omega
  rw [decode_major29 W h0]
  simp [decodeMajor29, whenZero, h1, h2, h3, h4, r5, r6, h7, h8]
theorem RoundTrip.adrn (d : RegNum) (a : RegNum) : RoundTrip.Statement (.adrn d a) := by
  intro _ hwf
  have hw : (encode (.adrn d a)).toNat = d.val * 2 ^ 21 + (a.val * 2 ^ 16 + (2751463552)) := encode_val _ _ (show packWord 2751463552 [(d.val, 21), (a.val, 16)] = _ by simp only [packWord_cons, packWord_nil]) (by omega)
  generalize (encode (.adrn d a)).toNat = W at hw
  have h0 : fld W 26 6 = 41 := by unfold fld; omega
  have h1 : fld W 6 5 = 2 := by unfold fld; omega
  have h2 : fld W 0 1 = 0 := by unfold fld; omega
  have h3 : fld W 21 5 = d.val := by unfold fld; omega
  have r3 := reg5_of d h3
  have h4 : fld W 16 5 = a.val := by unfold fld; omega
  have r4 := reg5_of a h4
  have h5 : fld W 11 5 = 0 := by unfold fld; omega
  have h6 : fld W 1 5 = 0 := by unfold fld; omega
  rw [decode_major29 W h0]
  simp [decodeMajor29, decodeMajor29Sel2, whenZero, h1, h2, r3, r4, h5, h6]
theorem RoundTrip.adrnNw (d : RegNum) (a : RegNum) : RoundTrip.Statement (.adrnNw d a) := by
  intro _ hwf
  have hw : (encode (.adrnNw d a)).toNat = d.val * 2 ^ 21 + (a.val * 2 ^ 16 + (2751463553)) := encode_val _ _ (show packWord 2751463553 [(d.val, 21), (a.val, 16)] = _ by simp only [packWord_cons, packWord_nil]) (by omega)
  generalize (encode (.adrnNw d a)).toNat = W at hw
  have h0 : fld W 26 6 = 41 := by unfold fld; omega
  have h1 : fld W 6 5 = 2 := by unfold fld; omega
  have h2 : fld W 0 1 = 1 := by unfold fld; omega
  have h3 : fld W 21 5 = d.val := by unfold fld; omega
  have r3 := reg5_of d h3
  have h4 : fld W 16 5 = a.val := by unfold fld; omega
  have r4 := reg5_of a h4
  have h5 : fld W 11 5 = 0 := by unfold fld; omega
  have h6 : fld W 1 5 = 0 := by unfold fld; omega
  rw [decode_major29 W h0]
  simp [decodeMajor29, decodeMajor29Sel2, whenZero, h1, h2, r3, r4, h5, h6]
theorem RoundTrip.acls (d : RegNum) (a : RegNum) : RoundTrip.Statement (.acls d a) := by
  intro _ hwf
  have hw : (encode (.acls d a)).toNat = d.val * 2 ^ 21 + (a.val * 2 ^ 16 + (2751463616)) := encode_val _ _ (show packWord 2751463616 [(d.val, 21), (a.val, 16)] = _ by simp only [packWord_cons, packWord_nil]) (by omega)
  generalize (encode (.acls d a)).toNat = W at hw
  have h0 : fld W 26 6 = 41 := by unfold fld; omega
  have h1 : fld W 6 5 = 3 := by unfold fld; omega
  have h2 : fld W 21 5 = d.val := by unfold fld; omega
  have r2 := reg5_of d h2
  have h3 : fld W 16 5 = a.val := by unfold fld; omega
  have r3 := reg5_of a h3
  have h4 : fld W 11 5 = 0 := by unfold fld; omega
  have h5 : fld W 0 6 = 0 := by unfold fld; omega
  rw [decode_major29 W h0]
  simp [decodeMajor29, whenZero, h1, r2, r3, h4, h5]
theorem RoundTrip.arsn (d : RegNum) : RoundTrip.Statement (.arsn d) := by
  intro _ hwf
  have hw : (encode (.arsn d)).toNat = d.val * 2 ^ 21 + (2751463680) := encode_val _ _ (show packWord 2751463680 [(d.val, 21)] = _ by simp only [packWord_cons, packWord_nil]) (by omega)
  generalize (encode (.arsn d)).toNat = W at hw
  have h0 : fld W 26 6 = 41 := by unfold fld; omega
  have h1 : fld W 6 5 = 4 := by unfold fld; omega
  have h2 : fld W 0 2 = 0 := by unfold fld; omega
  have h3 : fld W 21 5 = d.val := by unfold fld; omega
  have r3 := reg5_of d h3
  have h4 : fld W 16 5 = 0 := by unfold fld; omega
  have h5 : fld W 11 5 = 0 := by unfold fld; omega
  have h6 : fld W 2 4 = 0 := by unfold fld; omega
  rw [decode_major29 W h0]
  simp [decodeMajor29, decodeMajor29Sel4, whenZero, h1, h2, r3, h4, h5, h6]
theorem RoundTrip.arsnNw (d : RegNum) : RoundTrip.Statement (.arsnNw d) := by
  intro _ hwf
  have hw : (encode (.arsnNw d)).toNat = d.val * 2 ^ 21 + (2751463681) := encode_val _ _ (show packWord 2751463681 [(d.val, 21)] = _ by simp only [packWord_cons, packWord_nil]) (by omega)
  generalize (encode (.arsnNw d)).toNat = W at hw
  have h0 : fld W 26 6 = 41 := by unfold fld; omega
  have h1 : fld W 6 5 = 4 := by unfold fld; omega
  have h2 : fld W 0 2 = 1 := by unfold fld; omega
  have h3 : fld W 21 5 = d.val := by unfold fld; omega
  have r3 := reg5_of d h3
  have h4 : fld W 16 5 = 0 := by unfold fld; omega
  have h5 : fld W 11 5 = 0 := by unfold fld; omega
  have h6 : fld W 2 4 = 0 := by unfold fld; omega
  rw [decode_major29 W h0]
  simp [decodeMajor29, decodeMajor29Sel4, whenZero, h1, h2, r3, h4, h5, h6]
theorem RoundTrip.arsnDrop (d : RegNum) : RoundTrip.Statement (.arsnDrop d) := by
  intro _ hwf
  have hw : (encode (.arsnDrop d)).toNat = d.val * 2 ^ 21 + (2751463682) := encode_val _ _ (show packWord 2751463682 [(d.val, 21)] = _ by simp only [packWord_cons, packWord_nil]) (by omega)
  generalize (encode (.arsnDrop d)).toNat = W at hw
  have h0 : fld W 26 6 = 41 := by unfold fld; omega
  have h1 : fld W 6 5 = 4 := by unfold fld; omega
  have h2 : fld W 0 2 = 2 := by unfold fld; omega
  have h3 : fld W 21 5 = d.val := by unfold fld; omega
  have r3 := reg5_of d h3
  have h4 : fld W 16 5 = 0 := by unfold fld; omega
  have h5 : fld W 11 5 = 0 := by unfold fld; omega
  have h6 : fld W 2 4 = 0 := by unfold fld; omega
  rw [decode_major29 W h0]
  simp [decodeMajor29, decodeMajor29Sel4, whenZero, h1, h2, r3, h4, h5, h6]
theorem RoundTrip.astaOutbox (d : RegNum) : RoundTrip.Statement (.astaOutbox d) := by
  intro _ hwf
  have hw : (encode (.astaOutbox d)).toNat = d.val * 2 ^ 21 + (2751463744) := encode_val _ _ (show packWord 2751463744 [(d.val, 21)] = _ by simp only [packWord_cons, packWord_nil]) (by omega)
  generalize (encode (.astaOutbox d)).toNat = W at hw
  have h0 : fld W 26 6 = 41 := by unfold fld; omega
  have h1 : fld W 6 5 = 5 := by unfold fld; omega
  have h2 : fld W 0 3 = 0 := by unfold fld; omega
  have h3 : fld W 21 5 = d.val := by unfold fld; omega
  have r3 := reg5_of d h3
  have h4 : fld W 16 5 = 0 := by unfold fld; omega
  have h5 : fld W 11 5 = 0 := by unfold fld; omega
  have h6 : fld W 3 3 = 0 := by unfold fld; omega
  rw [decode_major29 W h0]
  simp [decodeMajor29, decodeMajor29Sel5, whenZero, h1, h2, r3, h4, h5, h6]
theorem RoundTrip.astaChain (d : RegNum) (a : RegNum) : RoundTrip.Statement (.astaChain d a) := by
  intro _ hwf
  have hw : (encode (.astaChain d a)).toNat = d.val * 2 ^ 21 + (a.val * 2 ^ 16 + (2751463745)) := encode_val _ _ (show packWord 2751463745 [(d.val, 21), (a.val, 16)] = _ by simp only [packWord_cons, packWord_nil]) (by omega)
  generalize (encode (.astaChain d a)).toNat = W at hw
  have h0 : fld W 26 6 = 41 := by unfold fld; omega
  have h1 : fld W 6 5 = 5 := by unfold fld; omega
  have h2 : fld W 0 3 = 1 := by unfold fld; omega
  have h3 : fld W 21 5 = d.val := by unfold fld; omega
  have r3 := reg5_of d h3
  have h4 : fld W 16 5 = a.val := by unfold fld; omega
  have r4 := reg5_of a h4
  have h5 : fld W 11 5 = 0 := by unfold fld; omega
  have h6 : fld W 3 3 = 0 := by unfold fld; omega
  rw [decode_major29 W h0]
  simp [decodeMajor29, decodeMajor29Sel5, whenZero, h1, h2, r3, r4, h5, h6]
theorem RoundTrip.xfer (d : RegNum) (a : RegNum) (b : RegNum) (e : RegNum) : RoundTrip.Statement (.xfer d a b e) := by
  intro _ hwf
  have hw : (encode (.xfer d a b e)).toNat = d.val * 2 ^ 21 + (a.val * 2 ^ 16 + (b.val * 2 ^ 11 + (e.val * 2 ^ 0 + (2952790016)))) := encode_val _ _ (show packWord 2952790016 [(d.val, 21), (a.val, 16), (b.val, 11), (e.val, 0)] = _ by simp only [packWord_cons, packWord_nil]) (by omega)
  generalize (encode (.xfer d a b e)).toNat = W at hw
  have h0 : fld W 26 6 = 44 := by unfold fld; omega
  have h1 : fld W 6 5 = 0 := by unfold fld; omega
  have h2 : fld W 21 5 = d.val := by unfold fld; omega
  have r2 := reg5_of d h2
  have h3 : fld W 16 5 = a.val := by unfold fld; omega
  have r3 := reg5_of a h3
  have h4 : fld W 11 5 = b.val := by unfold fld; omega
  have r4 := reg5_of b h4
  have h5 : fld W 0 5 = e.val := by unfold fld; omega
  have r5 := reg5_of e h5
  have h6 : fld W 5 1 = 0 := by unfold fld; omega
  rw [decode_major2C W h0]
  simp [decodeMajor2C, whenZero, h1, r2, r3, r4, r5, h6]
theorem RoundTrip.xferb (d : RegNum) (a : RegNum) (b : RegNum) (e : RegNum) : RoundTrip.Statement (.xferb d a b e) := by
  intro _ hwf
  have hw : (encode (.xferb d a b e)).toNat = d.val * 2 ^ 21 + (a.val * 2 ^ 16 + (b.val * 2 ^ 11 + (e.val * 2 ^ 0 + (2952790080)))) := encode_val _ _ (show packWord 2952790080 [(d.val, 21), (a.val, 16), (b.val, 11), (e.val, 0)] = _ by simp only [packWord_cons, packWord_nil]) (by omega)
  generalize (encode (.xferb d a b e)).toNat = W at hw
  have h0 : fld W 26 6 = 44 := by unfold fld; omega
  have h1 : fld W 6 5 = 1 := by unfold fld; omega
  have h2 : fld W 21 5 = d.val := by unfold fld; omega
  have r2 := reg5_of d h2
  have h3 : fld W 16 5 = a.val := by unfold fld; omega
  have r3 := reg5_of a h3
  have h4 : fld W 11 5 = b.val := by unfold fld; omega
  have r4 := reg5_of b h4
  have h5 : fld W 0 5 = e.val := by unfold fld; omega
  have r5 := reg5_of e h5
  have h6 : fld W 5 1 = 0 := by unfold fld; omega
  rw [decode_major2C W h0]
  simp [decodeMajor2C, whenZero, h1, r2, r3, r4, r5, h6]
theorem RoundTrip.getx (d : RegNum) (a : RegNum) (b : RegNum) (e : RegNum) : RoundTrip.Statement (.getx d a b e) := by
  intro _ hwf
  have hw : (encode (.getx d a b e)).toNat = d.val * 2 ^ 21 + (a.val * 2 ^ 16 + (b.val * 2 ^ 11 + (e.val * 2 ^ 0 + (2952790144)))) := encode_val _ _ (show packWord 2952790144 [(d.val, 21), (a.val, 16), (b.val, 11), (e.val, 0)] = _ by simp only [packWord_cons, packWord_nil]) (by omega)
  generalize (encode (.getx d a b e)).toNat = W at hw
  have h0 : fld W 26 6 = 44 := by unfold fld; omega
  have h1 : fld W 6 5 = 2 := by unfold fld; omega
  have h2 : fld W 21 5 = d.val := by unfold fld; omega
  have r2 := reg5_of d h2
  have h3 : fld W 16 5 = a.val := by unfold fld; omega
  have r3 := reg5_of a h3
  have h4 : fld W 11 5 = b.val := by unfold fld; omega
  have r4 := reg5_of b h4
  have h5 : fld W 0 5 = e.val := by unfold fld; omega
  have r5 := reg5_of e h5
  have h6 : fld W 5 1 = 0 := by unfold fld; omega
  rw [decode_major2C W h0]
  simp [decodeMajor2C, whenZero, h1, r2, r3, r4, r5, h6]
theorem RoundTrip.putx (d : RegNum) (a : RegNum) (b : RegNum) (e : RegNum) : RoundTrip.Statement (.putx d a b e) := by
  intro _ hwf
  have hw : (encode (.putx d a b e)).toNat = d.val * 2 ^ 21 + (a.val * 2 ^ 16 + (b.val * 2 ^ 11 + (e.val * 2 ^ 0 + (2952790208)))) := encode_val _ _ (show packWord 2952790208 [(d.val, 21), (a.val, 16), (b.val, 11), (e.val, 0)] = _ by simp only [packWord_cons, packWord_nil]) (by omega)
  generalize (encode (.putx d a b e)).toNat = W at hw
  have h0 : fld W 26 6 = 44 := by unfold fld; omega
  have h1 : fld W 6 5 = 3 := by unfold fld; omega
  have h2 : fld W 21 5 = d.val := by unfold fld; omega
  have r2 := reg5_of d h2
  have h3 : fld W 16 5 = a.val := by unfold fld; omega
  have r3 := reg5_of a h3
  have h4 : fld W 11 5 = b.val := by unfold fld; omega
  have r4 := reg5_of b h4
  have h5 : fld W 0 5 = e.val := by unfold fld; omega
  have r5 := reg5_of e h5
  have h6 : fld W 5 1 = 0 := by unfold fld; omega
  rw [decode_major2C W h0]
  simp [decodeMajor2C, whenZero, h1, r2, r3, r4, r5, h6]
theorem RoundTrip.cwait (d : RegNum) (cc : Fin 8) (a : RegNum) : RoundTrip.Statement (.cwait d cc a) := by
  intro _ hwf
  have hw : (encode (.cwait d cc a)).toNat = d.val * 2 ^ 21 + (cc.val * 2 ^ 0 + (a.val * 2 ^ 16 + (2952790272))) := encode_val _ _ (show packWord 2952790272 [(d.val, 21), (cc.val, 0), (a.val, 16)] = _ by simp only [packWord_cons, packWord_nil]) (by omega)
  generalize (encode (.cwait d cc a)).toNat = W at hw
  have h0 : fld W 26 6 = 44 := by unfold fld; omega
  have h1 : fld W 6 5 = 4 := by unfold fld; omega
  have h2 : fld W 0 3 = cc.val := by unfold fld; omega
  have h3 : fld W 21 5 = d.val := by unfold fld; omega
  have r3 := reg5_of d h3
  have h4 : fld W 16 5 = a.val := by unfold fld; omega
  have r4 := reg5_of a h4
  have h5 : fld W 11 5 = 0 := by unfold fld; omega
  have h6 : fld W 3 3 = 0 := by unfold fld; omega
  rw [decode_major2C W h0]
  simp [decodeMajor2C, whenZero, h1, h2, r3, r4, h5, h6]
theorem RoundTrip.crd (d : RegNum) (cc : Fin 8) (clr : Bool) : RoundTrip.Statement (.crd d cc clr) := by
  intro _ hwf
  have b_clr := boolLt clr
  have hw : (encode (.crd d cc clr)).toNat = d.val * 2 ^ 21 + (cc.val * 2 ^ 0 + (clr.toNat * 2 ^ 3 + (2952790336))) := encode_val _ _ (show packWord 2952790336 [(d.val, 21), (cc.val, 0), (clr.toNat, 3)] = _ by simp only [packWord_cons, packWord_nil]) (by omega)
  generalize (encode (.crd d cc clr)).toNat = W at hw
  have h0 : fld W 26 6 = 44 := by unfold fld; omega
  have h1 : fld W 6 5 = 5 := by unfold fld; omega
  have h2 : fld W 0 3 = cc.val := by unfold fld; omega
  have h3 : fld W 3 1 = clr.toNat := by unfold fld; omega
  have h4 : fld W 21 5 = d.val := by unfold fld; omega
  have r4 := reg5_of d h4
  have h5 : fld W 16 5 = 0 := by unfold fld; omega
  have h6 : fld W 11 5 = 0 := by unfold fld; omega
  have h7 : fld W 4 2 = 0 := by unfold fld; omega
  rw [decode_major2C W h0]
  simp [decodeMajor2C, whenZero, h1, h2, h3, r4, h5, h6, h7]
theorem RoundTrip.lhnd (a : RegNum) (k : Fin 7) : RoundTrip.Statement (.lhnd a k) := by
  intro _ hwf
  have hw : (encode (.lhnd a k)).toNat = a.val * 2 ^ 16 + ((k.val + 1) * 2 ^ 0 + (2952790400)) := encode_val _ _ (show packWord 2952790400 [(a.val, 16), (k.val + 1, 0)] = _ by simp only [packWord_cons, packWord_nil]) (by omega)
  generalize (encode (.lhnd a k)).toNat = W at hw
  have h0 : fld W 26 6 = 44 := by unfold fld; omega
  have h1 : fld W 6 5 = 6 := by unfold fld; omega
  have h2 : fld W 0 3 = k.val + 1 := by unfold fld; omega
  have h3 : fld W 16 5 = a.val := by unfold fld; omega
  have r3 := reg5_of a h3
  have h4 : fld W 21 5 = 0 := by unfold fld; omega
  have h5 : fld W 11 5 = 0 := by unfold fld; omega
  have h6 : fld W 3 3 = 0 := by unfold fld; omega
  rw [decode_major2C W h0]
  simp [decodeMajor2C, whenZero, h1, h2, r3, h4, h5, h6]
theorem RoundTrip.tldef (tl : TileNum) (a : RegNum) (b : RegNum) (rdy : Bool) : RoundTrip.Statement (.tldef tl a b rdy) := by
  intro _ hwf
  have b_rdy := boolLt rdy
  have hw : (encode (.tldef tl a b rdy)).toNat = tl.val * 2 ^ 0 + (a.val * 2 ^ 16 + (b.val * 2 ^ 11 + (rdy.toNat * 2 ^ 5 + (3019898880)))) := encode_val _ _ (show packWord 3019898880 [(tl.val, 0), (a.val, 16), (b.val, 11), (rdy.toNat, 5)] = _ by simp only [packWord_cons, packWord_nil]) (by omega)
  generalize (encode (.tldef tl a b rdy)).toNat = W at hw
  have h0 : fld W 26 6 = 45 := by unfold fld; omega
  have h1 : fld W 6 5 = 0 := by unfold fld; omega
  have h2 : fld W 5 1 = rdy.toNat := by unfold fld; omega
  have h3 : fld W 0 5 = tl.val := by unfold fld; omega
  have r3 := reg5_of tl h3
  have h4 : fld W 16 5 = a.val := by unfold fld; omega
  have r4 := reg5_of a h4
  have h5 : fld W 11 5 = b.val := by unfold fld; omega
  have r5 := reg5_of b h5
  have h6 : fld W 21 5 = 0 := by unfold fld; omega
  rw [decode_major2D W h0]
  simp [decodeMajor2D, whenZero, h1, h2, r3, r4, r5, h6]
theorem RoundTrip.tlstQuery (d : RegNum) (tl : TileNum) : RoundTrip.Statement (.tlstQuery d tl) := by
  intro _ hwf
  have hw : (encode (.tlstQuery d tl)).toNat = d.val * 2 ^ 21 + (tl.val * 2 ^ 0 + (3019898944)) := encode_val _ _ (show packWord 3019898944 [(d.val, 21), (tl.val, 0)] = _ by simp only [packWord_cons, packWord_nil]) (by omega)
  generalize (encode (.tlstQuery d tl)).toNat = W at hw
  have h0 : fld W 26 6 = 45 := by unfold fld; omega
  have h1 : fld W 6 5 = 1 := by unfold fld; omega
  have h2 : fld W 11 5 = 0 := by unfold fld; omega
  have h3 : fld W 21 5 = d.val := by unfold fld; omega
  have r3 := reg5_of d h3
  have h4 : fld W 0 5 = tl.val := by unfold fld; omega
  have r4 := reg5_of tl h4
  have h5 : fld W 16 5 = 0 := by unfold fld; omega
  have h6 : fld W 5 1 = 0 := by unfold fld; omega
  rw [decode_major2D W h0]
  simp [decodeMajor2D, decodeMajor2DSel1, whenZero, h1, h2, r3, r4, h5, h6]
theorem RoundTrip.tlstReady (d : RegNum) (tl : TileNum) : RoundTrip.Statement (.tlstReady d tl) := by
  intro _ hwf
  have hw : (encode (.tlstReady d tl)).toNat = d.val * 2 ^ 21 + (tl.val * 2 ^ 0 + (3019900992)) := encode_val _ _ (show packWord 3019900992 [(d.val, 21), (tl.val, 0)] = _ by simp only [packWord_cons, packWord_nil]) (by omega)
  generalize (encode (.tlstReady d tl)).toNat = W at hw
  have h0 : fld W 26 6 = 45 := by unfold fld; omega
  have h1 : fld W 6 5 = 1 := by unfold fld; omega
  have h2 : fld W 11 5 = 1 := by unfold fld; omega
  have h3 : fld W 21 5 = d.val := by unfold fld; omega
  have r3 := reg5_of d h3
  have h4 : fld W 0 5 = tl.val := by unfold fld; omega
  have r4 := reg5_of tl h4
  have h5 : fld W 16 5 = 0 := by unfold fld; omega
  have h6 : fld W 5 1 = 0 := by unfold fld; omega
  rw [decode_major2D W h0]
  simp [decodeMajor2D, decodeMajor2DSel1, whenZero, h1, h2, r3, r4, h5, h6]
theorem RoundTrip.tlstEmpty (d : RegNum) (tl : TileNum) : RoundTrip.Statement (.tlstEmpty d tl) := by
  intro _ hwf
  have hw : (encode (.tlstEmpty d tl)).toNat = d.val * 2 ^ 21 + (tl.val * 2 ^ 0 + (3019903040)) := encode_val _ _ (show packWord 3019903040 [(d.val, 21), (tl.val, 0)] = _ by simp only [packWord_cons, packWord_nil]) (by omega)
  generalize (encode (.tlstEmpty d tl)).toNat = W at hw
  have h0 : fld W 26 6 = 45 := by unfold fld; omega
  have h1 : fld W 6 5 = 1 := by unfold fld; omega
  have h2 : fld W 11 5 = 2 := by unfold fld; omega
  have h3 : fld W 21 5 = d.val := by unfold fld; omega
  have r3 := reg5_of d h3
  have h4 : fld W 0 5 = tl.val := by unfold fld; omega
  have r4 := reg5_of tl h4
  have h5 : fld W 16 5 = 0 := by unfold fld; omega
  have h6 : fld W 5 1 = 0 := by unfold fld; omega
  rw [decode_major2D W h0]
  simp [decodeMajor2D, decodeMajor2DSel1, whenZero, h1, h2, r3, r4, h5, h6]
theorem RoundTrip.tlrel (tl : TileNum) : RoundTrip.Statement (.tlrel tl) := by
  intro _ hwf
  have hw : (encode (.tlrel tl)).toNat = tl.val * 2 ^ 0 + (3019899008) := encode_val _ _ (show packWord 3019899008 [(tl.val, 0)] = _ by simp only [packWord_cons, packWord_nil]) (by omega)
  generalize (encode (.tlrel tl)).toNat = W at hw
  have h0 : fld W 26 6 = 45 := by unfold fld; omega
  have h1 : fld W 6 5 = 2 := by unfold fld; omega
  have h2 : fld W 0 5 = tl.val := by unfold fld; omega
  have r2 := reg5_of tl h2
  have h3 : fld W 21 5 = 0 := by unfold fld; omega
  have h4 : fld W 16 5 = 0 := by unfold fld; omega
  have h5 : fld W 11 5 = 0 := by unfold fld; omega
  have h6 : fld W 5 1 = 0 := by unfold fld; omega
  rw [decode_major2D W h0]
  simp [decodeMajor2D, whenZero, h1, r2, h3, h4, h5, h6]
theorem RoundTrip.caml (d : RegNum) (tl : TileNum) (b : RegNum) : RoundTrip.Statement (.caml d tl b) := by
  intro _ hwf
  have hw : (encode (.caml d tl b)).toNat = d.val * 2 ^ 21 + (tl.val * 2 ^ 0 + (b.val * 2 ^ 11 + (3087007744))) := encode_val _ _ (show packWord 3087007744 [(d.val, 21), (tl.val, 0), (b.val, 11)] = _ by simp only [packWord_cons, packWord_nil]) (by omega)
  generalize (encode (.caml d tl b)).toNat = W at hw
  have h0 : fld W 26 6 = 46 := by unfold fld; omega
  have h1 : fld W 6 5 = 0 := by unfold fld; omega
  have h2 : fld W 21 5 = d.val := by unfold fld; omega
  have r2 := reg5_of d h2
  have h3 : fld W 0 5 = tl.val := by unfold fld; omega
  have r3 := reg5_of tl h3
  have h4 : fld W 11 5 = b.val := by unfold fld; omega
  have r4 := reg5_of b h4
  have h5 : fld W 16 5 = 0 := by unfold fld; omega
  have h6 : fld W 5 1 = 0 := by unfold fld; omega
  rw [decode_major2E W h0]
  simp [decodeMajor2E, whenZero, h1, r2, r3, r4, h5, h6]
theorem RoundTrip.camp (d : RegNum) (o : TileNum) (p : TileNum) (b : RegNum) : RoundTrip.Statement (.camp d o p b) := by
  intro _ hwf
  have hw : (encode (.camp d o p b)).toNat = d.val * 2 ^ 21 + (o.val * 2 ^ 0 + (p.val * 2 ^ 16 + (b.val * 2 ^ 11 + (3087007808)))) := encode_val _ _ (show packWord 3087007808 [(d.val, 21), (o.val, 0), (p.val, 16), (b.val, 11)] = _ by simp only [packWord_cons, packWord_nil]) (by omega)
  generalize (encode (.camp d o p b)).toNat = W at hw
  have h0 : fld W 26 6 = 46 := by unfold fld; omega
  have h1 : fld W 6 5 = 1 := by unfold fld; omega
  have h2 : fld W 21 5 = d.val := by unfold fld; omega
  have r2 := reg5_of d h2
  have h3 : fld W 0 5 = o.val := by unfold fld; omega
  have r3 := reg5_of o h3
  have h4 : fld W 16 5 = p.val := by unfold fld; omega
  have r4 := reg5_of p h4
  have h5 : fld W 11 5 = b.val := by unfold fld; omega
  have r5 := reg5_of b h5
  have h6 : fld W 5 1 = 0 := by unfold fld; omega
  rw [decode_major2E W h0]
  simp [decodeMajor2E, whenZero, h1, r2, r3, r4, r5, h6]
theorem RoundTrip.camc (d : RegNum) (a : RegNum) : RoundTrip.Statement (.camc d a) := by
  intro _ hwf
  have hw : (encode (.camc d a)).toNat = d.val * 2 ^ 21 + (a.val * 2 ^ 16 + (3087007872)) := encode_val _ _ (show packWord 3087007872 [(d.val, 21), (a.val, 16)] = _ by simp only [packWord_cons, packWord_nil]) (by omega)
  generalize (encode (.camc d a)).toNat = W at hw
  have h0 : fld W 26 6 = 46 := by unfold fld; omega
  have h1 : fld W 6 5 = 2 := by unfold fld; omega
  have h2 : fld W 21 5 = d.val := by unfold fld; omega
  have r2 := reg5_of d h2
  have h3 : fld W 16 5 = a.val := by unfold fld; omega
  have r3 := reg5_of a h3
  have h4 : fld W 11 5 = 0 := by unfold fld; omega
  have h5 : fld W 0 6 = 0 := by unfold fld; omega
  rw [decode_major2E W h0]
  simp [decodeMajor2E, whenZero, h1, r2, r3, h4, h5]
theorem RoundTrip.getr (d : RegNum) (a : RegNum) (b : RegNum) (e : RegNum) : RoundTrip.Statement (.getr d a b e) := by
  intro _ hwf
  have hw : (encode (.getr d a b e)).toNat = d.val * 2 ^ 21 + (a.val * 2 ^ 16 + (b.val * 2 ^ 11 + (e.val * 2 ^ 0 + (3087007936)))) := encode_val _ _ (show packWord 3087007936 [(d.val, 21), (a.val, 16), (b.val, 11), (e.val, 0)] = _ by simp only [packWord_cons, packWord_nil]) (by omega)
  generalize (encode (.getr d a b e)).toNat = W at hw
  have h0 : fld W 26 6 = 46 := by unfold fld; omega
  have h1 : fld W 6 5 = 3 := by unfold fld; omega
  have h2 : fld W 21 5 = d.val := by unfold fld; omega
  have r2 := reg5_of d h2
  have h3 : fld W 16 5 = a.val := by unfold fld; omega
  have r3 := reg5_of a h3
  have h4 : fld W 11 5 = b.val := by unfold fld; omega
  have r4 := reg5_of b h4
  have h5 : fld W 0 5 = e.val := by unfold fld; omega
  have r5 := reg5_of e h5
  have h6 : fld W 5 1 = 0 := by unfold fld; omega
  rw [decode_major2E W h0]
  simp [decodeMajor2E, whenZero, h1, r2, r3, r4, r5, h6]
theorem RoundTrip.spcf (d : RegNum) (a : RegNum) : RoundTrip.Statement (.spcf d a) := by
  intro _ hwf
  have hw : (encode (.spcf d a)).toNat = d.val * 2 ^ 21 + (a.val * 2 ^ 16 + (3087008000)) := encode_val _ _ (show packWord 3087008000 [(d.val, 21), (a.val, 16)] = _ by simp only [packWord_cons, packWord_nil]) (by omega)
  generalize (encode (.spcf d a)).toNat = W at hw
  have h0 : fld W 26 6 = 46 := by unfold fld; omega
  have h1 : fld W 6 5 = 4 := by unfold fld; omega
  have h2 : fld W 21 5 = d.val := by unfold fld; omega
  have r2 := reg5_of d h2
  have h3 : fld W 16 5 = a.val := by unfold fld; omega
  have r3 := reg5_of a h3
  have h4 : fld W 11 5 = 0 := by unfold fld; omega
  have h5 : fld W 0 6 = 0 := by unfold fld; omega
  rw [decode_major2E W h0]
  simp [decodeMajor2E, whenZero, h1, r2, r3, h4, h5]
theorem RoundTrip.subj (d : RegNum) (a : RegNum) (b : RegNum) : RoundTrip.Statement (.subj d a b) := by
  intro _ hwf
  have hw : (encode (.subj d a b)).toNat = d.val * 2 ^ 21 + (a.val * 2 ^ 16 + (b.val * 2 ^ 11 + (3154116608))) := encode_val _ _ (show packWord 3154116608 [(d.val, 21), (a.val, 16), (b.val, 11)] = _ by simp only [packWord_cons, packWord_nil]) (by omega)
  generalize (encode (.subj d a b)).toNat = W at hw
  have h0 : fld W 26 6 = 47 := by unfold fld; omega
  have h1 : fld W 6 5 = 0 := by unfold fld; omega
  have h2 : fld W 21 5 = d.val := by unfold fld; omega
  have r2 := reg5_of d h2
  have h3 : fld W 16 5 = a.val := by unfold fld; omega
  have r3 := reg5_of a h3
  have h4 : fld W 11 5 = b.val := by unfold fld; omega
  have r4 := reg5_of b h4
  have h5 : fld W 0 6 = 0 := by unfold fld; omega
  rw [decode_major2F W h0]
  simp [decodeMajor2F, whenZero, h1, r2, r3, r4, h5]
theorem RoundTrip.subl (d : RegNum) (b : RegNum) : RoundTrip.Statement (.subl d b) := by
  intro _ hwf
  have hw : (encode (.subl d b)).toNat = d.val * 2 ^ 21 + (b.val * 2 ^ 11 + (3154116672)) := encode_val _ _ (show packWord 3154116672 [(d.val, 21), (b.val, 11)] = _ by simp only [packWord_cons, packWord_nil]) (by omega)
  generalize (encode (.subl d b)).toNat = W at hw
  have h0 : fld W 26 6 = 47 := by unfold fld; omega
  have h1 : fld W 6 5 = 1 := by unfold fld; omega
  have h2 : fld W 21 5 = d.val := by unfold fld; omega
  have r2 := reg5_of d h2
  have h3 : fld W 11 5 = b.val := by unfold fld; omega
  have r3 := reg5_of b h3
  have h4 : fld W 16 5 = 0 := by unfold fld; omega
  have h5 : fld W 0 6 = 0 := by unfold fld; omega
  rw [decode_major2F W h0]
  simp [decodeMajor2F, whenZero, h1, r2, r3, h4, h5]
theorem RoundTrip.sopn (d : RegNum) (a : RegNum) (b : RegNum) : RoundTrip.Statement (.sopn d a b) := by
  intro _ hwf
  have hw : (encode (.sopn d a b)).toNat = d.val * 2 ^ 21 + (a.val * 2 ^ 16 + (b.val * 2 ^ 11 + (3154116736))) := encode_val _ _ (show packWord 3154116736 [(d.val, 21), (a.val, 16), (b.val, 11)] = _ by simp only [packWord_cons, packWord_nil]) (by omega)
  generalize (encode (.sopn d a b)).toNat = W at hw
  have h0 : fld W 26 6 = 47 := by unfold fld; omega
  have h1 : fld W 6 5 = 2 := by unfold fld; omega
  have h2 : fld W 21 5 = d.val := by unfold fld; omega
  have r2 := reg5_of d h2
  have h3 : fld W 16 5 = a.val := by unfold fld; omega
  have r3 := reg5_of a h3
  have h4 : fld W 11 5 = b.val := by unfold fld; omega
  have r4 := reg5_of b h4
  have h5 : fld W 0 6 = 0 := by unfold fld; omega
  rw [decode_major2F W h0]
  simp [decodeMajor2F, whenZero, h1, r2, r3, r4, h5]
theorem RoundTrip.ssnd (d : RegNum) (p : Bool) (a : RegNum) (b : RegNum) : RoundTrip.Statement (.ssnd d p a b) := by
  intro _ hwf
  have b_p := boolLt p
  have hw : (encode (.ssnd d p a b)).toNat = d.val * 2 ^ 21 + (p.toNat * 2 ^ 0 + (a.val * 2 ^ 16 + (b.val * 2 ^ 11 + (3154116800)))) := encode_val _ _ (show packWord 3154116800 [(d.val, 21), (p.toNat, 0), (a.val, 16), (b.val, 11)] = _ by simp only [packWord_cons, packWord_nil]) (by omega)
  generalize (encode (.ssnd d p a b)).toNat = W at hw
  have h0 : fld W 26 6 = 47 := by unfold fld; omega
  have h1 : fld W 6 5 = 3 := by unfold fld; omega
  have h2 : fld W 0 1 = p.toNat := by unfold fld; omega
  have h3 : fld W 21 5 = d.val := by unfold fld; omega
  have r3 := reg5_of d h3
  have h4 : fld W 16 5 = a.val := by unfold fld; omega
  have r4 := reg5_of a h4
  have h5 : fld W 11 5 = b.val := by unfold fld; omega
  have r5 := reg5_of b h5
  have h6 : fld W 1 5 = 0 := by unfold fld; omega
  rw [decode_major2F W h0]
  simp [decodeMajor2F, whenZero, h1, h2, r3, r4, r5, h6]
theorem RoundTrip.scls (d : RegNum) (p : Bool) : RoundTrip.Statement (.scls d p) := by
  intro _ hwf
  have b_p := boolLt p
  have hw : (encode (.scls d p)).toNat = d.val * 2 ^ 21 + (p.toNat * 2 ^ 0 + (3154116864)) := encode_val _ _ (show packWord 3154116864 [(d.val, 21), (p.toNat, 0)] = _ by simp only [packWord_cons, packWord_nil]) (by omega)
  generalize (encode (.scls d p)).toNat = W at hw
  have h0 : fld W 26 6 = 47 := by unfold fld; omega
  have h1 : fld W 6 5 = 4 := by unfold fld; omega
  have h2 : fld W 0 1 = p.toNat := by unfold fld; omega
  have h3 : fld W 21 5 = d.val := by unfold fld; omega
  have r3 := reg5_of d h3
  have h4 : fld W 16 5 = 0 := by unfold fld; omega
  have h5 : fld W 11 5 = 0 := by unfold fld; omega
  have h6 : fld W 1 5 = 0 := by unfold fld; omega
  rw [decode_major2F W h0]
  simp [decodeMajor2F, whenZero, h1, h2, r3, h4, h5, h6]
theorem RoundTrip.sysc (imm : BitVec 12) : RoundTrip.Statement (.sysc imm) := by
  intro _ hwf
  have hw : (encode (.sysc imm)).toNat = imm.toNat * 2 ^ 4 + (3221225472) := encode_val _ _ (show packWord 3221225472 [(imm.toNat, 4)] = _ by simp only [packWord_cons, packWord_nil]) (by omega)
  generalize (encode (.sysc imm)).toNat = W at hw
  have h0 : fld W 26 6 = 48 := by unfold fld; omega
  have h1 : fld W 0 4 = 0 := by unfold fld; omega
  have h2 : fld W 4 12 = imm.toNat := by unfold fld; omega
  have h3 : fld W 21 5 = 0 := by unfold fld; omega
  have h4 : fld W 16 5 = 0 := by unfold fld; omega
  rw [decode_major30 W h0]
  simp [decodeMajor30, whenZero, h1, h2, h3, h4]
theorem RoundTrip.trap (a : RegNum) (imm : BitVec 12) : RoundTrip.Statement (.trap a imm) := by
  intro _ hwf
  have hw : (encode (.trap a imm)).toNat = a.val * 2 ^ 16 + (imm.toNat * 2 ^ 4 + (3221225473)) := encode_val _ _ (show packWord 3221225473 [(a.val, 16), (imm.toNat, 4)] = _ by simp only [packWord_cons, packWord_nil]) (by omega)
  generalize (encode (.trap a imm)).toNat = W at hw
  have h0 : fld W 26 6 = 48 := by unfold fld; omega
  have h1 : fld W 0 4 = 1 := by unfold fld; omega
  have h2 : fld W 4 12 = imm.toNat := by unfold fld; omega
  have h3 : fld W 16 5 = a.val := by unfold fld; omega
  have r3 := reg5_of a h3
  have h4 : fld W 21 5 = 0 := by unfold fld; omega
  rw [decode_major30 W h0]
  simp [decodeMajor30, whenZero, h1, h2, r3, h4]
theorem RoundTrip.brk (imm : BitVec 12) : RoundTrip.Statement (.brk imm) := by
  intro _ hwf
  have hw : (encode (.brk imm)).toNat = imm.toNat * 2 ^ 4 + (3221225474) := encode_val _ _ (show packWord 3221225474 [(imm.toNat, 4)] = _ by simp only [packWord_cons, packWord_nil]) (by omega)
  generalize (encode (.brk imm)).toNat = W at hw
  have h0 : fld W 26 6 = 48 := by unfold fld; omega
  have h1 : fld W 0 4 = 2 := by unfold fld; omega
  have h2 : fld W 4 12 = imm.toNat := by unfold fld; omega
  have h3 : fld W 21 5 = 0 := by unfold fld; omega
  have h4 : fld W 16 5 = 0 := by unfold fld; omega
  rw [decode_major30 W h0]
  simp [decodeMajor30, whenZero, h1, h2, h3, h4]
theorem RoundTrip.prmt (d : RegNum) (a : RegNum) : RoundTrip.Statement (.prmt d a) := by
  intro _ hwf
  have hw : (encode (.prmt d a)).toNat = d.val * 2 ^ 21 + (a.val * 2 ^ 16 + (3221225476)) := encode_val _ _ (show packWord 3221225476 [(d.val, 21), (a.val, 16)] = _ by simp only [packWord_cons, packWord_nil]) (by omega)
  generalize (encode (.prmt d a)).toNat = W at hw
  have h0 : fld W 26 6 = 48 := by unfold fld; omega
  have h1 : fld W 0 4 = 4 := by unfold fld; omega
  have h2 : fld W 21 5 = d.val := by unfold fld; omega
  have r2 := reg5_of d h2
  have h3 : fld W 16 5 = a.val := by unfold fld; omega
  have r3 := reg5_of a h3
  have h4 : fld W 4 12 = 0 := by unfold fld; omega
  rw [decode_major30 W h0]
  simp [decodeMajor30, whenZero, h1, r2, r3, h4]
theorem RoundTrip.rsum (d : RegNum) (a : RegNum) : RoundTrip.Statement (.rsum d a) := by
  intro _ hwf
  have hw : (encode (.rsum d a)).toNat = d.val * 2 ^ 21 + (a.val * 2 ^ 16 + (3221225477)) := encode_val _ _ (show packWord 3221225477 [(d.val, 21), (a.val, 16)] = _ by simp only [packWord_cons, packWord_nil]) (by omega)
  generalize (encode (.rsum d a)).toNat = W at hw
  have h0 : fld W 26 6 = 48 := by unfold fld; omega
  have h1 : fld W 0 4 = 5 := by unfold fld; omega
  have h2 : fld W 21 5 = d.val := by unfold fld; omega
  have r2 := reg5_of d h2
  have h3 : fld W 16 5 = a.val := by unfold fld; omega
  have r3 := reg5_of a h3
  have h4 : fld W 4 12 = 0 := by unfold fld; omega
  rw [decode_major30 W h0]
  simp [decodeMajor30, whenZero, h1, r2, r3, h4]
theorem RoundTrip.tlbiPg (a : RegNum) (size : Fin 12) : RoundTrip.Statement (.tlbiPg a size) := by
  intro _ hwf
  have hw : (encode (.tlbiPg a size)).toNat = a.val * 2 ^ 16 + (size.val * 2 ^ 6 + (3221225478)) := encode_val _ _ (show packWord 3221225478 [(a.val, 16), (size.val, 6)] = _ by simp only [packWord_cons, packWord_nil]) (by omega)
  generalize (encode (.tlbiPg a size)).toNat = W at hw
  have h0 : fld W 26 6 = 48 := by unfold fld; omega
  have h1 : fld W 0 4 = 6 := by unfold fld; omega
  have h2 : fld W 4 2 = 0 := by unfold fld; omega
  have h3 : fld W 6 4 = size.val := by unfold fld; omega
  have h4 : fld W 16 5 = a.val := by unfold fld; omega
  have r4 := reg5_of a h4
  have h5 : fld W 21 5 = 0 := by unfold fld; omega
  have h6 : fld W 10 6 = 0 := by unfold fld; omega
  rw [decode_major30 W h0]
  simp [decodeMajor30, decodeMajor30Sel6, whenZero, h1, h2, h3, r4, h5, h6]
theorem RoundTrip.tlbiWake (a : RegNum) : RoundTrip.Statement (.tlbiWake a) := by
  intro _ hwf
  have hw : (encode (.tlbiWake a)).toNat = a.val * 2 ^ 16 + (3221225510) := encode_val _ _ (show packWord 3221225510 [(a.val, 16)] = _ by simp only [packWord_cons, packWord_nil]) (by omega)
  generalize (encode (.tlbiWake a)).toNat = W at hw
  have h0 : fld W 26 6 = 48 := by unfold fld; omega
  have h1 : fld W 0 4 = 6 := by unfold fld; omega
  have h2 : fld W 4 2 = 2 := by unfold fld; omega
  have h3 : fld W 16 5 = a.val := by unfold fld; omega
  have r3 := reg5_of a h3
  have h4 : fld W 21 5 = 0 := by unfold fld; omega
  have h5 : fld W 6 10 = 0 := by unfold fld; omega
  rw [decode_major30 W h0]
  simp [decodeMajor30, decodeMajor30Sel6, whenZero, h1, h2, r3, h4, h5]
theorem RoundTrip.pmig (d : RegNum) (a : RegNum) (home : BitVec 10) : RoundTrip.Statement (.pmig d a home) := by
  intro _ hwf
  have hw : (encode (.pmig d a home)).toNat = d.val * 2 ^ 21 + (a.val * 2 ^ 16 + (home.toNat * 2 ^ 4 + (3221225479))) := encode_val _ _ (show packWord 3221225479 [(d.val, 21), (a.val, 16), (home.toNat, 4)] = _ by simp only [packWord_cons, packWord_nil]) (by omega)
  generalize (encode (.pmig d a home)).toNat = W at hw
  have h0 : fld W 26 6 = 48 := by unfold fld; omega
  have h1 : fld W 0 4 = 7 := by unfold fld; omega
  have h2 : fld W 4 10 = home.toNat := by unfold fld; omega
  have h3 : fld W 21 5 = d.val := by unfold fld; omega
  have r3 := reg5_of d h3
  have h4 : fld W 16 5 = a.val := by unfold fld; omega
  have r4 := reg5_of a h4
  have h5 : fld W 14 2 = 0 := by unfold fld; omega
  rw [decode_major30 W h0]
  simp [decodeMajor30, whenZero, h1, h2, r3, r4, h5]
theorem RoundTrip.halt (d : RegNum) : RoundTrip.Statement (.halt d) := by
  intro _ hwf
  have hw : (encode (.halt d)).toNat = d.val * 2 ^ 21 + (3221225480) := encode_val _ _ (show packWord 3221225480 [(d.val, 21)] = _ by simp only [packWord_cons, packWord_nil]) (by omega)
  generalize (encode (.halt d)).toNat = W at hw
  have h0 : fld W 26 6 = 48 := by unfold fld; omega
  have h1 : fld W 0 4 = 8 := by unfold fld; omega
  have h2 : fld W 21 5 = d.val := by unfold fld; omega
  have r2 := reg5_of d h2
  have h3 : fld W 16 5 = 0 := by unfold fld; omega
  have h4 : fld W 4 12 = 0 := by unfold fld; omega
  rw [decode_major30 W h0]
  simp [decodeMajor30, whenZero, h1, r2, h3, h4]
theorem RoundTrip.cntnContain (d : RegNum) (a : RegNum) : RoundTrip.Statement (.cntnContain d a) := by
  intro _ hwf
  have hw : (encode (.cntnContain d a)).toNat = d.val * 2 ^ 21 + (a.val * 2 ^ 16 + (3221225482)) := encode_val _ _ (show packWord 3221225482 [(d.val, 21), (a.val, 16)] = _ by simp only [packWord_cons, packWord_nil]) (by omega)
  generalize (encode (.cntnContain d a)).toNat = W at hw
  have h0 : fld W 26 6 = 48 := by unfold fld; omega
  have h1 : fld W 0 4 = 10 := by unfold fld; omega
  have h2 : fld W 4 2 = 0 := by unfold fld; omega
  have h3 : fld W 21 5 = d.val := by unfold fld; omega
  have r3 := reg5_of d h3
  have h4 : fld W 16 5 = a.val := by unfold fld; omega
  have r4 := reg5_of a h4
  have h5 : fld W 6 10 = 0 := by unfold fld; omega
  rw [decode_major30 W h0]
  simp [decodeMajor30, decodeMajor30Sel10, whenZero, h1, h2, r3, r4, h5]
theorem RoundTrip.cntnRelease (d : RegNum) (a : RegNum) : RoundTrip.Statement (.cntnRelease d a) := by
  intro _ hwf
  have hw : (encode (.cntnRelease d a)).toNat = d.val * 2 ^ 21 + (a.val * 2 ^ 16 + (3221225498)) := encode_val _ _ (show packWord 3221225498 [(d.val, 21), (a.val, 16)] = _ by simp only [packWord_cons, packWord_nil]) (by omega)
  generalize (encode (.cntnRelease d a)).toNat = W at hw
  have h0 : fld W 26 6 = 48 := by unfold fld; omega
  have h1 : fld W 0 4 = 10 := by unfold fld; omega
  have h2 : fld W 4 2 = 1 := by unfold fld; omega
  have h3 : fld W 21 5 = d.val := by unfold fld; omega
  have r3 := reg5_of d h3
  have h4 : fld W 16 5 = a.val := by unfold fld; omega
  have r4 := reg5_of a h4
  have h5 : fld W 6 10 = 0 := by unfold fld; omega
  rw [decode_major30 W h0]
  simp [decodeMajor30, decodeMajor30Sel10, whenZero, h1, h2, r3, r4, h5]
theorem RoundTrip.cntnQuery (d : RegNum) (a : RegNum) : RoundTrip.Statement (.cntnQuery d a) := by
  intro _ hwf
  have hw : (encode (.cntnQuery d a)).toNat = d.val * 2 ^ 21 + (a.val * 2 ^ 16 + (3221225514)) := encode_val _ _ (show packWord 3221225514 [(d.val, 21), (a.val, 16)] = _ by simp only [packWord_cons, packWord_nil]) (by omega)
  generalize (encode (.cntnQuery d a)).toNat = W at hw
  have h0 : fld W 26 6 = 48 := by unfold fld; omega
  have h1 : fld W 0 4 = 10 := by unfold fld; omega
  have h2 : fld W 4 2 = 2 := by unfold fld; omega
  have h3 : fld W 21 5 = d.val := by unfold fld; omega
  have r3 := reg5_of d h3
  have h4 : fld W 16 5 = a.val := by unfold fld; omega
  have r4 := reg5_of a h4
  have h5 : fld W 6 10 = 0 := by unfold fld; omega
  rw [decode_major30 W h0]
  simp [decodeMajor30, decodeMajor30Sel10, whenZero, h1, h2, r3, r4, h5]
theorem RoundTrip.dupc (d : RegNum) (a : RegNum) : RoundTrip.Statement (.dupc d a) := by
  intro _ hwf
  have hw : (encode (.dupc d a)).toNat = d.val * 2 ^ 21 + (a.val * 2 ^ 16 + (3221225483)) := encode_val _ _ (show packWord 3221225483 [(d.val, 21), (a.val, 16)] = _ by simp only [packWord_cons, packWord_nil]) (by omega)
  generalize (encode (.dupc d a)).toNat = W at hw
  have h0 : fld W 26 6 = 48 := by unfold fld; omega
  have h1 : fld W 0 4 = 11 := by unfold fld; omega
  have h2 : fld W 4 2 = 0 := by unfold fld; omega
  have h3 : fld W 21 5 = d.val := by unfold fld; omega
  have r3 := reg5_of d h3
  have h4 : fld W 16 5 = a.val := by unfold fld; omega
  have r4 := reg5_of a h4
  have h5 : fld W 6 10 = 0 := by unfold fld; omega
  rw [decode_major30 W h0]
  simp [decodeMajor30, decodeMajor30Sel11, whenZero, h1, h2, r3, r4, h5]
theorem RoundTrip.dupcClear (d : RegNum) (a : RegNum) : RoundTrip.Statement (.dupcClear d a) := by
  intro _ hwf
  have hw : (encode (.dupcClear d a)).toNat = d.val * 2 ^ 21 + (a.val * 2 ^ 16 + (3221225499)) := encode_val _ _ (show packWord 3221225499 [(d.val, 21), (a.val, 16)] = _ by simp only [packWord_cons, packWord_nil]) (by omega)
  generalize (encode (.dupcClear d a)).toNat = W at hw
  have h0 : fld W 26 6 = 48 := by unfold fld; omega
  have h1 : fld W 0 4 = 11 := by unfold fld; omega
  have h2 : fld W 4 2 = 1 := by unfold fld; omega
  have h3 : fld W 21 5 = d.val := by unfold fld; omega
  have r3 := reg5_of d h3
  have h4 : fld W 16 5 = a.val := by unfold fld; omega
  have r4 := reg5_of a h4
  have h5 : fld W 6 10 = 0 := by unfold fld; omega
  rw [decode_major30 W h0]
  simp [decodeMajor30, decodeMajor30Sel11, whenZero, h1, h2, r3, r4, h5]
theorem RoundTrip.csrr (d : RegNum) (csr : Csr) : RoundTrip.Statement (.csrr d csr) := by
  intro _ hwf
  have b_csr := Csr.code_lt csr
  have hw : (encode (.csrr d csr)).toNat = d.val * 2 ^ 21 + (csr.code * 2 ^ 4 + (3288334336)) := encode_val _ _ (show packWord 3288334336 [(d.val, 21), (csr.code, 4)] = _ by simp only [packWord_cons, packWord_nil]) (by omega)
  generalize (encode (.csrr d csr)).toNat = W at hw
  have h0 : fld W 26 6 = 49 := by unfold fld; omega
  have h1 : fld W 0 4 = 0 := by unfold fld; omega
  have h2 : fld W 4 12 = csr.code := by unfold fld; omega
  have h3 : fld W 21 5 = d.val := by unfold fld; omega
  have r3 := reg5_of d h3
  have h4 : fld W 16 5 = 0 := by unfold fld; omega
  rw [decode_major31 W h0]
  simp [decodeMajor31, whenZero, h1, h2, r3, h4]
theorem RoundTrip.csrw (d : RegNum) (csr : Csr) (a : RegNum) : RoundTrip.Statement (.csrw d csr a) := by
  intro _ hwf
  have b_csr := Csr.code_lt csr
  have hw : (encode (.csrw d csr a)).toNat = d.val * 2 ^ 21 + (csr.code * 2 ^ 4 + (a.val * 2 ^ 16 + (3288334337))) := encode_val _ _ (show packWord 3288334337 [(d.val, 21), (csr.code, 4), (a.val, 16)] = _ by simp only [packWord_cons, packWord_nil]) (by omega)
  generalize (encode (.csrw d csr a)).toNat = W at hw
  have h0 : fld W 26 6 = 49 := by unfold fld; omega
  have h1 : fld W 0 4 = 1 := by unfold fld; omega
  have h2 : fld W 4 12 = csr.code := by unfold fld; omega
  have h3 : fld W 21 5 = d.val := by unfold fld; omega
  have r3 := reg5_of d h3
  have h4 : fld W 16 5 = a.val := by unfold fld; omega
  have r4 := reg5_of a h4
  rw [decode_major31 W h0]
  simp [decodeMajor31, h1, h2, r3, r4]
theorem RoundTrip.csrs (d : RegNum) (csr : Csr) (a : RegNum) : RoundTrip.Statement (.csrs d csr a) := by
  intro _ hwf
  have b_csr := Csr.code_lt csr
  have hw : (encode (.csrs d csr a)).toNat = d.val * 2 ^ 21 + (csr.code * 2 ^ 4 + (a.val * 2 ^ 16 + (3288334338))) := encode_val _ _ (show packWord 3288334338 [(d.val, 21), (csr.code, 4), (a.val, 16)] = _ by simp only [packWord_cons, packWord_nil]) (by omega)
  generalize (encode (.csrs d csr a)).toNat = W at hw
  have h0 : fld W 26 6 = 49 := by unfold fld; omega
  have h1 : fld W 0 4 = 2 := by unfold fld; omega
  have h2 : fld W 4 12 = csr.code := by unfold fld; omega
  have h3 : fld W 21 5 = d.val := by unfold fld; omega
  have r3 := reg5_of d h3
  have h4 : fld W 16 5 = a.val := by unfold fld; omega
  have r4 := reg5_of a h4
  rw [decode_major31 W h0]
  have q := csr_mask hwf
  simp [decodeMajor31, h1, h2, r3, r4, q]
theorem RoundTrip.csrc (d : RegNum) (csr : Csr) (a : RegNum) : RoundTrip.Statement (.csrc d csr a) := by
  intro _ hwf
  have b_csr := Csr.code_lt csr
  have hw : (encode (.csrc d csr a)).toNat = d.val * 2 ^ 21 + (csr.code * 2 ^ 4 + (a.val * 2 ^ 16 + (3288334339))) := encode_val _ _ (show packWord 3288334339 [(d.val, 21), (csr.code, 4), (a.val, 16)] = _ by simp only [packWord_cons, packWord_nil]) (by omega)
  generalize (encode (.csrc d csr a)).toNat = W at hw
  have h0 : fld W 26 6 = 49 := by unfold fld; omega
  have h1 : fld W 0 4 = 3 := by unfold fld; omega
  have h2 : fld W 4 12 = csr.code := by unfold fld; omega
  have h3 : fld W 21 5 = d.val := by unfold fld; omega
  have r3 := reg5_of d h3
  have h4 : fld W 16 5 = a.val := by unfold fld; omega
  have r4 := reg5_of a h4
  rw [decode_major31 W h0]
  have q := csr_mask hwf
  simp [decodeMajor31, h1, h2, r3, r4, q]
theorem RoundTrip.snap (d : RegNum) (a : RegNum) (full : Bool) : RoundTrip.Statement (.snap d a full) := by
  intro _ hwf
  have b_full := boolLt full
  have hw : (encode (.snap d a full)).toNat = d.val * 2 ^ 21 + (a.val * 2 ^ 16 + (full.toNat * 2 ^ 4 + (3355443200))) := encode_val _ _ (show packWord 3355443200 [(d.val, 21), (a.val, 16), (full.toNat, 4)] = _ by simp only [packWord_cons, packWord_nil]) (by omega)
  generalize (encode (.snap d a full)).toNat = W at hw
  have h0 : fld W 26 6 = 50 := by unfold fld; omega
  have h1 : fld W 0 4 = 0 := by unfold fld; omega
  have h2 : fld W 4 1 = full.toNat := by unfold fld; omega
  have h3 : fld W 21 5 = d.val := by unfold fld; omega
  have r3 := reg5_of d h3
  have h4 : fld W 16 5 = a.val := by unfold fld; omega
  have r4 := reg5_of a h4
  have h5 : fld W 5 11 = 0 := by unfold fld; omega
  rw [decode_major32 W h0]
  simp [decodeMajor32, whenZero, h1, h2, r3, r4, h5]
theorem RoundTrip.snpw (d : RegNum) (a : RegNum) : RoundTrip.Statement (.snpw d a) := by
  intro _ hwf
  have hw : (encode (.snpw d a)).toNat = d.val * 2 ^ 21 + (a.val * 2 ^ 16 + (3355443201)) := encode_val _ _ (show packWord 3355443201 [(d.val, 21), (a.val, 16)] = _ by simp only [packWord_cons, packWord_nil]) (by omega)
  generalize (encode (.snpw d a)).toNat = W at hw
  have h0 : fld W 26 6 = 50 := by unfold fld; omega
  have h1 : fld W 0 4 = 1 := by unfold fld; omega
  have h2 : fld W 21 5 = d.val := by unfold fld; omega
  have r2 := reg5_of d h2
  have h3 : fld W 16 5 = a.val := by unfold fld; omega
  have r3 := reg5_of a h3
  have h4 : fld W 4 12 = 0 := by unfold fld; omega
  rw [decode_major32 W h0]
  simp [decodeMajor32, whenZero, h1, r2, r3, h4]
theorem RoundTrip.snpq (d : RegNum) (a : RegNum) : RoundTrip.Statement (.snpq d a) := by
  intro _ hwf
  have hw : (encode (.snpq d a)).toNat = d.val * 2 ^ 21 + (a.val * 2 ^ 16 + (3355443202)) := encode_val _ _ (show packWord 3355443202 [(d.val, 21), (a.val, 16)] = _ by simp only [packWord_cons, packWord_nil]) (by omega)
  generalize (encode (.snpq d a)).toNat = W at hw
  have h0 : fld W 26 6 = 50 := by unfold fld; omega
  have h1 : fld W 0 4 = 2 := by unfold fld; omega
  have h2 : fld W 21 5 = d.val := by unfold fld; omega
  have r2 := reg5_of d h2
  have h3 : fld W 16 5 = a.val := by unfold fld; omega
  have r3 := reg5_of a h3
  have h4 : fld W 4 12 = 0 := by unfold fld; omega
  rw [decode_major32 W h0]
  simp [decodeMajor32, whenZero, h1, r2, r3, h4]
theorem RoundTrip.rbck (d : RegNum) (a : RegNum) : RoundTrip.Statement (.rbck d a) := by
  intro _ hwf
  have hw : (encode (.rbck d a)).toNat = d.val * 2 ^ 21 + (a.val * 2 ^ 16 + (3355443203)) := encode_val _ _ (show packWord 3355443203 [(d.val, 21), (a.val, 16)] = _ by simp only [packWord_cons, packWord_nil]) (by omega)
  generalize (encode (.rbck d a)).toNat = W at hw
  have h0 : fld W 26 6 = 50 := by unfold fld; omega
  have h1 : fld W 0 4 = 3 := by unfold fld; omega
  have h2 : fld W 21 5 = d.val := by unfold fld; omega
  have r2 := reg5_of d h2
  have h3 : fld W 16 5 = a.val := by unfold fld; omega
  have r3 := reg5_of a h3
  have h4 : fld W 4 12 = 0 := by unfold fld; omega
  rw [decode_major32 W h0]
  simp [decodeMajor32, whenZero, h1, r2, r3, h4]
theorem RoundTrip.rpt (l : Fin 16) (n : Fin 128) (sd : BitVec 3) (sa : BitVec 3) (sb : BitVec 3) (sc : BitVec 3) : RoundTrip.Statement (.rpt l n sd sa sb sc) := by
  intro _ hwf
  have hw : (encode (.rpt l n sd sa sb sc)).toNat = l.val * 2 ^ 19 + (n.val * 2 ^ 12 + (sd.toNat * 2 ^ 9 + (sa.toNat * 2 ^ 6 + (sb.toNat * 2 ^ 3 + (sc.toNat * 2 ^ 0 + (4227858432)))))) := encode_val _ _ (show packWord 4227858432 [(l.val, 19), (n.val, 12), (sd.toNat, 9), (sa.toNat, 6), (sb.toNat, 3), (sc.toNat, 0)] = _ by simp only [packWord_cons, packWord_nil]) (by omega)
  generalize (encode (.rpt l n sd sa sb sc)).toNat = W at hw
  have h0 : fld W 26 6 = 63 := by unfold fld; omega
  have h1 : fld W 23 3 = 0 := by unfold fld; omega
  have h2 : fld W 19 4 = l.val := by unfold fld; omega
  have h3 : fld W 12 7 = n.val := by unfold fld; omega
  have h4 : fld W 9 3 = sd.toNat := by unfold fld; omega
  have h5 : fld W 6 3 = sa.toNat := by unfold fld; omega
  have h6 : fld W 3 3 = sb.toNat := by unfold fld; omega
  have h7 : fld W 0 3 = sc.toNat := by unfold fld; omega
  rw [decode_major3F W h0]
  simp [decodeMajor3F, h1, h2, h3, h4, h5, h6, h7]
theorem RoundTrip.tend : RoundTrip.Statement (.tend) := by
  intro _ hwf
  have hw : (encode (.tend)).toNat = 1610612738 := encode_val _ _ (show packWord 1610612738 [] = _ by simp only [packWord_nil]) (by omega)
  generalize (encode (.tend)).toNat = W at hw
  have h0 : fld W 26 6 = 24 := by unfold fld; omega
  have h1 : fld W 0 4 = 2 := by unfold fld; omega
  have h2 : fld W 21 5 = 0 := by unfold fld; omega
  have h3 : fld W 16 5 = 0 := by unfold fld; omega
  have h4 : fld W 11 5 = 0 := by unfold fld; omega
  have h5 : fld W 4 7 = 0 := by unfold fld; omega
  rw [decode_major18 W h0]
  simp [decodeMajor18, whenZero, h1, h2, h3, h4, h5]
theorem RoundTrip.tirv : RoundTrip.Statement (.tirv) := by
  intro _ hwf
  have hw : (encode (.tirv)).toNat = 1610612740 := encode_val _ _ (show packWord 1610612740 [] = _ by simp only [packWord_nil]) (by omega)
  generalize (encode (.tirv)).toNat = W at hw
  have h0 : fld W 26 6 = 24 := by unfold fld; omega
  have h1 : fld W 0 4 = 4 := by unfold fld; omega
  have h2 : fld W 21 5 = 0 := by unfold fld; omega
  have h3 : fld W 16 5 = 0 := by unfold fld; omega
  have h4 : fld W 11 5 = 0 := by unfold fld; omega
  have h5 : fld W 4 7 = 0 := by unfold fld; omega
  rw [decode_major18 W h0]
  simp [decodeMajor18, whenZero, h1, h2, h3, h4, h5]
theorem RoundTrip.msync : RoundTrip.Statement (.msync) := by
  intro _ hwf
  have hw : (encode (.msync)).toNat = 2684355136 := encode_val _ _ (show packWord 2684355136 [] = _ by simp only [packWord_nil]) (by omega)
  generalize (encode (.msync)).toNat = W at hw
  have h0 : fld W 26 6 = 40 := by unfold fld; omega
  have h1 : fld W 6 5 = 9 := by unfold fld; omega
  have h2 : fld W 21 5 = 0 := by unfold fld; omega
  have h3 : fld W 16 5 = 0 := by unfold fld; omega
  have h4 : fld W 11 5 = 0 := by unfold fld; omega
  have h5 : fld W 0 6 = 0 := by unfold fld; omega
  rw [decode_major28 W h0]
  simp [decodeMajor28, whenZero, h1, h2, h3, h4, h5]
theorem RoundTrip.lret : RoundTrip.Statement (.lret) := by
  intro _ hwf
  have hw : (encode (.lret)).toNat = 2952790464 := encode_val _ _ (show packWord 2952790464 [] = _ by simp only [packWord_nil]) (by omega)
  generalize (encode (.lret)).toNat = W at hw
  have h0 : fld W 26 6 = 44 := by unfold fld; omega
  have h1 : fld W 6 5 = 7 := by unfold fld; omega
  have h2 : fld W 21 5 = 0 := by unfold fld; omega
  have h3 : fld W 16 5 = 0 := by unfold fld; omega
  have h4 : fld W 11 5 = 0 := by unfold fld; omega
  have h5 : fld W 0 6 = 0 := by unfold fld; omega
  rw [decode_major2C W h0]
  simp [decodeMajor2C, whenZero, h1, h2, h3, h4, h5]
theorem RoundTrip.eret : RoundTrip.Statement (.eret) := by
  intro _ hwf
  have hw : (encode (.eret)).toNat = 3221225475 := encode_val _ _ (show packWord 3221225475 [] = _ by simp only [packWord_nil]) (by omega)
  generalize (encode (.eret)).toNat = W at hw
  have h0 : fld W 26 6 = 48 := by unfold fld; omega
  have h1 : fld W 0 4 = 3 := by unfold fld; omega
  have h2 : fld W 21 5 = 0 := by unfold fld; omega
  have h3 : fld W 16 5 = 0 := by unfold fld; omega
  have h4 : fld W 4 12 = 0 := by unfold fld; omega
  rw [decode_major30 W h0]
  simp [decodeMajor30, whenZero, h1, h2, h3, h4]
theorem RoundTrip.tlbiAll : RoundTrip.Statement (.tlbiAll) := by
  intro _ hwf
  have hw : (encode (.tlbiAll)).toNat = 3221225494 := encode_val _ _ (show packWord 3221225494 [] = _ by simp only [packWord_nil]) (by omega)
  generalize (encode (.tlbiAll)).toNat = W at hw
  have h0 : fld W 26 6 = 48 := by unfold fld; omega
  have h1 : fld W 0 4 = 6 := by unfold fld; omega
  have h2 : fld W 4 2 = 1 := by unfold fld; omega
  have h3 : fld W 21 5 = 0 := by unfold fld; omega
  have h4 : fld W 16 5 = 0 := by unfold fld; omega
  have h5 : fld W 6 10 = 0 := by unfold fld; omega
  rw [decode_major30 W h0]
  simp [decodeMajor30, decodeMajor30Sel6, whenZero, h1, h2, h3, h4, h5]
theorem RoundTrip.fencei : RoundTrip.Statement (.fencei) := by
  intro _ hwf
  have hw : (encode (.fencei)).toNat = 3221225481 := encode_val _ _ (show packWord 3221225481 [] = _ by simp only [packWord_nil]) (by omega)
  generalize (encode (.fencei)).toNat = W at hw
  have h0 : fld W 26 6 = 48 := by unfold fld; omega
  have h1 : fld W 0 4 = 9 := by unfold fld; omega
  have h2 : fld W 21 5 = 0 := by unfold fld; omega
  have h3 : fld W 16 5 = 0 := by unfold fld; omega
  have h4 : fld W 4 12 = 0 := by unfold fld; omega
  rw [decode_major30 W h0]
  simp [decodeMajor30, whenZero, h1, h2, h3, h4]
theorem RoundTrip.elect : RoundTrip.Statement (.elect) := by
  intro _ hwf
  have hw : (encode (.elect)).toNat = 4236247040 := encode_val _ _ (show packWord 4236247040 [] = _ by simp only [packWord_nil]) (by omega)
  generalize (encode (.elect)).toNat = W at hw
  have h0 : fld W 26 6 = 63 := by unfold fld; omega
  have h1 : fld W 23 3 = 1 := by unfold fld; omega
  have h2 : fld W 0 23 = 0 := by unfold fld; omega
  rw [decode_major3F W h0]
  simp [decodeMajor3F, whenZero, h1, h2]
theorem RoundTrip.repeatWordIssue : RoundTrip.Statement .repeatWordIssue := fun h => Bool.noConfusion h
theorem RoundTrip.instructionFill : RoundTrip.Statement .instructionFill := fun h => Bool.noConfusion h
theorem RoundTrip.dataArrival : RoundTrip.Statement .dataArrival := fun h => Bool.noConfusion h
theorem RoundTrip.lineFill : RoundTrip.Statement .lineFill := fun h => Bool.noConfusion h
theorem RoundTrip.writeBack : RoundTrip.Statement .writeBack := fun h => Bool.noConfusion h
theorem RoundTrip.omegaRequest : RoundTrip.Statement .omegaRequest := fun h => Bool.noConfusion h
theorem RoundTrip.meshScratchRequest : RoundTrip.Statement .meshScratchRequest := fun h => Bool.noConfusion h
theorem RoundTrip.rxAccessPerform : RoundTrip.Statement .rxAccessPerform := fun h => Bool.noConfusion h
theorem RoundTrip.linePortPriority : RoundTrip.Statement .linePortPriority := fun h => Bool.noConfusion h
theorem RoundTrip.feWaiterResend : RoundTrip.Statement .feWaiterResend := fun h => Bool.noConfusion h
theorem RoundTrip.faultEntryRetry : RoundTrip.Statement .faultEntryRetry := fun h => Bool.noConfusion h
theorem RoundTrip.wakeMessage : RoundTrip.Statement .wakeMessage := fun h => Bool.noConfusion h
theorem RoundTrip.taskRecordArrival : RoundTrip.Statement .taskRecordArrival := fun h => Bool.noConfusion h
theorem RoundTrip.taskRefill : RoundTrip.Statement .taskRefill := fun h => Bool.noConfusion h
theorem RoundTrip.taskDispatch : RoundTrip.Statement .taskDispatch := fun h => Bool.noConfusion h
theorem RoundTrip.homeSpeculativeAccess : RoundTrip.Statement .homeSpeculativeAccess := fun h => Bool.noConfusion h
theorem RoundTrip.ovfProbe : RoundTrip.Statement .ovfProbe := fun h => Bool.noConfusion h
theorem RoundTrip.taskAbort : RoundTrip.Statement .taskAbort := fun h => Bool.noConfusion h
theorem RoundTrip.belvedereSample : RoundTrip.Statement .belvedereSample := fun h => Bool.noConfusion h
theorem RoundTrip.roundResult : RoundTrip.Statement .roundResult := fun h => Bool.noConfusion h
theorem RoundTrip.irrevocablePass : RoundTrip.Statement .irrevocablePass := fun h => Bool.noConfusion h
theorem RoundTrip.barrierCycle : RoundTrip.Statement .barrierCycle := fun h => Bool.noConfusion h
theorem RoundTrip.barrierWake : RoundTrip.Statement .barrierWake := fun h => Bool.noConfusion h
theorem RoundTrip.electPostArrival : RoundTrip.Statement .electPostArrival := fun h => Bool.noConfusion h
theorem RoundTrip.rputDelivery : RoundTrip.Statement .rputDelivery := fun h => Bool.noConfusion h
theorem RoundTrip.tableBuild : RoundTrip.Statement .tableBuild := fun h => Bool.noConfusion h
theorem RoundTrip.matrixOpStart : RoundTrip.Statement .matrixOpStart := fun h => Bool.noConfusion h
theorem RoundTrip.matrixOpComplete : RoundTrip.Statement .matrixOpComplete := fun h => Bool.noConfusion h
theorem RoundTrip.macroParityError : RoundTrip.Statement .macroParityError := fun h => Bool.noConfusion h
theorem RoundTrip.mcmdArrival : RoundTrip.Statement .mcmdArrival := fun h => Bool.noConfusion h
theorem RoundTrip.mcmdAck : RoundTrip.Statement .mcmdAck := fun h => Bool.noConfusion h
theorem RoundTrip.chainOpenArrival : RoundTrip.Statement .chainOpenArrival := fun h => Bool.noConfusion h
theorem RoundTrip.chainCloseArrival : RoundTrip.Statement .chainCloseArrival := fun h => Bool.noConfusion h
theorem RoundTrip.trellisRowArrival : RoundTrip.Statement .trellisRowArrival := fun h => Bool.noConfusion h
theorem RoundTrip.trellisAckArrival : RoundTrip.Statement .trellisAckArrival := fun h => Bool.noConfusion h
theorem RoundTrip.resumeNotice : RoundTrip.Statement .resumeNotice := fun h => Bool.noConfusion h
theorem RoundTrip.refusalReadyTimeout : RoundTrip.Statement .refusalReadyTimeout := fun h => Bool.noConfusion h
theorem RoundTrip.transferStart : RoundTrip.Statement .transferStart := fun h => Bool.noConfusion h
theorem RoundTrip.chunkArrival : RoundTrip.Statement .chunkArrival := fun h => Bool.noConfusion h
theorem RoundTrip.chunkRedelivery : RoundTrip.Statement .chunkRedelivery := fun h => Bool.noConfusion h
theorem RoundTrip.landingHandlerStart : RoundTrip.Statement .landingHandlerStart := fun h => Bool.noConfusion h
theorem RoundTrip.handlerTimeout : RoundTrip.Statement .handlerTimeout := fun h => Bool.noConfusion h
theorem RoundTrip.transferCompletion : RoundTrip.Statement .transferCompletion := fun h => Bool.noConfusion h
theorem RoundTrip.multicastJoin : RoundTrip.Statement .multicastJoin := fun h => Bool.noConfusion h
theorem RoundTrip.multicastSend : RoundTrip.Statement .multicastSend := fun h => Bool.noConfusion h
theorem RoundTrip.streamRouteTimeout : RoundTrip.Statement .streamRouteTimeout := fun h => Bool.noConfusion h
theorem RoundTrip.flowPacketArrival : RoundTrip.Statement .flowPacketArrival := fun h => Bool.noConfusion h
theorem RoundTrip.escapeTimeout : RoundTrip.Statement .escapeTimeout := fun h => Bool.noConfusion h
theorem RoundTrip.retryResend : RoundTrip.Statement .retryResend := fun h => Bool.noConfusion h
theorem RoundTrip.prmtArrival : RoundTrip.Statement .prmtArrival := fun h => Bool.noConfusion h
theorem RoundTrip.rsumArrival : RoundTrip.Statement .rsumArrival := fun h => Bool.noConfusion h
theorem RoundTrip.spillQueueRetry : RoundTrip.Statement .spillQueueRetry := fun h => Bool.noConfusion h
theorem RoundTrip.mchkDelivery : RoundTrip.Statement .mchkDelivery := fun h => Bool.noConfusion h
theorem RoundTrip.memoryError : RoundTrip.Statement .memoryError := fun h => Bool.noConfusion h
theorem RoundTrip.selfTestComplete : RoundTrip.Statement .selfTestComplete := fun h => Bool.noConfusion h
theorem RoundTrip.snapshotMarker : RoundTrip.Statement .snapshotMarker := fun h => Bool.noConfusion h
theorem RoundTrip.scratchSegmentCopy : RoundTrip.Statement .scratchSegmentCopy := fun h => Bool.noConfusion h
theorem RoundTrip.snapshotSweep : RoundTrip.Statement .snapshotSweep := fun h => Bool.noConfusion h
theorem RoundTrip.preWriteBack : RoundTrip.Statement .preWriteBack := fun h => Bool.noConfusion h
theorem RoundTrip.snapshotCompletionNotice : RoundTrip.Statement .snapshotCompletionNotice := fun h => Bool.noConfusion h
theorem RoundTrip.snapshotAbortNotice : RoundTrip.Statement .snapshotAbortNotice := fun h => Bool.noConfusion h
theorem RoundTrip.ingressRecordWrite : RoundTrip.Statement .ingressRecordWrite := fun h => Bool.noConfusion h
theorem RoundTrip.ingressEnqueue : RoundTrip.Statement .ingressEnqueue := fun h => Bool.noConfusion h
theorem RoundTrip.partialClear : RoundTrip.Statement .partialClear := fun h => Bool.noConfusion h
theorem RoundTrip.hostMemRead : RoundTrip.Statement .hostMemRead := fun h => Bool.noConfusion h
theorem RoundTrip.hostMemWrite : RoundTrip.Statement .hostMemWrite := fun h => Bool.noConfusion h
theorem RoundTrip.snpData : RoundTrip.Statement .snpData := fun h => Bool.noConfusion h
theorem RoundTrip.snpInv : RoundTrip.Statement .snpInv := fun h => Bool.noConfusion h
theorem RoundTrip.snpCur : RoundTrip.Statement .snpCur := fun h => Bool.noConfusion h
theorem RoundTrip.translationCompletion : RoundTrip.Statement .translationCompletion := fun h => Bool.noConfusion h
theorem RoundTrip.atsInvalidationRequest : RoundTrip.Statement .atsInvalidationRequest := fun h => Bool.noConfusion h
theorem RoundTrip.priSuccess : RoundTrip.Statement .priSuccess := fun h => Bool.noConfusion h
theorem RoundTrip.priInvalidRequest : RoundTrip.Statement .priInvalidRequest := fun h => Bool.noConfusion h
theorem RoundTrip.priResponseFailure : RoundTrip.Statement .priResponseFailure := fun h => Bool.noConfusion h
theorem RoundTrip.peerAccess : RoundTrip.Statement .peerAccess := fun h => Bool.noConfusion h
theorem RoundTrip.linkLaneFailure : RoundTrip.Statement .linkLaneFailure := fun h => Bool.noConfusion h
theorem RoundTrip.routeWrite : RoundTrip.Statement .routeWrite := fun h => Bool.noConfusion h
theorem RoundTrip.lattolWrite : RoundTrip.Statement .lattolWrite := fun h => Bool.noConfusion h
theorem RoundTrip.barRegisterWrite : RoundTrip.Statement .barRegisterWrite := fun h => Bool.noConfusion h
theorem RoundTrip.thWrite : RoundTrip.Statement .thWrite := fun h => Bool.noConfusion h
theorem RoundTrip.lcmdReboot : RoundTrip.Statement .lcmdReboot := fun h => Bool.noConfusion h
theorem RoundTrip.powerStateEvaluate : RoundTrip.Statement .powerStateEvaluate := fun h => Bool.noConfusion h
theorem RoundTrip.wakeEvent : RoundTrip.Statement .wakeEvent := fun h => Bool.noConfusion h
theorem RoundTrip.powerWindow : RoundTrip.Statement .powerWindow := fun h => Bool.noConfusion h
theorem RoundTrip.thermalReading : RoundTrip.Statement .thermalReading := fun h => Bool.noConfusion h
theorem RoundTrip.slotDisable : RoundTrip.Statement .slotDisable := fun h => Bool.noConfusion h
theorem RoundTrip.slotEnable : RoundTrip.Statement .slotEnable := fun h => Bool.noConfusion h
theorem RoundTrip.thermalRankingUpdate : RoundTrip.Statement .thermalRankingUpdate := fun h => Bool.noConfusion h
theorem RoundTrip.powerOn : RoundTrip.Statement .powerOn := fun h => Bool.noConfusion h
theorem RoundTrip.bringUpWatchdog : RoundTrip.Statement .bringUpWatchdog := fun h => Bool.noConfusion h
theorem RoundTrip.camOperationEnd : RoundTrip.Statement .camOperationEnd := fun h => Bool.noConfusion h
theorem RoundTrip.homeAcknowledgement : RoundTrip.Statement .homeAcknowledgement := fun h => Bool.noConfusion h
theorem RoundTrip.hostCompletion : RoundTrip.Statement .hostCompletion := fun h => Bool.noConfusion h
theorem RoundTrip.backInvalidateResponse : RoundTrip.Statement .backInvalidateResponse := fun h => Bool.noConfusion h
theorem RoundTrip.priEnable : RoundTrip.Statement .priEnable := fun h => Bool.noConfusion h
theorem RoundTrip.streamRouteHeld : RoundTrip.Statement .streamRouteHeld := fun h => Bool.noConfusion h
theorem RoundTrip.contextMessageArrival : RoundTrip.Statement .contextMessageArrival := fun h => Bool.noConfusion h
theorem RoundTrip.transferSourceRead : RoundTrip.Statement .transferSourceRead := fun h => Bool.noConfusion h
theorem RoundTrip.snapshotCompletionReport : RoundTrip.Statement .snapshotCompletionReport := fun h => Bool.noConfusion h
theorem RoundTrip.bringUpStepEnd : RoundTrip.Statement .bringUpStepEnd := fun h => Bool.noConfusion h
theorem RoundTrip.faleusPortUp : RoundTrip.Statement .faleusPortUp := fun h => Bool.noConfusion h
theorem RoundTrip.powerLoss : RoundTrip.Statement .powerLoss := fun h => Bool.noConfusion h

end Sys2Proof.Laws
end

