-- ==== Sys2Proof/Safety.lean ====
section
/-!
DEFINITION. The terms in which the statements speak: what one instruction gives, leaves, traps or waits for, and what a safe run is.
-/
namespace Sys2Proof.Machine

/-- An ordinary word: no ELECT governs it, no repeat frame issues it, and no earlier issue of it has left a part of it done. -/
abbrev State.Plain (s : State) : Prop :=
  s.cur.electing = none ∧ s.cur.inFrame = false ∧ s.cur.blockBuf = [] ∧ s.cur.past = false
/-- A thread that takes its traps itself (R47): no landing handler (R294), no speculative task (R49), INTRAP clear (R348). -/
abbrev State.Traps (s : State) : Prop :=
  s.turn.slot ≠ 15 ∧ s.cur.spec = false ∧ s.cur.intrap = false ∧ s.Plain
/-- An untagged register value with bits 63:0 given and zero above (R38). -/
def untagged (v : Word) : CReg := { val := v.setWidth 128 }
/-- An untagged 128-bit register value (R38). -/
def untagged128 (v : Quad) : CReg := { val := v }
/-- The PCC of the next word in sequence. -/
def State.pccNext (s : State) : CReg := s.cur.pcc.withAddr ((s.cur.pcc.addr + 4) % 2 ^ 64)

/-- Nothing of the module but the issuing thread's slot differs. -/
def SameElse (s t : State) : Prop :=
  t = { s with threads := t.threads } ∧ ∀ u : Tid, tkey u ≠ tkey s.turn → t.thread u = s.thread u
/-- One register result: `t` is `s` with register `d` of the issuing thread holding `v` and present, and the thread's PCC at `p`.
Writing g0 changes no register (R38). Every other register, every other field of the thread, every other thread, every memory and
every other unit is as before. -/
structure Wrote (s t : State) (d : RegNum) (v p : CReg) : Prop where
  result : t.reg d = if d = 0 then {} else v
  others : ∀ r : RegNum, r ≠ d → t.reg r = s.reg r
  present : ∀ r : RegNum, t.cur.presence.getLsbD r.val = (s.cur.presence.getLsbD r.val || (r == d && d != 0))
  thread : t.cur = { s.cur with regs := t.cur.regs, absent := t.cur.absent, poisonPend := t.cur.poisonPend, pcc := p }
  else_ : SameElse s t

/-- Instruction `i` completes with `v` in register `d` and goes on with the next word. -/
def GivesCap (i : Instr) (s : State) (d : RegNum) (v : CReg) : Prop := ∃ t, exec i s = .next t ∧ Wrote s t d v s.pccNext
/-- The same for a 64-bit result. -/
def Gives (i : Instr) (s : State) (d : RegNum) (v : Word) : Prop := GivesCap i s d (untagged v)
/-- The same for a 128-bit result. -/
def GivesQuad (i : Instr) (s : State) (d : RegNum) (v : Quad) : Prop := GivesCap i s d (untagged128 v)
/-- A vector result (R217, R218): register `d` holds the lanes `r` of width `w`, `n` of them, and zeros above; the flags are ORed into
FFLAGS; the thread goes on with the next word; nothing else changes. -/
def GivesLanes (i : Instr) (s : State) (d : RegNum) (w n : Nat) (r : Nat → Nat) (f : FFlags) : Prop :=
  ∃ t v, exec i s = .next t ∧ Wrote (s.orFlags f) t d (untagged128 v) s.pccNext ∧ ∀ k < 128 / w, lane v w k = if k < n then r k else 0
/-- The same with the lanes and the flags of one function. -/
def GivesEach (i : Instr) (s : State) (d : RegNum) (w n : Nat) (g : Nat → Nat × FFlags) : Prop :=
  GivesLanes i s d w n (fun k => (g k).1 % 2 ^ w) ((List.range n).foldl (fun a k => a ||| (g k).2) 0)

/-- Instruction `i` completes, and nothing but the issuing thread's PCC changes. -/
def GoesTo (i : Instr) (s : State) (p : CReg) : Prop := exec i s = .next (s.setCur { s.cur with pcc := p })
/-- The thread after it has taken a trap (R47, R321): TCAUSE, TVAL and TEPC written, PMODE := MODE, supervisor mode, INTRAP set, and
the PCC at TVEC, a sentry unsealed; the model counts the trap. Every other field is as before. -/
def Thread.trapped (h : Thread) (e : TrapVal) : Thread :=
  { h with
    status := .running, traps := h.traps + 1, causeCode := BitVec.ofNat 6 e.cause.code, causeImpr := false, tval := BitVec.ofNat 64 e.tval
    tepc := h.pcc, pmode := h.mode, mode := true, intrap := true, lihhNow := none, lihhPrev := none
    pcc := if h.tvec.otype = 15 then h.tvec.withOtype 0 else h.tvec }
/-- Instruction `i` takes a trap, and has no other effect. -/
def TakesTrap (i : Instr) (s : State) (e : TrapVal) : Prop := exec i s = .next (s.setCur (s.cur.trapped e))

/-- Thread `t` leads a redundant pair whose part `q` of the trailing slot waits for no load and no action (R341); both slots are listed. -/
abbrev State.PairAt (s : State) (t : Tid) (q : Trail) : Prop :=
  t.slot < 7 ∧ (s.thread t).dup = true ∧ (s.thread t).trail = none ∧ (s.thread (trailTid t)).trail = some q ∧ q.action = none
  ∧ q.word = none ∧ q.stopped = false ∧ q.trap = none ∧ q.waiting = false ∧ (∀ e ∈ q.loads, e.res.isSome = true)
  ∧ s.setThread t (s.thread t) = s ∧ s.setThread (trailTid t) (s.thread (trailTid t)) = s
/-- A running thread for which nothing stops the word `w`, instruction `i`, from issuing: no machine check, poisoned register, `.rx` access, frame or
ELECT, and no fault of the word (R36, R37, R39, R91, R232). -/
abbrev Thread.Clear (h : Thread) (i : Instr) (w : Nat) : Prop :=
  h.status = .running ∧ h.pendMchk = [] ∧ h.poisonPend = [] ∧ h.rx = [] ∧ h.frame = none ∧ h.electing = none ∧ h.inFrame = false
  ∧ Instr.formatBad h i = false ∧ h.refuses 0 i w = none

/-- Register `base` names a capability that lets `n` bytes at `x` be accessed with these permissions (R43). -/
abbrev State.Passes (s : State) (base : RegNum) (x n : Nat) (perms : List Nat) : Prop :=
  (s.reg base).tag = true ∧ (s.reg base).otype = 0 ∧ (∀ p ∈ perms, (s.reg base).has p = true)
  ∧ (s.reg base).base ≤ x ∧ x + n ≤ (s.reg base).top ∧ x % n = 0
/-- No `.rx` access is outstanding and none has met poison, so that a drain point goes on (R91). -/
abbrev State.Drained (s : State) : Prop := s.cur.rx = [] ∧ s.cur.poisonPend = []
/-- An access at `x` by an ordinary running thread goes to byte `o` of its own core's scratchpad, and the bank performs it now: the core
is in its domain and not contained, has lost no bank, and a snapshot has no need of the segment (R84, R87, R357). -/
abbrev State.Reaches (s : State) (x o : Nat) : Prop :=
  s.Plain ∧ s.Drained ∧ s.cur.status = .running ∧ s.cur.spec = false
  ∧ scratchOf (s.domainAt s.turn.core) x = some o ∧ scratchCore o = s.turn.core
  ∧ (s.domainAt s.turn.core).holds (clusterOf s.turn.core) = true ∧ (s.core s.turn.core).contained = false
  ∧ (s.core s.turn.core).ownLost = 0 ∧ s.uncopied o = false
/-- Nothing is poisoned in `n` bytes from `o` of the scratch space, which is in its canonical form. -/
abbrev State.Sound (s : State) (o n : Nat) : Prop := s.scratch.wf ∧ ∀ w, o < 8 * w + 8 → 8 * w < o + n → NatSet.has s.scratch.poison w = false
/-- The address of a format-M access of size `n` (R97). -/
def State.formatM (s : State) (base : RegNum) (off : BitVec 11) (n : Nat) : Nat :=
  (((lo64 (s.reg base).val).toNat + off.toInt * n) % 2 ^ 64).toNat
/-- Nothing of the module but the issuing thread's slot and the scratch space differs. -/
def SameButScratch (s t : State) : Prop :=
  t = { s with threads := t.threads, scratch := t.scratch } ∧ ∀ u : Tid, tkey u ≠ tkey s.turn → t.thread u = s.thread u
/-- A store of `n` bytes at byte `o` of the scratch space: those bytes hold `v`, little-endian; every other byte, every full/empty bit, and
every register are as before; the granules touched are untagged and the others' tags are as before; the thread goes on. -/
structure Stored (s t : State) (o n v : Nat) : Prop where
  bytes : t.scratch.read o n = v % 2 ^ (8 * n)
  others : ∀ a, a < o ∨ o + n ≤ a → t.scratch.byte a = s.scratch.byte a
  full : t.scratch.full = s.scratch.full
  tags : ∀ g, NatSet.has t.scratch.tags g = (NatSet.has s.scratch.tags g && !(decide (o < 16 * g + 16) && decide (16 * g < o + n)))
  thread : t.cur = { s.cur with pcc := s.pccNext }
  else_ : SameButScratch s t
/-- An access that may write `n` bytes at `o` of the scratch space and writes `v` to register `d`: the bytes hold `new` afterwards; every
other byte, every other register and every other memory are as before; the thread goes on. -/
structure Updated (s t : State) (d : RegNum) (v : CReg) (o n new : Nat) : Prop where
  result : t.reg d = if d = 0 then {} else v
  regs : ∀ r : RegNum, r ≠ d → t.reg r = s.reg r
  bytes : t.scratch.read o n = new
  others : ∀ a, a < o ∨ o + n ≤ a → t.scratch.byte a = s.scratch.byte a
  memory : t.hbm = s.hbm ∧ t.carved = s.carved ∧ t.host = s.host
  pcc : t.cur.pcc = s.pccNext
  running : t.cur.status = .running
/-- Code and flags `r` of format `f` are the rational `a` / `b`, both as counts of 2^j, rounded once under RMODE `rm` (R45, R195, R200), where the
result is finite: no number of the format is nearer under RNE and RNA, a tie goes to the even code and to the larger magnitude; RTZ takes the
largest magnitude that is not above, RUP the least number that is not below, RDN the greatest that is not above. NX says that the result
differs, UF that it does and is below the smallest normal. -/
def FFmt.Rounds (f : FFmt) (rm : Nat) (a : Int) (b : Nat) (j : Int) (r : Nat × FFlags) : Prop :=
  ∀ n k q, f.decode r.1 = .fin n k q → j ≤ q →
    let u := (f.decode r.1).count j * b
    let all := fun (p : Int → Prop) => ∀ x n' k' q', f.decode x = .fin n' k' q' → j ≤ q' → p ((f.decode x).count j * b)
    (r.2.getLsbD 0 = true ↔ u ≠ a) ∧ (r.2.getLsbD 1 = true ↔ u ≠ a ∧ r.1 % 2 ^ f.sbit < 2 ^ f.mb)
    ∧ (rm = 0 → all (fun w => (u - a).natAbs ≤ (w - a).natAbs ∧ ((u - a).natAbs = (w - a).natAbs → w ≠ u → r.1 % 2 = 0)))
    ∧ (rm = 1 → u.natAbs ≤ a.natAbs ∧ all (fun w => w.natAbs ≤ a.natAbs → w.natAbs ≤ u.natAbs))
    ∧ (rm = 2 → a ≤ u ∧ all (fun w => a ≤ w → u ≤ w)) ∧ (rm = 3 → u ≤ a ∧ all (fun w => w ≤ a → w ≤ u))
    ∧ (rm = 4 → all (fun w => (u - a).natAbs ≤ (w - a).natAbs ∧ ((u - a).natAbs = (w - a).natAbs → w.natAbs ≤ u.natAbs)))
/-- The acquire of R109 without a signature, at scope `sc`: at core scope or wider isat is set; at cluster scope or wider no valid byte of the
core's L1 is clean, and its dirty bytes stay. -/
structure Acquired (s t : State) (sc : Scope) : Prop where
  isat : t.cur.isat = (s.cur.isat || sc != .thread)
  inh : t.cur.inh = s.cur.inh
  clean : sc ≠ .thread → sc ≠ .core → ∀ y m, Map.find (t.core s.turn.core).l1 y = some m → m.valid &&& ~~~m.dirty = 0
  dirty : ∀ y l, Map.find (s.core s.turn.core).l1 y = some l → l.dirty ≠ 0 →
    ∃ m, Map.find (t.core s.turn.core).l1 y = some m ∧ m.data = l.data ∧ m.dirty = l.dirty ∧ m.writers = l.writers
/-- What a memory instruction accesses: the base register, the address, the size and the permissions it needs (R97, R98, R99, R123,
R130). -/
def State.wants (s : State) : Instr → Option (RegNum × Nat × Nat × List Nat)
  | .ldS8 _ b o _ => some (b, s.formatM b o 1, 1, [permL])
  | .ldS16 _ b o _ => some (b, s.formatM b o 2, 2, [permL])
  | .ldS32 _ b o _ => some (b, s.formatM b o 4, 4, [permL])
  | .ldS64 _ b o _ => some (b, s.formatM b o 8, 8, [permL])
  | .ldN8 _ b o _ => some (b, s.formatM b o 1, 1, [permL])
  | .ldN16 _ b o _ => some (b, s.formatM b o 2, 2, [permL])
  | .ldN32 _ b o _ => some (b, s.formatM b o 4, 4, [permL])
  | .ldQ128 _ b o _ => some (b, s.formatM b o 16, 16, [permL])
  | .st8 _ b o _ => some (b, s.formatM b o 1, 1, [permS])
  | .st16 _ b o _ => some (b, s.formatM b o 2, 2, [permS])
  | .st32 _ b o _ => some (b, s.formatM b o 4, 4, [permS])
  | .st64 _ b o _ => some (b, s.formatM b o 8, 8, [permS])
  | .stQ128 _ b o _ => some (b, s.formatM b o 16, 16, [permS])
  | .ldc _ b o => some (b, s.formatM b o 16, 16, [permL])
  | .stc d b o => some (b, s.formatM b o 16, 16, if (s.reg d).tag then [permS, permSC] else [permS])
  | .lde _ b o => some (b, s.formatM b o 8, 8, [permL])
  | .ldf _ b o => some (b, s.formatM b o 8, 8, [permL])
  | .stf _ b o => some (b, s.formatM b o 8, 8, [permS])
  | .stx _ b o => some (b, s.formatM b o 8, 8, [permS])
  | .fec _ b o => some (b, s.formatM b o 8, 8, [permL])
  | .feq _ b o => some (b, s.formatM b o 8, 8, [permL])
  | .aadd _ a _ w _ _ => some (a, (s.word a).toNat, if w then 8 else 4, [permL, permS, permA])
  | .aand _ a _ w _ _ => some (a, (s.word a).toNat, if w then 8 else 4, [permL, permS, permA])
  | .aor _ a _ w _ _ => some (a, (s.word a).toNat, if w then 8 else 4, [permL, permS, permA])
  | .axor _ a _ w _ _ => some (a, (s.word a).toNat, if w then 8 else 4, [permL, permS, permA])
  | .amin _ a _ w _ _ => some (a, (s.word a).toNat, if w then 8 else 4, [permL, permS, permA])
  | .amax _ a _ w _ _ => some (a, (s.word a).toNat, if w then 8 else 4, [permL, permS, permA])
  | .aminn _ a _ w _ _ => some (a, (s.word a).toNat, if w then 8 else 4, [permL, permS, permA])
  | .amaxn _ a _ w _ _ => some (a, (s.word a).toNat, if w then 8 else 4, [permL, permS, permA])
  | .aswp _ a _ w _ _ => some (a, (s.word a).toNat, if w then 8 else 4, [permL, permS, permA])
  | .acas _ a _ w _ _ => some (a, (s.word a).toNat, if w then 8 else 4, [permL, permS, permA])
  | .afadd _ a _ _ _ => some (a, (s.word a).toNat, 4, [permL, permS, permA])
  | .strel _ a _ => some (a, (s.word a).toNat, 128, [permL, permS])
  | .ldacq _ a _ => some (a, (s.word a).toNat, 128, [permL])
  | .sigrst a _ => some (a, (s.word a).toNat, 128, [permS])
  | .sigmrg _ a _ => some (a, (s.word a).toNat, 128, [permL])
  | _ => none

/-- The machine runs on for ever: no number of steps stops it. -/
def Safe (s : State) : Prop := ∀ n, ∃ t, Sys2Proof.core.run n s = .next t

end Sys2Proof.Machine
end

