-- ==== Sys2Proof/Certificates/Slice0/Obligations.lean ====
section
/-!
DEFINITION. The statements for the provers.
-/
open Sys2Proof Sys2Proof.Machine

/-- R64, Table 4-1: the instructions of major 0x01 whose result is one expression of x = a<63:0>, y = b<63:0> and z = c<63:0>. The
result goes to d with bits 127:64 zero and the tag cleared (R63), the PCC goes to the next word, and nothing else changes.
R64, Table 4-1: the results that a property fixes. MULH and MULHN hold the upper half of the exact product; ROTR moves bit
(i + y<5:0>) mod 64 to bit i; CLZ and CTZ count the zeros above the highest and below the lowest set bit, 64 for zero; POPC counts the
set bits. -/
def Obligations.IntegerResults : Prop :=
  (
  ∀ (s : State) (d a b c : RegNum), s.Plain →
    let x := s.word a
    let y := s.word b
    let n := (y &&& 63).toNat
    Gives (.add d a b) s d (x + y) ∧ Gives (.sub d a b) s d (x - y) ∧ Gives (.mul d a b) s d (x * y)
    ∧ Gives (.and d a b) s d (x &&& y) ∧ Gives (.or d a b) s d (x ||| y) ∧ Gives (.xor d a b) s d (x ^^^ y)
    ∧ Gives (.andn d a b) s d (x &&& ~~~y)
    ∧ Gives (.shl d a b) s d (x <<< n) ∧ Gives (.shr d a b) s d (x >>> n) ∧ Gives (.sha d a b) s d (x.sshiftRight n)
    ∧ Gives (.min d a b) s d (if x.sle y then x else y) ∧ Gives (.max d a b) s d (if y.sle x then x else y)
    ∧ Gives (.minn d a b) s d (if x ≤ y then x else y) ∧ Gives (.maxn d a b) s d (if y ≤ x then x else y)
    ∧ Gives (.seq d a b) s d (if x = y then 1 else 0) ∧ Gives (.sne d a b) s d (if x = y then 0 else 1)
    ∧ Gives (.slt d a b) s d (if x.slt y then 1 else 0) ∧ Gives (.sltn d a b) s d (if x < y then 1 else 0)
    ∧ Gives (.sle d a b) s d (if x.sle y then 1 else 0) ∧ Gives (.slen d a b) s d (if x ≤ y then 1 else 0)
    ∧ Gives (.sel d a b c) s d (if s.word c = 0 then y else x)
  ) ∧ (
  ∀ (s : State) (d a b : RegNum), s.Plain →
    (∃ r lo, Gives (.mulh d a b) s d r ∧ lo < 2 ^ 64
      ∧ (s.word a).toInt * (s.word b).toInt = r.toInt * 2 ^ 64 + (lo : Nat))
    ∧ (∃ r lo, Gives (.mulhn d a b) s d r ∧ lo < 2 ^ 64
      ∧ (s.word a).toNat * (s.word b).toNat = r.toNat * 2 ^ 64 + lo)
    ∧ (∃ r, Gives (.rotr d a b) s d r
      ∧ ∀ i < 64, r.getLsbD i = (s.word a).getLsbD ((i + ((s.word b) &&& 63).toNat) % 64))
    ∧ (∃ n ≤ 64, Gives (.clz d a) s d (BitVec.ofNat 64 n)
      ∧ (∀ i < n, (s.word a).getLsbD (63 - i) = false) ∧ (n < 64 → (s.word a).getLsbD (63 - n) = true))
    ∧ (∃ n ≤ 64, Gives (.ctz d a) s d (BitVec.ofNat 64 n)
      ∧ (∀ i < n, (s.word a).getLsbD i = false) ∧ (n < 64 → (s.word a).getLsbD n = true))
    ∧ Gives (.popc d a) s d (BitVec.ofNat 64 ((List.range 64).countP (fun i => (s.word a).getLsbD i)))
  )

/-- R65: division truncates toward zero; −2^63 ÷ −1 yields −2^63 with remainder 0; a remainder has the sign of the dividend. A zero
divisor raises DIVZ, d is not written, and TVAL holds the instruction word. -/
def Obligations.Division : Prop :=
  ∀ (s : State) (d a b : RegNum), s.Plain →
    let x := s.word a
    let y := s.word b
    (y ≠ 0 →
      (∃ r, Gives (.div d a b) s d r
        ∧ if x.toInt = -2 ^ 63 ∧ y.toInt = -1 then r.toInt = -2 ^ 63 else r.toInt = x.toInt.tdiv y.toInt)
      ∧ (∃ r, Gives (.rem d a b) s d r
        ∧ if x.toInt = -2 ^ 63 ∧ y.toInt = -1 then r = 0 else r.toInt = x.toInt - x.toInt.tdiv y.toInt * y.toInt)
      ∧ (∃ r, Gives (.divn d a b) s d r ∧ r.toNat = x.toNat / y.toNat)
      ∧ (∃ r, Gives (.remn d a b) s d r ∧ r.toNat = x.toNat % y.toNat))
    ∧ (y = 0 → s.Traps →
      TakesTrap (.div d a b) s ⟨.divz, encodeNat (.div d a b)⟩ ∧ TakesTrap (.rem d a b) s ⟨.divz, encodeNat (.rem d a b)⟩
      ∧ TakesTrap (.divn d a b) s ⟨.divz, encodeNat (.divn d a b)⟩ ∧ TakesTrap (.remn d a b) s ⟨.divz, encodeNat (.remn d a b)⟩)

/-- R66: with pos = y<5:0> and n = min(pos + y<13:8> + 1, 64) − pos, EXTBN zero-extends the field of x, EXTB copies its top bit upwards,
and INSB puts x<n−1:0> into that field of d. -/
def Obligations.BitFields : Prop :=
  ∀ (s : State) (d a b : RegNum), s.Plain →
    let x := s.word a
    let pos := (s.word b).toNat % 64
    let n := min (pos + (s.word b).toNat / 256 % 64 + 1) 64 - pos
    (∃ r, Gives (.extbn d a b) s d r ∧ ∀ i < 64, r.getLsbD i = (decide (i < n) && x.getLsbD (pos + i)))
    ∧ (∃ r, Gives (.extb d a b) s d r ∧ ∀ i < 64, r.getLsbD i = x.getLsbD (pos + min i (n - 1)))
    ∧ (∃ r, Gives (.insb d a b) s d r ∧ ∀ i < 64, r.getLsbD i =
        if pos ≤ i ∧ i < pos + n then x.getLsbD (i - pos) else (s.word d).getLsbD i)

/-- R67 to R69: the immediate instructions, the immediate shifts, and the upper parts of constants. LIHH is remembered for the word after
it; LIH keeps bits 63:32 of d exactly when the word issued just before it is an LIHH of the same register other than g0 and no ELECT
governs.
R72: a conditional branch passes control to PC + 4 × disp when its condition holds and that target lies within the bounds of the PCC;
it goes on with the next word when the condition does not hold, and checks nothing then.
R73 to R75: J and JL go to PC + 4 × disp, JR and JLR to a<63:0>, read before the link register is written; JL and JLR link PC + 4.
A target outside the bounds of the PCC raises CAPBND; a target of JR or JLR within them that is not a multiple of 4 raises ALIGN. TVAL
holds the target and nothing of the instruction takes effect. -/
def Obligations.ImmediatesAndBranches : Prop :=
  (
  ∀ (s : State) (d a : RegNum) (imm : BitVec 16) (n : Fin 64), s.Plain →
    let x := s.word a
    Gives (.addi d a imm) s d (x + imm.signExtend 64) ∧ Gives (.andi d a imm) s d (x &&& imm.zeroExtend 64)
    ∧ Gives (.ori d a imm) s d (x ||| imm.zeroExtend 64) ∧ Gives (.xori d a imm) s d (x ^^^ imm.zeroExtend 64)
    ∧ Gives (.slti d a imm) s d (if x.slt (imm.signExtend 64) then 1 else 0)
    ∧ Gives (.shli d a n) s d (x <<< n.val) ∧ Gives (.shri d a n) s d (x >>> n.val) ∧ Gives (.shai d a n) s d (x.sshiftRight n.val)
    ∧ (s.cur.lihhPrev = some d ∧ d ≠ 0 → ∃ r, Gives (.lih d imm) s d r
        ∧ ∀ i < 64, r.getLsbD i = if 32 ≤ i then (s.word d).getLsbD i else decide (16 ≤ i) && imm.getLsbD (i - 16))
    ∧ (¬(s.cur.lihhPrev = some d ∧ d ≠ 0) → Gives (.lih d imm) s d (imm.signExtend 64 <<< 16))
    ∧ (∃ t, exec (.lihh d imm) s = .next (t.setCur { t.cur with lihhNow := some d, lihhPc := s.cur.pcc })
        ∧ Wrote s t d (untagged (imm.signExtend 64 <<< 32)) s.pccNext)
  ) ∧ (
  ∀ (s : State) (a b d : RegNum) (d12 : BitVec 12) (d18 : BitVec 18) (d26 : BitVec 26), s.Plain →
    let x := s.word a
    let y := s.word b
    let inside := fun (t : Nat) => s.cur.pcc.base ≤ t ∧ t + 4 ≤ s.cur.pcc.top
    let yields := fun (disp : Int) (taken : Prop) (i : Instr) =>
      let t := ((s.cur.pc + 4 * disp) % 2 ^ 64).toNat
      (taken → inside t → s.cur.pc % 4 = 0 → GoesTo i s (s.cur.pcc.withAddr t))
      ∧ (taken → ¬inside t → s.Traps → TakesTrap i s ⟨.capBnd, t⟩)
      ∧ (¬taken → GoesTo i s s.pccNext)
    let links := fun (i : Instr) (r : RegNum) (p : CReg) =>
      ∃ t, exec i s = .next t ∧ Wrote s t r (untagged (BitVec.ofNat 64 (s.cur.pc + 4))) p
    let t := ((s.cur.pc + 4 * d26.toInt) % 2 ^ 64).toNat
    let v := x.toNat
    yields d12.toInt (x = y) (.beq a b d12) ∧ yields d12.toInt (x ≠ y) (.bne a b d12)
    ∧ yields d12.toInt (x.toInt < y.toInt) (.blt a b d12) ∧ yields d12.toInt (y.toInt ≤ x.toInt) (.bge a b d12)
    ∧ yields d12.toInt (x.toNat < y.toNat) (.bltn a b d12) ∧ yields d12.toInt (y.toNat ≤ x.toNat) (.bgen a b d12)
    ∧ yields d18.toInt (x = 0) (.bez a d18) ∧ yields d18.toInt (x ≠ 0) (.bnz a d18)
    ∧ yields d18.toInt (x.toInt < 0) (.blz a d18) ∧ yields d18.toInt (0 < x.toInt) (.bgz a d18)
    ∧ yields d18.toInt (x.toInt ≤ 0) (.blez a d18) ∧ yields d18.toInt (0 ≤ x.toInt) (.bgez a d18)
    ∧ (s.cur.pc % 4 = 0 → inside t → GoesTo (.j d26) s (s.cur.pcc.withAddr t) ∧ links (.jl d26) 31 (s.cur.pcc.withAddr t))
    ∧ (s.Traps → ¬inside t → TakesTrap (.j d26) s ⟨.capBnd, t⟩ ∧ TakesTrap (.jl d26) s ⟨.capBnd, t⟩)
    ∧ (inside v → v % 4 = 0 → GoesTo (.jr a) s (s.cur.pcc.withAddr v) ∧ links (.jlr d a) d (s.cur.pcc.withAddr v))
    ∧ (s.Traps → ¬inside v → TakesTrap (.jr a) s ⟨.capBnd, v⟩ ∧ TakesTrap (.jlr d a) s ⟨.capBnd, v⟩)
    ∧ (s.Traps → inside v → v % 4 ≠ 0 → TakesTrap (.jr a) s ⟨.align, v⟩ ∧ TakesTrap (.jlr d a) s ⟨.align, v⟩)
  )

/-- Table 4-6: the capability instructions that read fields, and those that copy a capability with a field changed, give these results
whatever the tag. -/
def Obligations.CapabilityFields : Prop :=
  ∀ (s : State) (d a b : RegNum), s.Plain →
    let c := s.reg a
    Gives (.cgadr d a) s d (c.val.extractLsb' 0 64) ∧ Gives (.cgbas d a) s d (BitVec.ofNat 64 c.base)
    ∧ Gives (.cglen d a) s d (BitVec.ofNat 64 (c.lm * 2 ^ c.exp)) ∧ Gives (.cgprm d a) s d ((c.val.extractLsb' 112 12).zeroExtend 64)
    ∧ Gives (.cgtyp d a) s d ((c.val.extractLsb' 124 4).zeroExtend 64) ∧ Gives (.cgtag d a) s d (if c.tag then 1 else 0)
    ∧ Gives (.csub d a b) s d (s.word a - s.word b)
    ∧ GivesCap (.cmov d a) s d c ∧ GivesCap (.cclrt d a) s d { c with tag := false }
    ∧ (∃ r : CReg, GivesCap (.candp d a b) s d r ∧ r.tag = (c.tag && c.otype == 0)
        ∧ ∀ i < 128, r.val.getLsbD i =
            (c.val.getLsbD i && (decide (i < 112 ∨ 124 ≤ i) || (s.word b).getLsbD (i - 112))))
    ∧ (c.tag = true → c.otype = 0 → ∃ r : CReg, GivesCap (.csent d a) s d r ∧ r.tag = true
        ∧ ∀ i < 128, r.val.getLsbD i = (decide (124 ≤ i) || c.val.getLsbD i))
    ∧ (s.Traps → c.tag = false → TakesTrap (.csent d a) s ⟨.capTag, a.val⟩)
    ∧ (s.Traps → c.tag = true → c.otype ≠ 0 → TakesTrap (.csent d a) s ⟨.capSeal, a.val⟩)

/-- R77: CSADR, CINC and CINCI never trap; the address is written as computed modulo 2^64, bits 127:64 stay, and the tag of the source is
cleared when the source is sealed or the new address no longer decodes to the same base and length. -/
def Obligations.AddressMoves : Prop :=
  ∀ (s : State) (d a b : RegNum) (imm : BitVec 16), s.Plain →
    let c := s.reg a
    let yields := fun (i : Instr) (v : Word) => ∃ r : CReg, GivesCap i s d r
      ∧ r.val.extractLsb' 0 64 = v ∧ r.val.extractLsb' 64 64 = c.val.extractLsb' 64 64
      ∧ (r.tag = true ↔ c.tag = true ∧ c.otype = 0 ∧ r.base = c.base ∧ r.len = c.len)
    yields (.csadr d a b) (s.word b) ∧ yields (.cinc d a b) (s.word a + s.word b) ∧ yields (.cinci d a imm) (s.word a + imm.signExtend 64)

/-- R78: CBND and CBNDX on a tagged, unsealed source. The least exponent e from 0 to 43 for which the bounds rounded outward to multiples
of 2^e have a length mantissa of at most 21 bits gives the new bounds. With bounds that lie within those of the source (and, for CBNDX,
are exact), the result keeps the address and permissions, is tagged and unsealed, and DECODES to those bounds. Otherwise CAPBND is raised
with TVAL holding the address. -/
def Obligations.SettingBounds : Prop :=
  ∀ (s : State) (d a b : RegNum), s.Plain →
    let c := s.reg a
    let base := c.addr
    let top := c.addr + (s.word b).toNat
    let fits := fun (e : Nat) => (top + (2 ^ e - 1)) / 2 ^ e - base / 2 ^ e < 2 ^ 21
    c.tag = true → c.otype = 0 →
    (∀ e < 44, fits e → (∀ k < e, ¬fits k) →
      let lo := base / 2 ^ e * 2 ^ e
      let hi := (top + (2 ^ e - 1)) / 2 ^ e * 2 ^ e
      let made := fun (i : Instr) => ∃ r : CReg, GivesCap i s d r ∧ r.tag = true ∧ r.otype = 0 ∧ r.addr = c.addr ∧ r.perms = c.perms
        ∧ r.exp = e ∧ r.base = lo ∧ r.top = hi
      (c.base ≤ lo → hi ≤ c.top → made (.cbnd d a b) ∧ (lo = base → hi = top → made (.cbndx d a b)))
      ∧ (s.Traps → ¬(c.base ≤ lo ∧ hi ≤ c.top) →
          TakesTrap (.cbnd d a b) s ⟨.capBnd, c.addr⟩ ∧ TakesTrap (.cbndx d a b) s ⟨.capBnd, c.addr⟩)
      ∧ (s.Traps → ¬(lo = base ∧ hi = top) → TakesTrap (.cbndx d a b) s ⟨.capBnd, c.addr⟩))
    ∧ ((∀ e < 44, ¬fits e) → s.Traps → TakesTrap (.cbnd d a b) s ⟨.capBnd, c.addr⟩ ∧ TakesTrap (.cbndx d a b) s ⟨.capBnd, c.addr⟩)

/-- R76: a derived capability never grants more than its source. Whenever one of these instructions gives a tagged result from a tagged
source, the result's bounds lie within the source's and its permissions are among the source's. -/
def Obligations.DerivationNeverGrows : Prop :=
  ∀ (s : State) (d a b : RegNum) (imm : BitVec 16) (i : Instr), s.Plain → s.Traps →
    i ∈ [Instr.csadr d a b, .cinc d a b, .cinci d a imm, .cbnd d a b, .cbndx d a b, .candp d a b, .cseal d a b, .cunsl d a b,
         .csent d a, .cclrt d a, .cmov d a] →
    d ≠ 0 → ∀ t, exec i s = .next t → t.cur.intrap = false → (t.reg d).tag = true →
      (s.reg a).tag = true ∧ (s.reg a).base ≤ (t.reg d).base ∧ (t.reg d).top ≤ (s.reg a).top
      ∧ ∀ p : Nat, (t.reg d).has p = true → (s.reg a).has p = true

/-- R79: CSEAL and CUNSL under the authority of b. The result keeps a's tag, address, bounds and permissions; CSEAL sets the object type to
b's address, CUNSL to 0.
R80: CTSUB writes 1 when both are tagged, of one type, and b's bounds and permissions lie within a's; 0 otherwise. It never traps.
R81: CJR and CJLR check a as an instruction fetch and go on at its address, a sentry unsealed; CJLR links the PCC at PC + 4 as a
tagged sentry. Each check that fails faults at the jump: the register number for the tag, the seal and the permission, the address for
the bounds and the alignment. -/
def Obligations.SealingAndCapabilityJumps : Prop :=
  (
  (∀ (s : State) (d a b : RegNum), s.Plain →
      let c := s.reg a
      let y := s.reg b
      let typed := fun (i : Instr) (ot : Nat) => ∃ r : CReg, GivesCap i s d r ∧ r.tag = c.tag ∧ r.otype = ot
        ∧ r.val.extractLsb' 0 124 = c.val.extractLsb' 0 124
      c.tag = true → y.tag = true → y.otype = 0 → y.has permY = true → y.base ≤ y.addr → y.addr < y.top →
        (c.otype = 0 → 1 ≤ y.addr → y.addr ≤ 14 → typed (.cseal d a b) y.addr)
        ∧ (c.otype ≠ 0 → c.otype ≠ 15 → y.addr = c.otype → typed (.cunsl d a b) 0)
        ∧ (s.Traps → c.otype = 0 → ¬(1 ≤ y.addr ∧ y.addr ≤ 14) → TakesTrap (.cseal d a b) s ⟨.capBnd, y.addr⟩)
        ∧ (s.Traps → c.otype ≠ 0 → c.otype ≠ 15 → y.addr ≠ c.otype → TakesTrap (.cunsl d a b) s ⟨.capSeal, b.val⟩)
  ) ∧ (
  ∀ (s : State) (d a b : RegNum), s.Plain →
      let x := s.reg a
      let y := s.reg b
      let p := x.tag = true ∧ y.tag = true ∧ x.otype = y.otype ∧ x.base ≤ y.base ∧ y.top ≤ x.top ∧ y.perms &&& ~~~x.perms = 0
      (p → Gives (.ctsub d a b) s d 1) ∧ (¬p → Gives (.ctsub d a b) s d 0))
  ) ∧ (
  ∀ (s : State) (d a : RegNum), s.Plain →
    let c := s.reg a
    let p := if c.otype = 15 then c.withOtype 0 else c
    let link : CReg := { (s.cur.pcc.withAddr (s.cur.pc + 4)).withOtype 15 with tag := true }
    let both := fun (e : TrapVal) => TakesTrap (.cjr a) s e ∧ TakesTrap (.cjlr d a) s e
    let open_ := c.otype = 0 ∨ c.otype = 15
    let inside := c.base ≤ c.addr ∧ c.addr + 4 ≤ c.top
    (c.tag = true → open_ → c.has permX = true → inside → c.addr % 4 = 0 →
      GoesTo (.cjr a) s p ∧ ∃ t, exec (.cjlr d a) s = .next t ∧ Wrote s t d link p)
    ∧ (s.Traps →
      (c.tag = false → both ⟨.capTag, a.val⟩)
      ∧ (c.tag = true → ¬open_ → both ⟨.capSeal, a.val⟩)
      ∧ (c.tag = true → open_ → c.has permX = false → both ⟨.capPerm, a.val⟩)
      ∧ (c.tag = true → open_ → c.has permX = true → ¬inside → both ⟨.capBnd, c.addr⟩)
      ∧ (c.tag = true → open_ → c.has permX = true → inside → c.addr % 4 ≠ 0 → both ⟨.align, c.addr⟩))
  )

/-- R43, R48: the checks of every load, store, full/empty access, atomic and block instruction, in their order: tag, seal, permissions,
bounds, alignment. The first that fails is the trap; TVAL holds the base register's number, or the address for bounds and alignment.
R84, R86: a scratch access whose cluster lies outside the issuer's domain takes CAPPERM on the base register; one to a contained core
takes CONTAINED with TVAL holding the address.
R106: an access of the issuing core's own scratchpad that reads a poisoned word takes POISON with TVAL holding the address of the lowest
poisoned word, and has no other effect. -/
def Obligations.AccessChecks : Prop :=
  (
  ∀ (s : State) (i : Instr) (b : RegNum) (x n : Nat) (perms : List Nat),
    s.wants i = some (b, x, n, perms) → s.Traps → s.Drained →
    let c := s.reg b
    let sealed := c.otype ≠ 0
    let allowed := ∀ p ∈ perms, c.has p = true
    let inside := c.base ≤ x ∧ x + n ≤ c.top
    (c.tag = false → TakesTrap i s ⟨.capTag, b.val⟩)
    ∧ (c.tag = true → sealed → TakesTrap i s ⟨.capSeal, b.val⟩)
    ∧ (c.tag = true → ¬sealed → ¬allowed → TakesTrap i s ⟨.capPerm, b.val⟩)
    ∧ (c.tag = true → ¬sealed → allowed → ¬inside → TakesTrap i s ⟨.capBnd, x⟩)
    ∧ (c.tag = true → ¬sealed → allowed → inside → x % n ≠ 0 → TakesTrap i s ⟨.align, x⟩)
  ) ∧ (
  (∀ (s : State) (i : Instr) (b : RegNum) (x n o : Nat) (perms : List Nat),
      s.wants i = some (b, x, n, perms) → s.Traps → s.Drained → s.Passes b x n perms →
      s.released s.turn = true →
      scratchOf (s.domainAt s.turn.core) x = some o →
      ((s.domainAt s.turn.core).holds (clusterOf (scratchCore o)) = false → TakesTrap i s ⟨.capPerm, b.val⟩)
      ∧ ((s.domainAt s.turn.core).holds (clusterOf (scratchCore o)) = true → (s.core (scratchCore o)).contained = true →
          TakesTrap i s ⟨.contained, x⟩)
  ) ∧ (
  ∀ (s : State) (i : Instr) (b : RegNum) (x n o : Nat) (perms : List Nat) (w : Nat),
      s.wants i = some (b, x, n, perms) → s.Traps → s.Reaches x o → s.Passes b x n perms → s.released s.turn = true →
      NatSet.has s.scratch.poison w = true → o < 8 * w + 8 → 8 * w < o + n →
      (∀ v < w, o < 8 * v + 8 → NatSet.has s.scratch.poison v = false) →
      let trap := TakesTrap i s ⟨.poison, x + 8 * w - o⟩
      match i with
      | .ldS8 _ _ _ rx => rx = false → trap
      | .ldS16 _ _ _ rx => rx = false → trap
      | .ldS32 _ _ _ rx => rx = false → trap
      | .ldS64 _ _ _ rx => rx = false → trap
      | .ldN8 _ _ _ rx => rx = false → trap
      | .ldN16 _ _ _ rx => rx = false → trap
      | .ldN32 _ _ _ rx => rx = false → trap
      | .ldQ128 _ _ _ rx => rx = false → trap
      | .ldc _ _ _ => trap
      | .lde _ _ _ => s.scratch.isFull o = true → trap
      | .ldf _ _ _ => s.scratch.isFull o = true → trap
      | .fec _ _ _ => trap
      | .aadd _ _ _ _ _ _ => trap
      | .aand _ _ _ _ _ _ => trap
      | .aor _ _ _ _ _ _ => trap
      | .axor _ _ _ _ _ _ => trap
      | .amin _ _ _ _ _ _ => trap
      | .amax _ _ _ _ _ _ => trap
      | .aminn _ _ _ _ _ _ => trap
      | .amaxn _ _ _ _ _ _ => trap
      | .aswp _ _ _ _ _ _ => trap
      | .acas _ _ _ _ _ _ => trap
      | .afadd _ _ _ _ _ => trap
      | .strel _ _ _ => trap
      | .ldacq _ _ _ => trap
      | .sigmrg _ _ _ => trap
      | _ => True)
  )

/-- R97: the loads from the issuing core's own scratchpad, with no `.rx` access outstanding: sign- or zero-extended into d<63:0>, all 128 bits
for LD.q128, the tag cleared, and nothing else changed.
R97: the stores to the issuing core's own scratchpad write the low bytes of d, clear the tags of the granules written, and change nothing
else.
R98: LDC loads 16 bytes with the granule's tag when the base holds LC and the loaded exponent is at most 43, and untagged otherwise;
STC stores 16 bytes with the register's tag. -/
def Obligations.ScratchLoadsAndStores : Prop :=
  (
  ∀ (s : State) (d b : RegNum) (off : BitVec 11) (o : Nat),
    let gives := fun (n : Nat) (i : Instr) (v : Nat → Quad) =>
      s.Reaches (s.formatM b off n) o → s.Sound o n → s.Passes b (s.formatM b off n) n [permL] →
      GivesQuad i s d (v (s.scratch.read o n))
    gives 1 (.ldS8 d b off false) (fun v => ((BitVec.ofNat 8 v).signExtend 64).zeroExtend 128)
    ∧ gives 2 (.ldS16 d b off false) (fun v => ((BitVec.ofNat 16 v).signExtend 64).zeroExtend 128)
    ∧ gives 4 (.ldS32 d b off false) (fun v => ((BitVec.ofNat 32 v).signExtend 64).zeroExtend 128)
    ∧ gives 8 (.ldS64 d b off false) (fun v => BitVec.ofNat 128 v)
    ∧ gives 1 (.ldN8 d b off false) (fun v => BitVec.ofNat 128 v) ∧ gives 2 (.ldN16 d b off false) (fun v => BitVec.ofNat 128 v)
    ∧ gives 4 (.ldN32 d b off false) (fun v => BitVec.ofNat 128 v) ∧ gives 16 (.ldQ128 d b off false) (fun v => BitVec.ofNat 128 v)
  ) ∧ (
  ∀ (s : State) (d b : RegNum) (off : BitVec 11) (o : Nat),
    let stores := fun (n : Nat) (i : Instr) =>
      s.Reaches (s.formatM b off n) o → s.Sound o n → s.Passes b (s.formatM b off n) n [permS] →
      ∃ t, exec i s = .next t ∧ Stored s t o n (s.reg d).val.toNat
    stores 1 (.st8 d b off false) ∧ stores 2 (.st16 d b off false) ∧ stores 4 (.st32 d b off false)
    ∧ stores 8 (.st64 d b off false) ∧ stores 16 (.stQ128 d b off false)
  ) ∧ (
  ∀ (s : State) (d b : RegNum) (off : BitVec 11) (o : Nat),
    let x := s.formatM b off 16
    s.Reaches x o → s.Sound o 16 →
    (s.Passes b x 16 [permL] →
      let v := BitVec.ofNat 128 (s.scratch.read o 16)
      GivesCap (.ldc d b off) s d
        ⟨v, s.scratch.tag o && (s.reg b).has permLC && decide ((v.extractLsb' 106 6).toNat ≤ 43)⟩)
    ∧ (s.Passes b x 16 (if (s.reg d).tag then [permS, permSC] else [permS]) →
      ∃ t, exec (.stc d b off) s = .next t ∧ t.scratch.read o 16 = (s.reg d).val.toNat ∧ t.scratch.tag o = (s.reg d).tag
        ∧ (∀ a, a < o ∨ o + 16 ≤ a → t.scratch.byte a = s.scratch.byte a)
        ∧ (∀ a, a / 16 ≠ o / 16 → t.scratch.tag a = s.scratch.tag a) ∧ t.scratch.full = s.scratch.full
        ∧ t.cur = { s.cur with pcc := s.pccNext } ∧ SameButScratch s t)
  )

/-- R90, R91: an `.rx` load from scratch with fewer than four accesses outstanding issues at once: it takes an entry, clears the presence bit of its
destination unless that is g0, and the thread goes on; no register changes yet. An `.rx` store takes an entry with its data. -/
def Obligations.RelaxedIssue : Prop :=
  ∀ (s : State) (d b : RegNum) (off : BitVec 11) (n o : Nat) (i : Instr) (sgn : Bool),
    let x := s.formatM b off n
    s.Plain → s.cur.spec = false → s.cur.rx.length < 4 →
    scratchOf (s.domainAt s.turn.core) x = some o → (s.domainAt s.turn.core).holds (clusterOf (scratchCore o)) = true →
    (s.core (scratchCore o)).contained = false →
    ((i, n, sgn) ∈ [(Instr.ldS8 d b off true, 1, true), (.ldS16 d b off true, 2, true), (.ldS32 d b off true, 4, true),
        (.ldS64 d b off true, 8, true), (.ldN8 d b off true, 1, false), (.ldN16 d b off true, 2, false),
        (.ldN32 d b off true, 4, false), (.ldQ128 d b off true, 16, false)] → s.Passes b x n [permL] →
      exec i s = .next (s.setCur { s.cur with
        rx := s.cur.rx ++ [⟨⟨.load d n sgn, x, b, (s.reg b).has permD⟩, clusterOf (scratchCore o)⟩]
        absent := if d = 0 then s.cur.absent else s.cur.absent ||| (1 <<< d.val)
        pcc := s.pccNext }))
    ∧ ((i, n) ∈ [(Instr.st8 d b off true, 1), (.st16 d b off true, 2), (.st32 d b off true, 4), (.st64 d b off true, 8), (.stQ128 d b off true, 16)] →
      s.Passes b x n [permS] →
      exec i s = .next (s.setCur { s.cur with
        rx := s.cur.rx ++ [⟨⟨.store n ((s.reg d).val.toNat % 2 ^ (8 * n)), x, b, (s.reg b).has permD⟩, clusterOf (scratchCore o)⟩]
        pcc := s.pccNext }))

/-- R93, R94, R96, R97, R121: on the global path, a load of any size whose bytes are all valid in the L1, and none of them in a poisoned word,
completes from it; a store of any size to a line the L1 holds writes its bytes in that line, marks them valid and dirty by this slot, clears the
tags of its granules, and inserts the line into the thread's signature. The capability holds D, or the page is of another type than the
carved one. -/
def Obligations.CachedAccesses : Prop :=
  ∀ (s : State) (d b : RegNum) (off : BitVec 11) (dk : Nat) (l : L1Line),
    let c := s.turn.core
    let x := fun (n : Nat) => s.formatM b off n
    let bytes := fun (v : BitVec 512) (n : Nat) => (v.extractLsb' (8 * (x n % 64)) (8 * n)).toNat
    s.Plain → s.Drained → s.cur.status = .running → s.cur.spec = false → s.turn.slot < 15 → s.domainOfCore c = some dk → l.pre = false →
    let held := fun (n : Nat) => scratchOf (s.domainAt c) (x n) = none ∧ Map.find (s.core c).l1 (x n / 64) = some l
      ∧ ((s.reg b).has permD = true ∨ ∀ e, translate s (clusterOf c) dk (x n) = .ok e → pteType e.pte ≠ 2)
    let loads := fun (n : Nat) (i : Instr) (v : Nat → Quad) => held n → s.Passes b (x n) n [permL] →
      (∀ k < n, l.valid.getLsbD (x n % 64 + k) = true) →
      (∀ w, x n % 64 < 8 * w + 8 → 8 * w < x n % 64 + n → l.poison.getLsbD w = false) →
      GivesQuad i s d (v (bytes l.data n))
    let stores := fun (n : Nat) (i : Instr) => held n → s.Passes b (x n) n [permS] →
      ∃ t m, exec i s = .next t ∧ Map.find (t.core c).l1 (x n / 64) = some m ∧ bytes m.data n = (s.reg d).val.toNat % 2 ^ (8 * n)
        ∧ (∀ k < n, m.valid.getLsbD (x n % 64 + k) = true ∧ m.dirty.getLsbD (x n % 64 + k) = true)
        ∧ (∀ k < 64, k < x n % 64 ∨ x n % 64 + n ≤ k → m.data.extractLsb' (8 * k) 8 = l.data.extractLsb' (8 * k) 8)
        ∧ (∀ g < 4, m.tags.getLsbD g = (l.tags.getLsbD g && g != x n % 64 / 16))
        ∧ m.writers.getLsbD s.turn.slot = true ∧ sigHit t.cur.own (x n / 64) = true
        ∧ (∀ r : RegNum, t.reg r = s.reg r) ∧ t.cur.pcc = s.pccNext
        ∧ t.hbm = s.hbm ∧ t.scratch = s.scratch ∧ t.carved = s.carved ∧ t.host = s.host
    loads 1 (.ldS8 d b off false) (fun v => ((BitVec.ofNat 8 v).signExtend 64).zeroExtend 128)
    ∧ loads 2 (.ldS16 d b off false) (fun v => ((BitVec.ofNat 16 v).signExtend 64).zeroExtend 128)
    ∧ loads 4 (.ldS32 d b off false) (fun v => ((BitVec.ofNat 32 v).signExtend 64).zeroExtend 128)
    ∧ loads 8 (.ldS64 d b off false) (fun v => BitVec.ofNat 128 v)
    ∧ loads 1 (.ldN8 d b off false) (fun v => BitVec.ofNat 128 v) ∧ loads 2 (.ldN16 d b off false) (fun v => BitVec.ofNat 128 v)
    ∧ loads 4 (.ldN32 d b off false) (fun v => BitVec.ofNat 128 v) ∧ loads 16 (.ldQ128 d b off false) (fun v => BitVec.ofNat 128 v)
    ∧ stores 1 (.st8 d b off false) ∧ stores 2 (.st16 d b off false) ∧ stores 4 (.st32 d b off false)
    ∧ stores 8 (.st64 d b off false) ∧ stores 16 (.stQ128 d b off false)

/-- Table 5-4: the full/empty instructions on a word of the issuing core's own scratchpad that no thread waits for. LDE and LDF wait while it is
empty and STF while it is full: the thread then parks as a waiter of the word, which stays as it is. LDE and LDF acquire at device scope (R101).
-/
def Obligations.FullEmpty : Prop :=
  ∀ (s : State) (d b : RegNum) (off : BitVec 11) (o : Nat),
    let x := s.formatM b off 8
    let old := s.scratch.read o 8
    let yields := fun (i : Instr) (v : CReg) (new : Nat) (state : Bool) (acquires : Prop) => ∃ t, exec i s = .next t ∧ Updated s t d v o 8 new
      ∧ t.scratch.isFull o = state ∧ (∀ a, a / 8 ≠ o / 8 → t.scratch.isFull a = s.scratch.isFull a) ∧ (acquires → Acquired s t .device)
      ∧ (¬acquires → t.cores = s.cores)
    let keeps := fun (i : Instr) (new : Nat) => ∃ t, exec i s = .next t ∧ Stored { s with scratch := s.scratch.setFull o true } t o 8 new
    let parks := fun (i : Instr) => ∃ t r, exec i s = .next t ∧ t.cur.status = .parked (.waiter r) ∧ t.cur.pcc = s.cur.pcc
      ∧ t.scratch = s.scratch ∧ ∀ q : RegNum, t.reg q = s.reg q
    s.Reaches x o → s.Sound o 8 → s.Passes b x 8 [permL] → s.Passes b x 8 [permS] → s.released s.turn = true →
    (s.cluster (clusterOf s.turn.core)).waiters = [] →
    (s.scratch.isFull o = true →
      yields (.lde d b off) (untagged (BitVec.ofNat 64 old)) old false True
      ∧ yields (.ldf d b off) (untagged (BitVec.ofNat 64 old)) old true True
      ∧ parks (.stf d b off))
    ∧ (s.scratch.isFull o = false → parks (.lde d b off) ∧ parks (.ldf d b off) ∧ keeps (.stf d b off) (s.word d).toNat)
    ∧ keeps (.stx d b off) (s.word d).toNat
    ∧ yields (.fec d b off) (untagged128 (BitVec.ofNat 128 (old + if s.scratch.isFull o then 2 ^ 64 else 0))) old (s.scratch.isFull o) False
    ∧ yields (.feq d b off) (untagged (if s.scratch.isFull o then 1 else 0)) old (s.scratch.isFull o) False

/-- R131, Table 6-11: an atomic on the issuing core's own scratchpad replaces the word by the new value in one step and returns the old one,
zero-extended; a failed ACAS writes nothing. AFADD adds as binary32 under RMODE and ORs its flags into FFLAGS (R132). Full/empty bits and
every other byte stay. Under a releasing order the L1 holds nothing the release must write back; an acquiring order performs acquire(s, none)
after the reply, and the others change no L1 (R133). -/
def Obligations.Atomics : Prop :=
  ∀ (s : State) (d a b : RegNum) (w : Bool) (sc : Scope) (ord : AOrder) (o : Nat),
    let x := (s.word a).toNat
    let n := if w then 8 else 4
    let old := s.scratch.read o n
    let v := (s.word b).toNat % 2 ^ (8 * n)
    let cmp := (s.word d).toNat % 2 ^ (8 * n)
    let sx := fun (y : Nat) => (BitVec.ofNat (8 * n) y).toInt
    let yields := fun (i : Instr) (m new : Nat) => ∃ t, exec i s = .next t ∧ Updated s t d (untagged (BitVec.ofNat 64 (s.scratch.read o m))) o m new
      ∧ t.scratch.full = s.scratch.full ∧ (if ord = .acq ∨ ord = .acqrel then Acquired s t sc else t.cores = s.cores ∧ t.cur.isat = s.cur.isat ∧ t.cur.inh = s.cur.inh)
    s.Reaches x o → s.Sound o 8 → s.released s.turn = true →
    (s.Passes a x n [permL, permS, permA] →
      yields (.aadd d a b w sc ord) n ((old + v) % 2 ^ (8 * n)) ∧ yields (.aand d a b w sc ord) n (old &&& v) ∧ yields (.aor d a b w sc ord) n (old ||| v)
      ∧ yields (.axor d a b w sc ord) n (old ^^^ v)
      ∧ yields (.amin d a b w sc ord) n (if sx old ≤ sx v then old else v) ∧ yields (.amax d a b w sc ord) n (if sx v ≤ sx old then old else v)
      ∧ yields (.aminn d a b w sc ord) n (min old v) ∧ yields (.amaxn d a b w sc ord) n (max old v)
      ∧ yields (.aswp d a b w sc ord) n v ∧ yields (.acas d a b w sc ord) n (if old = cmp then v else old))
    ∧ (s.Passes a x 4 [permL, permS, permA] →
      let p := s.scratch.read o 4
      let q := (s.word b).toNat % 2 ^ 32
      -- two zeros of one sign keep it in every rounding mode
      let r := if p = q ∧ (p = 0 ∨ p = 2 ^ 31) then (p, 0) else fmtF32.add s.cur.rmode.toNat p q
      yields (.afadd d a b sc ord) 4 (r.1 % 2 ^ 32)
      ∧ ∃ t, exec (.afadd d a b sc ord) s = .next t ∧ t.cur.fflags = s.cur.fflags ||| r.2)

/-- R124 to R127: the block instructions on a block in the issuing core's own scratchpad. STREL at core scope or wider writes the value, ORs the
thread's signatures into SIG, and clears them; LDACQ returns the value and inherits SIG, and at cluster or device scope no line that hits
SIG keeps a clean byte in the L1; SIGRST clears bytes 8 to 127; SIGMRG returns the value and inherits SIG without invalidating. -/
def Obligations.Blocks : Prop :=
  ∀ (s : State) (d a : RegNum) (sc : Scope) (o : Nat),
    let x := (s.word a).toNat
    let sig := BitVec.ofNat 768 (s.scratch.read (o + 32) 96)
    let sat := decide (s.scratch.read (o + 8) 8 / 2 ^ 35 % 2 = 1)
    s.Reaches x o → s.Sound o 128 → s.Passes a x 128 [permL, permS] → s.released s.turn = true → s.turn.core < 2 ^ 16 →
    (∃ t, exec (.strel d a sc) s = .next t ∧ t.scratch.read o 8 = (s.word d).toNat ∧ t.scratch.read (o + 16) 16 = 0
      ∧ t.scratch.read (o + 8) 8 % 2 ^ 16 = s.turn.core ∧ t.scratch.read (o + 8) 8 / 2 ^ 32 % 8 = sc.code
      ∧ t.scratch.read (o + 32) 96 = (if sc = .thread then sig else sig ||| s.cur.own ||| s.cur.inh).toNat
      ∧ (sc ≠ .thread → t.cur.own = 0 ∧ t.cur.inh = 0 ∧ t.cur.isat = false ∧ t.cur.cnt = 0)
      ∧ (sc = .thread → t.cur.own = s.cur.own ∧ t.cur.inh = s.cur.inh)
      ∧ (∀ q, q < o ∨ o + 128 ≤ q → t.scratch.byte q = s.scratch.byte q)
      ∧ (∀ r : RegNum, t.reg r = s.reg r) ∧ t.cur.pcc = s.pccNext)
    ∧ (∃ t, exec (.ldacq d a sc) s = .next t ∧ Updated s t d (untagged (BitVec.ofNat 64 (s.scratch.read o 8))) o 128 (s.scratch.read o 128)
      ∧ t.cur.inh = (if sc = .thread then s.cur.inh else s.cur.inh ||| sig)
      ∧ t.cur.isat = (if sc = .thread then s.cur.isat else s.cur.isat || sat)
      ∧ (sc = .cluster ∨ sc = .device ∨ sc = .system → ∀ y m, sat = true ∨ sigHit sig y = true ∨ sc = .system →
          Map.find (t.core s.turn.core).l1 y = some m → m.valid &&& ~~~m.dirty = 0))
    ∧ (∃ t, exec (.sigrst a sc) s = .next t ∧ t.scratch.read o 8 = s.scratch.read o 8 ∧ t.scratch.read (o + 8) 120 = 0
      ∧ (∀ q, q < o ∨ o + 128 ≤ q → t.scratch.byte q = s.scratch.byte q)
      ∧ (∀ r : RegNum, t.reg r = s.reg r) ∧ t.cur.pcc = s.pccNext)
    ∧ (∃ t, exec (.sigmrg d a sc) s = .next t ∧ Updated s t d (untagged (BitVec.ofNat 64 (s.scratch.read o 8))) o 128 (s.scratch.read o 128)
      ∧ t.cur.inh = s.cur.inh ||| sig ∧ t.cur.isat = (s.cur.isat || sat) ∧ t.cores = s.cores)

/-- R129, Table 6-9: a FENCE of a thread that is not speculative and owes no write-back goes on at once. With `ll` or `sl` it sets isat at core scope or wider,
and at cluster scope or wider leaves no clean byte in the L1; without them it changes nothing. It parks while its release owes a
write-back. No register and no memory changes. -/
def Obligations.Fences : Prop :=
  ∀ (s : State) (sets : BitVec 4) (sc : Scope), s.Plain → s.Drained → s.cur.spec = false →
    let acquires := sets.getLsbD 0 = true ∨ sets.getLsbD 3 = true
    let releases := sets.getLsbD 2 = true ∨ sets.getLsbD 3 = true
    (¬releases ∨ sc = .thread ∨ s.released s.turn = true →
      ∃ t, exec (.fence sets sc) s = .next t ∧ t.cur.pcc = s.pccNext ∧ t.cur.status = s.cur.status
        ∧ (∀ r : RegNum, t.reg r = s.reg r) ∧ t.hbm = s.hbm ∧ t.scratch = s.scratch ∧ t.carved = s.carved ∧ t.host = s.host
        ∧ t.cur.isat = (if acquires ∧ sc ≠ .thread then true else s.cur.isat)
        ∧ (acquires → sc ≠ .thread → sc ≠ .core → ∀ y m, Map.find (t.core s.turn.core).l1 y = some m → m.valid &&& ~~~m.dirty = 0)
        ∧ (¬acquires → t = s.setCur { s.cur with pcc := s.pccNext }))
    ∧ (releases → sc ≠ .thread → s.released s.turn = false →
      ∃ t, exec (.fence sets sc) s = .next t ∧ t.cur.status = .parked (.release (.fence sets sc)) ∧ t.cur.pcc = s.cur.pcc
        ∧ ∀ r : RegNum, t.reg r = s.reg r)

/-- R103, Table 5-5: the checks of CFLU, CINV, DISC, LLCK and LULK in their order: tag, seal, the permission S for CINV and DISC, then the bounds
of the whole range and its length of at most 1,048,576 bytes, with TVAL holding the address. PREF checks tag and seal alone. -/
def Obligations.CacheInstructionChecks : Prop :=
  ∀ (s : State) (d a b : RegNum) (i : Instr), s.Traps → s.Drained →
    let c := s.reg a
    let inside := c.base ≤ c.addr ∧ c.addr + (s.word b).toNat ≤ c.top ∧ (s.word b).toNat ≤ 1048576
    let needsS := i ∈ [Instr.cinv a b, .disc a b]
    (i ∈ [Instr.pref a b, .cflu a b, .cinv a b, .disc a b, .llck d a b, .lulk d a b] →
      (c.tag = false → TakesTrap i s ⟨.capTag, a.val⟩) ∧ (c.tag = true → c.otype ≠ 0 → TakesTrap i s ⟨.capSeal, a.val⟩))
    ∧ (needsS → c.tag = true → c.otype = 0 → c.has permS = false → TakesTrap i s ⟨.capPerm, a.val⟩)
    ∧ (i ∈ [Instr.cflu a b, .cinv a b, .disc a b, .llck d a b, .lulk d a b] → c.tag = true → c.otype = 0 →
        (needsS → c.has permS = true) → ¬inside → TakesTrap i s ⟨.capBnd, c.addr⟩)

/-- R103, R104: PREF, CFLU, CINV and DISC of a thread that is not speculative, after their checks. On scratch addresses they change nothing but the
PCC. On the global path PREF asks, of the lines of the range within bounds that the L1 does not hold whole, for those that the capability may reach,
and goes on; CFLU goes on once no byte of the range is dirty or owed, and parks until then; so does CINV, which then leaves none of those lines
in the L1; DISC drops the whole lines of the range from an L1 that lists no line twice and from the write-back queue, keeps every other line's
data, and goes on at once when the range is made of whole lines and nothing but the queue owes a write-back. -/
def Obligations.CacheInstructions : Prop :=
  ∀ (s : State) (a b : RegNum) (n : Nat),
    let c := s.reg a
    let x := c.addr
    let hi := fun (n : Nat) => if n = 0 then x / 64 else (x + n - 1) / 64 + 1
    let k := s.turn.core
    let reach := fun (y : Nat) => c.has permD = true ∨
      ∀ dk e, s.domainOfCore k = some dk → translate s (clusterOf k) dk (64 * y) = .ok e → pteType e.pte ≠ 2
    let goesOn := fun (t : State) => t.cur = { s.cur with pcc := s.pccNext }
    s.Plain → s.Drained → s.cur.spec = false → c.tag = true → c.otype = 0 →
    ((scratchOf (s.domainAt k) x).isSome = true → GoesTo (.pref a b) s s.pccNext)
    ∧ (scratchOf (s.domainAt k) x = none → n = min (s.word b).toNat 1048576 →
      ∃ t, exec (.pref a b) s = .next t ∧ goesOn t ∧ (t.core k).l1 = (s.core k).l1
        ∧ ∀ y, NatSet.has (t.core k).fills y = true ↔ NatSet.has (s.core k).fills y = true ∨
            (x / 64 ≤ y ∧ y < hi n ∧ c.base ≤ 64 * y ∧ 64 * y + 64 ≤ c.top ∧ reach y
              ∧ ∀ l, Map.find (s.core k).l1 y = some l → l.valid ≠ BitVec.allOnes 64))
    ∧ (n = (s.word b).toNat → c.base ≤ x → x + n ≤ c.top → n ≤ 1048576 →
      ((scratchOf (s.domainAt k) x).isSome = true →
        GoesTo (.cflu a b) s s.pccNext ∧ (c.has permS = true → GoesTo (.cinv a b) s s.pccNext ∧ GoesTo (.disc a b) s s.pccNext))
      ∧ (scratchOf (s.domainAt k) x = none →
        (s.rangeClean k (x / 64) (hi n) = true → GoesTo (.cflu a b) s s.pccNext
          ∧ (c.has permS = true → ∃ t, exec (.cinv a b) s = .next t ∧ goesOn t
            ∧ ∀ y, Map.find (t.core k).l1 y = if x / 64 ≤ y ∧ y < hi n then none else Map.find (s.core k).l1 y))
        ∧ (s.rangeClean k (x / 64) (hi n) = false →
          let waits := fun (i : Instr) (inv : Bool) => ∃ t, exec i s = .next t
            ∧ t.cur = { s.cur with status := .parked (.release (.cacheRange inv (x / 64) (hi n))) }
          waits (.cflu a b) false ∧ (c.has permS = true → waits (.cinv a b) true))
        ∧ (c.has permS = true → (∀ e ∈ (s.core k).l1, Map.find (s.core k).l1 e.1 = some e.2) →
          ∃ t, exec (.disc a b) s = .next t ∧ (∀ r : RegNum, t.reg r = s.reg r)
          ∧ (∀ y, (x + 63) / 64 ≤ y → y < (x + n) / 64 → Map.find (t.core k).l1 y = none ∧ ∀ w ∈ (t.core k).wbq, w.line ≠ y)
          ∧ (∀ y l, ¬((x + 63) / 64 ≤ y ∧ y < (x + n) / 64) → Map.find (s.core k).l1 y = some l →
              ∃ m, Map.find (t.core k).l1 y = some m ∧ m.data = l.data ∧ m.valid = l.valid)
          ∧ (x % 64 = 0 → n % 64 = 0 → s.owed k = (s.core k).wbq → goesOn t))))

/-- R105: LLCK pins every line of HBM in the range or none: d := 0 when all are pinned, 1 when the domain's pinned lines would exceed the quota of its
descriptor, and 2 when a set would have more than 12 pinned ways; a line that is pinned already costs nothing. LULK unpins them and writes 0.
Both write 0 for scratch addresses. Every page of the range is mapped; 1 where both limits would be passed is the model's choice (log
entry 43), as is the set of a line (log entry 20). -/
def Obligations.LineLocks : Prop :=
  ∀ (s : State) (d a b : RegNum) (dk : Nat),
    let c := s.reg a
    let n := (s.word b).toNat
    let cl := clusterOf s.turn.core
    let ls := (linesIn c.addr n).flatMap (fun y => match translate s cl dk (64 * y) with
      | .ok e => if pteType e.pte = 0 then [(pteHome e.pte, (pteFrame e.pte + (64 * y - e.va)) / 64)] else []
      | .error _ => [])
    let held := ((s.domain dk).clusters.map (fun k => (s.cluster k).pinned.length)).sum
    let new := (ls.filter (fun p => !NatSet.has (s.cluster p.1).pinned p.2)).eraseDups
    let quota := (s.domain dk).descr.toNat / 256 ^ 92 % 256 ^ 4
    let pinned := fun (k : Nat) => new.foldl (fun q p => if p.1 = k then NatSet.ins q p.2 else q) (s.cluster k).pinned
    let full := ∃ p ∈ new, 12 < ((pinned p.1).filter (fun y => y % 2048 = p.2 % 2048)).length
    s.Plain → s.Drained → s.cur.spec = false → c.tag = true → c.otype = 0 → c.base ≤ c.addr → c.addr + n ≤ c.top → n ≤ 1048576 →
    ((scratchOf (s.domainAt s.turn.core) c.addr).isSome = true → Gives (.llck d a b) s d 0 ∧ Gives (.lulk d a b) s d 0)
    ∧ (scratchOf (s.domainAt s.turn.core) c.addr = none → s.domainOfCore s.turn.core = some dk →
      (∀ y ∈ linesIn c.addr n, ∃ e, translate s cl dk (64 * y) = .ok e) →
      let zero := fun (i : Instr) (pins : Nat → NatSet) => ∃ t, exec i s = .next t ∧ (d ≠ 0 → t.reg d = {}) ∧ (∀ r : RegNum, r ≠ d → t.reg r = s.reg r)
        ∧ t.cur.pcc = s.pccNext ∧ ∀ k, (t.cluster k).pinned = pins k
      (quota < held + new.length → Gives (.llck d a b) s d 1)
      ∧ (held + new.length ≤ quota → full → Gives (.llck d a b) s d 2)
      ∧ (held + new.length ≤ quota → ¬full → zero (.llck d a b) pinned)
      ∧ zero (.lulk d a b) (fun k => ls.foldl (fun q p => if p.1 = k then NatSet.del q p.2 else q) (s.cluster k).pinned))

/-- R138, R139, R141, R167, R168: TENQ and TENQW with a record in the issuing core's own scratchpad, by a thread that is not speculative and owes
no write-back. A timestamp before the issuer's raises TSBACK; a width that no cluster can hold gives status 2, or QFULL with the hint when d is
g0. Otherwise the record leaves for its cluster with the new timestamp and a tiebreak of the cluster's next count, and the thread parks. The
cluster is the one that the hint's hash chooses, without a hint the issuer's own while its queue holds fewer than 1,536 entries, and else the
first of those with the fewest at the last round. The reply of a target with room gives status 0, and the thread goes on with the next word:
shown for the issuer's own cluster. -/
def Obligations.TaskEnqueue : Prop :=
  ∀ (s : State) (d a b : RegNum) (o dk : Nat),
    let x := (s.word a).toNat
    let cl := clusterOf s.turn.core
    let dom := s.domain dk
    let c := s.cluster cl
    let flags := s.scratch.read (o + 14) 2
    let hint := s.scratch.read (o + 12) 2
    let nohint := flags / 2 ^ 12 % 2 = 1
    let wide := 960 < flags % 1024 + 1 ∨ (flags / 2 ^ 11 % 2 = 1 ∧ 448 < flags % 1024 + 1)
    let n := max c.ctr.toNat (s.cur.vt.tb.toNat / 2 ^ 10) + 1
    s.Reaches x o → s.Sound o 64 → s.Passes a x 64 [permL, permQ] → s.released s.turn = true → s.domainOfCore s.turn.core = some dk →
    ((s.word b).toNat < s.cur.vt.ts.toNat → s.Traps →
      TakesTrap (.tenq d a b) s ⟨.tsback, (s.word b).toNat⟩ ∧ TakesTrap (.tenqw d a b) s ⟨.tsback, (s.word b).toNat⟩)
    ∧ (s.cur.vt.ts.toNat ≤ (s.word b).toNat → wide → d ≠ 0 → Gives (.tenq d a b) s d 2 ∧ Gives (.tenqw d a b) s d 2)
    ∧ (s.cur.vt.ts.toNat ≤ (s.word b).toNat → wide → d = 0 → s.Traps →
      TakesTrap (.tenq d a b) s ⟨.qfull, hint⟩ ∧ TakesTrap (.tenqw d a b) s ⟨.qfull, hint⟩)
    ∧ (s.cur.vt.ts.toNat ≤ (s.word b).toNat → ¬wide → n < 2 ^ 54 →
      ∀ p ∈ [(Instr.tenq d a b, false), (.tenqw d a b, true)], ∃ t f, exec p.1 s = .next t
        ∧ t.cur = { s.cur with status := .parked (.tenqSent d p.2 hint) }
        ∧ f.target = s.place dk cl f.rcd
        ∧ (¬nohint → f.target = dom.clusterAt (hint * 40503 % 65536 % dom.count))
        ∧ (nohint → c.queue.length < 1536 → f.target = cl)
        ∧ (∀ r, nohint → 1536 ≤ c.queue.length → dom.round = some r → ∃ q, f.target = dom.clusterAt q
            ∧ (∀ j < r.occ.length, r.occ.getD q 0 ≤ r.occ.getD j 0) ∧ ∀ j < q, r.occ.getD q 0 < r.occ.getD j 0)
        ∧ (t.cluster f.target).flying = (s.cluster f.target).flying ++ [f] ∧ (t.cluster cl).ctr = BitVec.ofNat 54 n
        ∧ f.issuer = some s.turn ∧ f.parent = s.cur.task ∧ f.wait = p.2
        ∧ f.vt = ⟨s.word b, BitVec.ofNat 64 (n * 2 ^ 10 + dom.indexOf cl)⟩
        ∧ f.rcd.bytes.extractLsb' 0 64 = s.word b
        ∧ f.rcd.bytes.extractLsb' 64 448 = (BitVec.ofNat 512 (s.scratch.read o 64)).extractLsb' 64 448
        ∧ (f.target = cl → c.flying = [] → c.queue.length < 2048 → s.domainOf cl = some dk →
          ∃ u, exec .taskRecordArrival { t with ev := { t.ev with cluster := cl } } = .next u
            ∧ u.cur.status = .running ∧ u.cur.pcc = s.pccNext ∧ (u.cluster cl).flying = []
            ∧ (d ≠ 0 → u.reg d = {}) ∧ ∀ r : RegNum, r ≠ d → u.reg r = s.reg r))

/-- R169 to R173: TEND parks until its acknowledgements; a speculative thread's TABT asks for the abort of its task and parks, another thread's ends as by
TEND; TIRV of a thread that is not speculative sets IRV and goes on; TVT reads the thread's virtual time, or that of the last round, all ones when
the round had none; CSIG adds b to the word and returns the old value.
R158, R159: an irrevocable instruction of a speculative task parks its thread before any part of it is performed, and the task waits. Shown of TIRV, CSIG
and the full/empty instructions after their checks, the gang and neighbour instructions, ELECT before a word that it may govern, PREF of a
capability, and the other irrevocable instructions that check nothing first; GARR and GSYNC of a thread without refused rows. -/
def Obligations.TaskControl : Prop :=
  (∀ (s : State) (d a b : RegNum) (o : Nat), s.Plain → s.Drained →
      (s.refusedRows s.turn = [] → ∃ t, exec .tend s = .next t ∧ t.cur = { s.cur with status := .parked (.tendAcks false) }
        ∧ ∀ x ∈ t.ownCore.subs, x.owner ≠ s.turn)
      ∧ (s.Traps → s.refusedRows s.turn ≠ [] → TakesTrap .tend s ⟨.accabs, (s.refusedRows s.turn).length⟩)
      ∧ (s.cur.spec = false → ∃ t, exec (.tabt a) s = .next t ∧ t.cur = { s.cur with status := .parked (.tendAcks true) })
      ∧ (∀ id e, s.cur.spec = true → s.cur.task = some id → s.taskOf id = some e → e.spec = true →
          (∀ x ∈ (s.cluster id.cluster).aborts, x.1 ≠ id.entry) →
          ∃ t, exec (.tabt a) s = .next t ∧ t.cur = { s.cur with status := .parked .aborting }
            ∧ (t.cluster id.cluster).aborts
              = (s.cluster id.cluster).aborts ++ [(id.entry, if (s.word a).getLsbD 0 then AbortMode.discard else .requeue)])
      ∧ (s.cur.spec = false → exec .tirv s = .next (s.setCur { s.cur with irv := true, pcc := s.pccNext }))
      ∧ GivesQuad (.tvt d 0) s d (s.cur.vt.tb ++ s.cur.vt.ts)
      ∧ (∀ r, (s.domainAt s.turn.core).round = some r →
          GivesQuad (.tvt d 1) s d (match r.u with
            | some v => v.tb ++ v.ts
            | none => BitVec.allOnes 128))
      ∧ ((s.domainAt s.turn.core).round = none → GivesQuad (.tvt d 1) s d 0)
      ∧ (let x := (s.word a).toNat
        let old := s.scratch.read o 8
        s.Reaches x o → s.Sound o 8 → s.Passes a x 8 [permL, permS, permA] → s.quiet s.turn = true →
          ∃ t, exec (.csig d a b) s = .next t ∧ Updated s t d (untagged (BitVec.ofNat 64 old)) o 8 ((old + (s.word b).toNat) % 2 ^ 64))
  ) ∧ (
  ∀ (s : State) (d a b r : RegNum) (id : RunId) (e : TaskEntry) (i : Instr) (sel : Fin 5) (slot : Fin 15) (dir : Dir) (k : Fin 5) (tb : Fin 4)
      (cc : Fin 8) (clr p : Bool) (tl : TileNum) (off : BitVec 11),
      i ∈ [Instr.tirv, .csig d a b, .grank d sel, .garr d, .gwait d, .gsync d, .gexp a, .rput d a r slot dir, .rtake d, .rpres d a, .elect,
           .lde d a off, .ldf d a off, .stf d a off, .stx d a off, .fec d a off, .feq d a off, .pref a b, .subl d b, .scls d p, .cwait d cc a,
           .crd d cc clr, .tlstQuery d tl, .tbcf d k tb, .tbcfQuery d tb, .msync, .arsn d, .arsnNw d, .arsnDrop d, .astaOutbox d, .camc d a,
           .spcf d a] →
      s.Plain → s.Drained → s.cur.spec = true → s.cur.task = some id → s.taskOf id = some e →
      (i ∈ [Instr.garr d, .gsync d] → s.refusedRows s.turn = []) →
      (i = .csig d a b → s.Passes a (s.word a).toNat 8 [permL, permS, permA]) →
      (∀ x n perms, s.wants i = some (a, x, n, perms) → s.Passes a x n perms) →
      (i = .pref a b → (s.reg a).tag = true ∧ (s.reg a).otype = 0) →
      (i = .elect → ∃ w, s.governed = .word w ∧ decodeFault s.cur w = none) →
      ∃ t, exec i s = .next t ∧ t.cur = { s.cur with past := t.cur.past, status := .parked .irrevocable } ∧ t.taskOf id = some { e with st := .waiting }
        ∧ t.scratch = s.scratch ∧ t.hbm = s.hbm ∧ t.cores = s.cores)

/-- R182 to R185: the gang instructions of a thread whose gang has a barrier entry that is not broken. GARR sends its arrival with its signatures, clears them,
gives the phase and moves AP on; GSYNC does the same and waits; both park until the phase before is over. GWAIT gives the phase, LATE
and OVER once its phase is complete, and parks until then. GEXP sends an expectation. GRANK reads the gang's values.
R188, R189: RPUT to a neighbour's slot that holds a live thread of the issuer's gang sends the register, tag included, and gives 0, a redundant pair being named by either of its slots; to another slot, or past
the edge of the package, it gives 1 and sends nothing. RTAKE of a present register clears its presence bit and goes on, and parks for one that
is absent; RPRES gives the presence bits and clears those that a names, never g0's. -/
def Obligations.GangInstructions : Prop :=
  (
  ∀ (s : State) (d a : RegNum) (p : Nat × Nat) (e : Barrier),
    let h := s.cur
    let sent := fun (t : State) (m : BMsg) => Map.find (t.cluster p.1).bars p.2 = some { e with msgs := e.msgs ++ [m] }
    s.Plain → s.Drained → h.spec = false → s.barrierOf s.turn = some p → Map.find (s.cluster p.1).bars p.2 = some e → e.broken = none →
    (s.refusedRows s.turn = [] → h.lv + 1 = h.ap → s.released s.turn = true →
      (∃ t, exec (.garr d) s = .next t ∧ (d ≠ 0 → t.reg d = untagged (h.ap.zeroExtend 64)) ∧ (∀ r : RegNum, r ≠ d → t.reg r = s.reg r)
        ∧ t.cur.pcc = s.pccNext ∧ t.cur.ap = h.ap + 1 ∧ t.cur.own = 0 ∧ t.cur.inh = 0 ∧ t.cur.cnt = 0 ∧ t.cur.isat = false
        ∧ sent t (.arrive h.ap (h.own ||| h.inh) h.isat))
      ∧ (∃ t, exec (.gsync d) s = .next t ∧ t.cur.status = .parked (.gwait d) ∧ t.cur.pcc = h.pcc ∧ t.cur.ap = h.ap + 1 ∧ t.cur.own = 0
        ∧ (∀ r : RegNum, t.reg r = s.reg r) ∧ sent t (.arrive h.ap (h.own ||| h.inh) h.isat)))
    ∧ (s.refusedRows s.turn = [] → h.lv + 1 ≠ h.ap →
      exec (.garr d) s = .next (s.setCur { h with past := true, status := .parked (.garr d false) })
      ∧ exec (.gsync d) s = .next (s.setCur { h with past := true, status := .parked (.garr d true) }))
    ∧ (h.lv + 1 = h.ap → ∃ t, exec (.gwait d) s = .next t ∧ t.cur.pcc = s.pccNext
        ∧ (d ≠ 0 → t.reg d = untagged (BitVec.ofNat 64 (h.lv.toNat + (if e.late then 2 ^ 32 else 0) + (if e.ovr then 2 ^ 33 else 0))))
        ∧ (∀ r : RegNum, r ≠ d → t.reg r = s.reg r)
        ∧ (h.lv ≠ 0 → t.cur.inh = h.inh ||| e.lsig ∧ t.cur.isat = (h.isat || e.lsat)))
    ∧ (h.lv + 1 ≠ h.ap → exec (.gwait d) s = .next (s.setCur { h with status := .parked (.gwait d) }))
    ∧ (∃ t, exec (.gexp a) s = .next t ∧ t.cur = { h with pcc := s.pccNext } ∧ sent t (.expect h.ap ((s.word a).extractLsb' 0 48)))
    ∧ Gives (.grank d 0) s d (h.grnk.zeroExtend 64) ∧ Gives (.grank d 1) s d (h.gsiz.zeroExtend 64)
    ∧ Gives (.grank d 2) s d (BitVec.ofNat 64 (s.turn.core % 64 + s.turn.slot * 2 ^ 8 + s.turn.core / 64 * 2 ^ 12))
    ∧ (∃ m lo : Nat, Gives (.grank d 3) s d (BitVec.ofNat 64 (m + lo * 2 ^ 16)) ∧ m = (s.mates s.turn).length ∧ lo ≤ 1023
        ∧ (∀ u ∈ s.mates s.turn, lo ≤ (s.thread u).grnk.toNat) ∧ (s.mates s.turn ≠ [] → ∃ u ∈ s.mates s.turn, (s.thread u).grnk.toNat = lo))
    ∧ Gives (.grank d 4) s d (h.lv ++ h.ap)
  ) ∧ (
  ∀ (s : State) (d a r : RegNum) (slot : Fin 15) (dir : Dir) (c : Nat),
    let h := s.cur
    let i := if (s.thread ⟨c, slot.val⟩).trail.isSome then slot.val - 7 else slot.val
    let u := s.thread ⟨c, i⟩
    s.Plain → h.spec = false → (∀ p, s.barrierOf s.turn = some p → ∀ e, Map.find (s.cluster p.1).bars p.2 = some e → e.broken = none) →
    (neighbour s.turn.core dir = none → Gives (.rput d a r slot dir) s d 1)
    ∧ (neighbour s.turn.core dir = some c → (s.core c).contained = false → u.live = true → u.task = h.task → h.task.isSome = true →
      ∃ t, exec (.rput d a r slot dir) s = .next t ∧ (t.core c).puts = (s.core c).puts ++ [⟨i, r, s.reg a, s.turn.core, false⟩]
        ∧ (d ≠ 0 → t.reg d = {}) ∧ (∀ q : RegNum, q ≠ d → t.reg q = s.reg q) ∧ t.cur.pcc = s.pccNext)
    ∧ (neighbour s.turn.core dir = some c → (s.core c).contained = false → ¬(u.live = true ∧ u.task = h.task ∧ h.task.isSome = true) →
      Gives (.rput d a r slot dir) s d 1)
    ∧ (neighbour s.turn.core dir = some c → (s.core c).contained = true → s.Traps → TakesTrap (.rput d a r slot dir) s ⟨.contained, c⟩)
    ∧ (h.presence.getLsbD d.val = true → ∃ t, exec (.rtake d) s = .next t ∧ t.cur = { h with absent := t.cur.absent, pcc := s.pccNext }
        ∧ ∀ q : RegNum, t.cur.presence.getLsbD q.val = (h.presence.getLsbD q.val && (q != d || q == 0)))
    ∧ (h.presence.getLsbD d.val = false → exec (.rtake d) s = .next (s.setCur { h with status := .parked (.rtake d) }))
    ∧ (∃ t, exec (.rpres d a) s = .next t ∧ (d ≠ 0 → t.reg d = untagged (h.presence.zeroExtend 64))
        ∧ (∀ q : RegNum, q ≠ d → t.reg q = s.reg q) ∧ t.cur.pcc = s.pccNext
        ∧ ∀ q : RegNum, t.cur.presence.getLsbD q.val
          = ((h.presence.getLsbD q.val || (q == d && d != 0)) && !((s.word a).getLsbD q.val && q != 0)))
  )

/-- R178, R180, R186, R188: the gang events. A barrier's cycle completes the open phase once every thread has arrived and every expected byte is counted, and
otherwise applies what has reached the unit; a wake gives the gang's thread its phase and lets a GWAIT of it go on; the leader's post reaches
a thread parked at its ELECT; a put is delivered to a live thread's register with its presence bit, in both threads of a redundant pair. -/
def Obligations.GangEvents : Prop :=
  ∀ (s : State) (u : Tid) (e : Barrier) (p : BitVec 32) (rest : List (BitVec 32)) (d : RegNum) (q : Post) (w : NPut) (puts : List NPut),
    let cl := s.ev.cluster
    let b := s.ev.entry
    let at_ := fun (t : State) => Map.find (t.cluster cl).bars b
    -- the ended threads that had not arrived at the open phase count as arrived (R176)
    let here := e.p1.arr + (e.gone.filter (fun ap => decide ((e.lc + 1 - ap).toNat < 2 ^ 31))).length
    (at_ s = some e → e.msgs = [] → here = e.width → e.p1.exp.toNat ≤ e.p1.cnt.toNat →
      ∃ t, exec .barrierCycle s = .next t ∧ at_ t = some { e with
        lsig := e.p1.sig, lsat := e.p1.sat || decide (384 < popcount e.p1.sig), ovr := decide (e.p1.exp.toNat < e.p1.cnt.toNat), late := e.pend
        pend := false, lc := e.lc + 1, p1 := e.p2, p2 := {}, wake := e.wake ++ [e.lc + 1] })
    ∧ (∀ g sat, at_ s = some e → e.msgs = [.arrive (e.lc + 1) g sat] → here ≠ e.width →
      ∃ t, exec .barrierCycle s = .next t ∧ at_ t = some { e with
        msgs := [], p1 := { e.p1 with arr := e.p1.arr + 1, sig := e.p1.sig ||| g, sat := e.p1.sat || sat } })
    ∧ (at_ s = some e → e.live = [u] → e.wake = p :: rest → (s.thread u).electing = none → (s.thread u).inFrame = false →
      (s.thread u).wait = some (.gwait d) → p + 1 = (s.thread u).ap →
      ∃ t, exec .barrierWake s = .next t ∧ (t.thread u).lv = p ∧ (t.thread u).status = .running
        ∧ (d ≠ 0 → (t.thread u).reg d
            = untagged (BitVec.ofNat 64 (p.toNat + (if e.late then 2 ^ 32 else 0) + (if e.ovr then 2 ^ 33 else 0))))
        ∧ at_ t = some { e with wake := rest })
    ∧ (s.ev.t = u → (s.thread u).wait = some .elect → s.barrierOf u = some (cl, b) → at_ s = some e → e.post = some q →
      q.inst = (s.thread u).electCount → u ∈ q.left →
      ∃ t, exec .electPostArrival s = .next t ∧ (t.thread u).status = .running ∧ (t.thread u).pcc.addr = ((s.thread u).pcc.addr + 8) % 2 ^ 64
        ∧ (t.thread u).electCount = (s.thread u).electCount + 1
        ∧ (∀ v, q.v = some v → (s.thread u).electReg ≠ 0 → (t.thread u).reg (s.thread u).electReg = v))
    ∧ ((s.core s.ev.core).puts = w :: puts → clusterOf w.src = clusterOf s.ev.core → (s.core s.ev.core).preempted = false →
      (s.core s.ev.core).resuming = false → (s.thread ⟨s.ev.core, w.slot⟩).status = .running → (s.thread ⟨s.ev.core, w.slot⟩).trail = none → w.t ≠ 0 →
      ∃ t, exec .rputDelivery s = .next t ∧ (t.core s.ev.core).puts = puts ∧ (t.thread ⟨s.ev.core, w.slot⟩).reg w.t = w.v
        ∧ (t.thread ⟨s.ev.core, w.slot⟩).presence.getLsbD w.t.val = true
        ∧ ((s.thread ⟨s.ev.core, w.slot⟩).dup = true → (s.thread ⟨s.ev.core, w.slot + 7⟩).trail.isSome = true →
          (t.thread ⟨s.ev.core, w.slot + 7⟩).reg w.t = w.v)
        ∧ ∀ r : RegNum, r ≠ w.t → (t.thread ⟨s.ev.core, w.slot⟩).reg r = (s.thread ⟨s.ev.core, w.slot⟩).reg r)

/-- R144, R147, R148, R168: the queue of a cluster. An arriving record takes a free entry and its sender, of the same cluster, goes on with status 0; a spilled block of one record returns from
memory to a queue of fewer than 1,024 entries; and a single-thread task at the frontier starts in a free slot: in user mode, at its virtual
time, with its three arguments in g2 to g4, every register outside g2 to g4 and g27 to g29 an untagged zero, every presence bit set, and its
acquire done.
The host holds none of the lines that the device reads for it (log entry 55).
R147, R151, R153, R155, R156, R159: the speculative engine. A probe has a cluster's later readers aborted; an abort frees the threads of its task, which is
queued again as a new run; a round samples the least virtual time of the unfinished tasks; its result commits the finished tasks
before that time; and the task of a thread that waits at an irrevocable action at the frontier turns non-speculative and goes on, or takes
the trap it held. -/
def Obligations.TaskUnitEvents : Prop :=
  (∀ (s : State) (f : FlyRec) (rest : List FlyRec) (dk k : Nat) (u : Tid) (d : RegNum) (wait : Bool) (hint : Nat) (e : TaskEntry) (b : SpillBlock)
      (r : TaskRec × VT × Option RunId),
      let cl := s.ev.cluster
      let c := s.cluster cl
      let queued := fun (t : State) => Map.find (t.cluster cl).queue k
      (c.flying = f :: rest → s.domainOf cl = some dk → f.issuer = some u → clusterOf u.core = cl → c.queue.length < 2048 →
        Map.firstFree c.queue 2048 = some k → (s.thread u).wait = some (.tenqSent d wait hint) → (s.thread u).electing = none →
        (s.thread u).inFrame = false →
        ∃ t, exec .taskRecordArrival s = .next t ∧ queued t = some f.entry ∧ (t.cluster cl).flying = rest ∧ (t.thread u).status = .running
          ∧ (t.thread u).reg d = {} ∧ (t.thread u).pcc = (s.thread u).pcc.withAddr (((s.thread u).pcc.addr + 4) % 2 ^ 64))
      ∧ (∀ v, c.blocks = [b] → b.recs = [r] → c.cancel = [] → c.queue.length < 1024 → Map.firstFree c.queue 2048 = some k →
        s.domainOf cl = some dk → s.domRead dk b.addr 4096 = some v → s.devNeeds dk b.addr 4096 false = s →
        ∃ t x, exec .taskRefill s = .next t ∧ (t.cluster cl).blocks = [] ∧ queued t = some x ∧ x.rcd.bytes = BitVec.ofNat 512 (v / 256 ^ 512)
          ∧ x.vt = ⟨BitVec.ofNat 64 (v / 256 ^ 512), BitVec.ofNat 64 (v / 256 ^ 64)⟩ ∧ x.parent = r.2.2 ∧ x.st = .queued)
      ∧ (s.domainOf cl = some dk → c.queue = [(k, e)] → e.st = .queued → c.aborts = [] → e.spec = false → e.width = 1 → e.dup = false →
        s.eligible dk e.vt = true → s.isLowest dk e.vt = true → s.pickSlots cl 1 false = some [u] →
        s.devNeeds dk (s.domain dk).ddesc.toNat 128 false = s →
        (s.loadDesc dk).devNeeds dk ((s.loadDesc dk).formatVa dk e.rcd) 16 false = s.loadDesc dk →
        (∀ x, (⟨cl, k, e.run.toNat⟩ : RunId) ∉ (s.cluster x).cancel) →
        ∃ t, exec .taskDispatch s = .next t
          ∧ (let h := t.thread u
            h.status = .running ∧ h.mode = false ∧ h.intrap = false ∧ h.spec = false ∧ h.vt = e.vt ∧ h.isat = true ∧ h.presence = BitVec.allOnes 32
            ∧ h.task = some ⟨cl, k, e.run.toNat⟩ ∧ h.domain = some dk
            ∧ (h.reg 2).val = e.rcd.bytes.extractLsb' 128 128 ∧ (h.reg 2).tag = e.rcd.tags.getLsbD 0
            ∧ (h.reg 3).val = e.rcd.bytes.extractLsb' 256 128 ∧ (h.reg 3).tag = e.rcd.tags.getLsbD 1
            ∧ (h.reg 4).val = e.rcd.bytes.extractLsb' 384 128 ∧ (h.reg 4).tag = e.rcd.tags.getLsbD 2
            ∧ ∀ q : RegNum, q ∉ ([2, 3, 4, 27, 28, 29] : List RegNum) → h.reg q = {})
          ∧ (queued t).map (fun x => (x.st, x.threads)) = some (.running, [u]))
  ) ∧ (
  ∀ (s : State) (dk k ce j : Nat) (u : Tid) (e : TaskEntry) (c : CommitEntry) (rec : LineRec) (id : RunId) (qs : List Nat) (r : Round) (v : VT)
      (tv : TrapVal) (epc : CReg),
      let cl := s.ev.cluster
      let h := s.thread u
      (s.clusters = [(cl, s.cluster cl)] → (s.cluster cl).lines = [(j, rec)] → rec.va / 64 = s.ev.line → rec.probe = some (id, ⟨s.ev.ts, s.ev.tb⟩, qs) →
        cl ∈ qs → (s.cluster cl).queue = [(k, e)] → e.spec = true → VT.lt ⟨s.ev.ts, s.ev.tb⟩ e.vt = true → e.commit = some ce →
        Map.find (s.cluster cl).commits ce = some c → c.reads s.ev.line = true → (s.cluster cl).aborts = [] →
        ∃ t, exec .ovfProbe s = .next t ∧ (t.cluster cl).aborts = [(k, .requeue)]
          ∧ (t.cluster cl).lines = [(j, { rec with probe := some (id, ⟨s.ev.ts, s.ev.tb⟩, qs.filter (· != cl)) })])
      ∧ (s.ev.entry = k → s.domainOf cl = some dk → (s.cluster cl).aborts = [(k, .requeue)] → (s.cluster cl).queue = [(k, e)] →
        e.threads = [u] → h.dup = false → e.commit = none → e.parent = none → (∀ x, (s.cluster x).lines = [] ∧ (s.cluster x).blocks = []) →
        (∀ x ∈ s.clusters, x.2.lineQueue = []) →
        ∃ t, exec .taskAbort s = .next t ∧ t.thread u = {} ∧ (t.cluster cl).aborts = []
          ∧ Map.find (t.cluster cl).queue k
            = some { e with st := .queued, run := e.run + 1, again := 1, threads := [], commit := none, bar := none })
      ∧ (s.ev.domain = dk → (Map.find s.domains dk).isSome = true →
        ∃ t x, exec .belvedereSample s = .next t ∧ (t.domain dk).sample = some x ∧ (t.domain dk).arrived = false
          ∧ (x.u = none → s.unfinished dk = [])
          ∧ ∀ w, x.u = some w → w ∈ s.unfinished dk ∧ ∀ z ∈ s.unfinished dk, VT.lt z w = false)
      ∧ (s.ev.domain = dk → (s.domain dk).sample = some r → r.u = some v → r.quiet = false → (s.domain dk).clusters = [cl] →
        (s.domain dk).ingressHead = none → (s.cluster cl).queue = [(k, e)] → e.st = .finished → e.commit = none → VT.lt e.vt v = true →
        (s.cluster cl).aborts = [] → (s.cluster cl).lines = [] → (s.cluster cl).faults = [] → (s.cluster cl).cancel = [] → (∀ x ∈ s.threads, ∀ f, x.2.wait ≠ some (.tenqHeld f)) →
        ∃ t, exec .roundResult s = .next t ∧ (t.cluster cl).queue = [] ∧ (t.domain dk).round = some r ∧ (t.domain dk).sample = none)
      ∧ (s.ev.t = u → h.spec = true → h.task = some id → h.domain = some dk → s.isLowest dk h.vt = true → s.taskOf id = some e →
        (∀ x ∈ (s.cluster id.cluster).aborts, x.1 ≠ id.entry) → h.inFrame = false → h.electing = none → s.hasPosted u = false →
        (h.wait = some .irrevocable → ∃ t, exec .irrevocablePass s = .next t ∧ (t.thread u).status = .running ∧ (t.thread u).spec = false
          ∧ (t.thread u).irv = true ∧ (t.thread u).isat = true ∧ (t.thread u).pcc = h.pcc ∧ (t.thread u).regs = h.regs
          ∧ t.taskOf id = some { e with spec := false, st := .running })
        ∧ (h.wait = some (.heldTrap tv epc) → h.intrap = false → u.slot ≠ 15 → ∃ t, exec .irrevocablePass s = .next t ∧ (t.thread u).spec = false
          ∧ (t.thread u).causeCode = BitVec.ofNat 6 tv.cause.code ∧ (t.thread u).tval = BitVec.ofNat 64 tv.tval ∧ (t.thread u).tepc = epc
          ∧ (t.thread u).pmode = h.mode ∧ (t.thread u).mode = true ∧ (t.thread u).intrap = true ∧ (t.thread u).status = .running)))

/-- R61, R93, R95, R112: the events of the caches. An instruction line from scratch enters the instruction cache and the slot that waits for it may issue; a line
of HBM that nothing holds up fills an L1 line with its 64 bytes, all valid and none dirty; a write-back of a page that already has DSS
set, in a domain without a snapshot, puts its dirty bytes, and no others, into HBM.
R86 to R91: the events of the banks. When the core's own request meets an omega request, the loser of the bank's previous conflict wins; a line port that
waited displaces the word requests; a remote access performs once it wins, and its thread goes on with the value; an outstanding `.rx`
load lands in its register, whose presence bit is set, and frees its entry.
R18, R100, R109, R150, R169, R330: the events on which parked threads go on. A load whose line has come completes (that a word counts in INSTRET when it first takes its position is log entry 10); an access that its home can serve now completes; a
thread that waited for a fault entry issues again once the entry is free, or once there is one or its page has one; a release that is acknowledged lets its
instruction issue again; a thread at TEND that nothing is owed to any more ends: its slot is idle, and the task it ran alone is finished. -/
def Obligations.CacheAndBankEvents : Prop :=
  (∀ (s : State) (u : Tid) (line o dk : Nat) (l : Loc) (e : TlbEntry) (w : WriteBack),
      let c := s.ev.core
      let k := s.core c
      let home := s.cluster l.home
      (s.ev.t = u → u.slot < 16 → (s.thread u).wait = some (.fetch line) → scratchOf (s.domainAt u.core) (line * 64) = some o →
        (s.domainAt u.core).holds (clusterOf (scratchCore o)) = true → (s.core (scratchCore o)).contained = false →
        ∃ t m, exec .instructionFill s = .next t ∧ Map.find (t.core u.core).icache line = some m
          ∧ m.data = BitVec.ofNat 512 (s.scratch.read (o / 64 * 64) 64)
          ∧ (t.thread u).status = .running ∧ (t.thread u).pcc = (s.thread u).pcc ∧ (t.thread u).regs = (s.thread u).regs)
      ∧ (s.ev.line = line → NatSet.has k.fills line = true → s.owes c line = false → k.l1 = [] → s.domainOfCore c = some dk →
        locate s (clusterOf c) dk (line * 64) { r := true } true = .at l e → l.space = .hbm → l.flat = false → s.invalidations = [] →
        s.withHome (clusterOf c) l.home = true → home.snoop = [] → home.lines = [] → home.lineQueue = [] →
        ∃ t m, exec .lineFill s = .next t ∧ Map.find (t.core c).l1 line = some m
          ∧ m.data = BitVec.ofNat 512 (s.hbm.read (l.addr / 64 * 64) 64) ∧ m.valid = BitVec.allOnes 64 ∧ m.dirty = 0
          ∧ NatSet.has (t.core c).fills line = false ∧ t.hbm = s.hbm)
      ∧ (k.wbq = [w] → s.owed c = [w] → w.l.pre = false → w.l.bad = 0 → s.domainOfCore c = some dk → s.hbm.wf → s.hbm.poison = [] →
        locate s (clusterOf c) dk (w.line * 64) { w := true } true = .at l e → l.space = .hbm → l.flat = false → l.home = clusterOf c → home.snoop = [] →
        home.lines = [] → home.lineQueue = [] → (s.domain e.dom).snap = none → pteDss (BitVec.ofNat 64 (s.hbm.read e.pteAddr 8)) = true →
        ∃ t, exec .writeBack s = .next t ∧ (t.core c).wbq = []
          ∧ (∀ j < 64, t.hbm.byte (l.addr + j) = if w.l.dirty.getLsbD j then w.l.data.extractLsb' (8 * j) 8 else s.hbm.byte (l.addr + j))
          ∧ (∀ a, a < l.addr ∨ l.addr + 64 ≤ a → t.hbm.byte a = s.hbm.byte a) ∧ t.scratch = s.scratch ∧ t.carved = s.carved ∧ t.host = s.host)
  ) ∧ (
  ∀ (s : State) (u : Tid) (r : Req) (d : RegNum) (o : Nat) (x : RxEntry),
      let k := s.core s.ev.target
      let bit := (1 : BitVec 8) <<< (s.ev.bank % 8)
      let h := s.thread u
      (s.ev.own = false → exec .omegaRequest s = .next s)
      ∧ (s.ev.own = true → k.omegaWins &&& bit = 0 → exec .omegaRequest s
          = .next (s.setCore s.ev.target { k with omegaWins := k.omegaWins ||| bit, omegaLost := k.omegaLost ||| bit }))
      ∧ (s.ev.own = true → k.omegaWins &&& bit ≠ 0 → exec .omegaRequest s
          = .next (s.setCore s.ev.target { k with omegaWins := k.omegaWins &&& ~~~bit, ownLost := k.ownLost ||| bit }))
      ∧ (∃ t, exec .linePortPriority s = .next t ∧ (t.core s.ev.core).ownLost = (s.core s.ev.core).ownLost ||| bit
          ∧ (t.core s.ev.core).omegaLost = (s.core s.ev.core).omegaLost ||| bit ∧ t.threads = s.threads)
      ∧ (s.ev.t = u → h.wait = some (.mesh r) → r.op = .load d 8 true → scratchOf (s.domainAt u.core) r.x = some o →
        clusterOf (scratchCore o) = clusterOf u.core → (s.core (scratchCore o)).ownLost = 0 → (s.core (scratchCore o)).omegaLost = 0 →
        s.Sound o 8 → h.electing = none → h.inFrame = false →
        ∃ t, exec .meshScratchRequest s = .next t ∧ (t.thread u).status = .running
          ∧ (d ≠ 0 → (t.thread u).reg d = untagged (BitVec.ofNat 64 (s.scratch.read o 8)))
          ∧ (∀ q : RegNum, q ≠ d → (t.thread u).reg q = h.reg q) ∧ (t.thread u).pcc = h.pcc.withAddr ((h.pcc.addr + 4) % 2 ^ 64) ∧ t.scratch = s.scratch)
      ∧ (s.ev.t = u → s.ev.k = 0 → h.rx = [x] → x.r.op = .load d 8 true → scratchOf (s.domainAt u.core) x.r.x = some o →
        clusterOf (scratchCore o) = clusterOf u.core → s.Sound o 8 → d ≠ 0 → h.electRx = none → (∀ q, h.wait ≠ some (.rtake q)) →
        ∃ t, exec .rxAccessPerform s = .next t ∧ (t.thread u).rx = [] ∧ (t.thread u).reg d = untagged (BitVec.ofNat 64 (s.scratch.read o 8))
          ∧ (t.thread u).presence.getLsbD d.val = true ∧ (∀ q : RegNum, q ≠ d → (t.thread u).reg q = h.reg q)
          ∧ (t.thread u).pcc = h.pcc ∧ (t.thread u).status = h.status)
  ) ∧ (
  ∀ (s : State) (u : Tid) (r : Req) (d : RegNum) (cl k dk : Nat) (l : Loc) (e : TlbEntry) (m : L1Line) (id : RunId) (q : TaskEntry),
      let h := s.thread u
      let loaded := fun (i : Instr) (v : Nat) => ∃ t, exec i s = .next t ∧ (t.thread u).status = .running
        ∧ (d ≠ 0 → (t.thread u).reg d = untagged (BitVec.ofNat 64 v)) ∧ (∀ q : RegNum, q ≠ d → (t.thread u).reg q = h.reg q)
        ∧ (t.thread u).pcc = h.pcc.withAddr ((h.pcc.addr + 4) % 2 ^ 64)
      let again := fun (i : Instr) => exec i s = .next (s.setThread u { h with
        status := .running, instret := h.instret - 1, lihhNow := h.lihhPrev })
      s.ev.t = u → h.electing = none → h.inFrame = false →
      (h.wait = some (.load r) → r.op = .load d 8 true → Map.find (s.core u.core).l1 (r.x / 64) = some m → m.valid = BitVec.allOnes 64 →
        m.poison = 0 → r.x % 8 = 0 → loaded .dataArrival ((m.data.extractLsb' (8 * (r.x % 64)) 64).toNat))
      ∧ (h.spec = false → s.domainOfCore u.core = some dk → (s.core u.core).l1 = [] → s.owed u.core = [] → s.hasPosted u = false →
        locate s (clusterOf u.core) dk r.x { r := true } r.permD = .at l e → l.space = .hbm → l.flat = false → l.home = clusterOf u.core → s.invalidations = [] →
        (s.cluster l.home).snoop = [] → (s.cluster l.home).lines = [] → (s.cluster l.home).lineQueue = [] → s.hbm.poison = [] →
        (h.wait = some (.home r) → r.op = .load d 8 true → loaded .homeSpeculativeAccess (s.hbm.read l.addr 8))
        ∧ (h.wait = some (.waiterFull r) → r.op = .ldf d → s.hbm.isFull l.addr = true → loaded .feWaiterResend (s.hbm.read l.addr 8)))
      ∧ (h.wait = some (.fault cl k) → (∀ f, Map.find (s.cluster cl).faults k = some f → u ∉ f.waiters) → again .wakeMessage)
      ∧ (∀ x, h.wait = some (.faultFull x) → (Map.firstFree (s.cluster (clusterOf u.core)).faults 64).isSome = true
          ∨ (∃ j, s.domainOfCore u.core = some j ∧ (s.faultOf (clusterOf u.core) j x).isSome = true) → again .faultEntryRetry)
      ∧ (s.ev.peer = false → s.invalidations = [] → h.wait = some (.release .again) → s.released u = true → again .homeAcknowledgement)
      ∧ (s.ev.peer = false → h.wait = some (.tendAcks false) → s.tendLeave u = s → s.streaming u = false → s.quiet u = true → (s.core u.core).joins = [] → h.rx = [] →
        s.refusedRows u = [] → (s.core u.core).outbox = [] → h.matrixPoison = none → h.dup = false → h.task = some id → s.taskOf id = some q →
        q.threads = [u] → q.bar = none → q.detached = false →
        ∃ t, exec .homeAcknowledgement s = .next t ∧ t.thread u = {} ∧ t.taskOf id = some { q with st := .finished, threads := [], bar := none }))

/-- R285, R286: XFER, XFERB, GETX and PUTX. A malformed descriptor gives 2 and nothing else. A well-formed request whose operands pass their checks and
whose tiles are in the states of Table 13-1 enters the command FIFO with 0, as the last of at most 16: a copy, plain, strided or multicast, between
memory operands or tiles; a GETX or PUTX with its ready index tile. With a full FIFO XFERB gives 1 and the others park. A source tile drains from
then on, a destination tile fills, an index tile is held, and the other tiles stay. Every form first does the release of R109, which here owes
nothing; a request counted in a gang phase needs the gang's barrier entry, which is there. -/
def Obligations.TransferRequests : Prop :=
  ∀ (s : State) (d a b e : RegNum),
    let w0 := s.word e
    let w3 := hi64 (s.reg e).val
    let srcN := extentOf w0 w3 (wfld w0 32 16 * 16)
    let dstN := extentOf w0 w3 (wfld w0 48 16 * 16)
    let k := s.ownCore
    let tileOf := fun (r : RegNum) => (Fin.ofNat 32 (s.word r).toNat : TileNum)
    let ready := fun (tl : TileNum) (n : Nat) => ∃ x, k.tile tl = some x ∧ x.st = .ready ∧ x.pt = false ∧ n ≤ x.len
    let fillable := fun (tl : TileNum) (n : Nat) => ∃ x, k.tile tl = some x ∧ (x.st = .empty ∨ x.st = .filling) ∧ x.nfill < 15 ∧ x.pt = false ∧ n ≤ x.len
    let entered := fun (i : Instr) (kind : XKind) (src dst idx : Option TileNum) (bytes : Nat) => ∃ t q, exec i s = .next t
      ∧ t.ownCore.fifo = k.fifo ++ [q] ∧ q.kind = kind ∧ q.w0 = w0 ∧ q.w3 = w3 ∧ q.srcTile = src ∧ q.dstTile = dst ∧ q.idxTile = idx
      ∧ q.src = s.reg a ∧ q.dst = s.reg b ∧ q.issuer = s.turn ∧ q.ap = s.cur.ap ∧ q.sent = 0 ∧ q.live = 0
      ∧ (∀ tl, src = some tl → ∃ y, t.ownCore.tile tl = some y ∧ y.st = .draining ∧ y.keep = w0.getLsbD 8)
      ∧ (∀ tl x, dst = some tl → k.tile tl = some x → ∃ y, t.ownCore.tile tl = some y ∧ y.st = .filling ∧ y.nfill = x.nfill + 1
          ∧ y.pending = x.pending + bytes)
      ∧ (∀ tl x, idx = some tl → k.tile tl = some x → ∃ y, t.ownCore.tile tl = some y ∧ y.hold = x.hold + 1)
      ∧ (∀ tl, src ≠ some tl → dst ≠ some tl → idx ≠ some tl → t.ownCore.tile tl = k.tile tl)
      ∧ (d ≠ 0 → t.reg d = {}) ∧ (∀ r : RegNum, r ≠ d → t.reg r = s.reg r) ∧ t.cur.pcc = s.pccNext ∧ t.scratch = s.scratch ∧ t.hbm = s.hbm
    let enters := fun (i : Instr) (kind : XKind) (src dst idx : Option TileNum) (bytes : Nat) =>
      (k.fifo.length < 16 → entered i kind src dst idx bytes) ∧ (16 ≤ k.fifo.length → exec i s = .next (s.park .fifoFull))
    s.Plain → s.Drained → s.cur.spec = false → s.released s.turn = true →
    (badCopy w0 w3 = true → Gives (.xfer d a b e) s d 2 ∧ Gives (.xferb d a b e) s d 2)
    ∧ (badIndexed false w0 w3 = true → Gives (.getx d a b e) s d 2) ∧ (badIndexed true w0 w3 = true → Gives (.putx d a b e) s d 2)
    ∧ ((xCk w3 = 2 → (s.barrierOf s.turn).isSome = true) →
      (badCopy w0 w3 = false →
        (if xStile w0 then ready (tileOf a) srcN else s.checkEnd a (some srcN) [permL] = none) →
        (if xDtile w0 then fillable (tileOf b) dstN else xOp w0 = 2 ∨ (s.checkEnd b (some dstN) [permS] = none ∧ s.checkContained b dstN = none)) →
        let src := if xStile w0 then some (tileOf a) else none
        let dst := if xDtile w0 then some (tileOf b) else none
        let kind : XKind := if xOp w0 = 1 then .strided else if xOp w0 = 2 then .multicast else .copy
        let bytes := if xOp w0 = 1 then xRows w0 * xLen w3 else xLen w3
        enters (.xfer d a b e) kind src dst none bytes
        ∧ (k.fifo.length < 16 → entered (.xferb d a b e) kind src dst none bytes) ∧ (16 ≤ k.fifo.length → Gives (.xferb d a b e) s d 1))
      ∧ (let ix : TileNum := Fin.ofNat 32 (wfld w0 16 5)
        ready ix (xLen w3 / xElem w0 * xIndex w0) →
        (badIndexed false w0 w3 = false → s.checkEnd a none [permL, permN] = none →
          (if xDtile w0 then fillable (tileOf b) (xLen w3) else s.checkEnd b (some (xLen w3)) [permS] = none ∧ s.checkContained b (xLen w3) = none) →
          enters (.getx d a b e) .getx none (if xDtile w0 then some (tileOf b) else none) (some ix) (xLen w3))
        ∧ (badIndexed true w0 w3 = false → s.checkEnd b none [permS, permN] = none → s.checkContained b 0 = none →
          (if xStile w0 then ready (tileOf a) (xLen w3) else s.checkEnd a (some (xLen w3)) [permL] = none) →
          enters (.putx d a b e) .putx (if xStile w0 then some (tileOf a) else none) none (some ix) (xLen w3))))

/-- R291, R292: CWAIT of a counter that has reached its threshold, modulo 2^48, returns the count and takes the signature it holds; it parks before that. CRD returns the
count, and clears it when asked. LHND loads the capability of handlers 1 to 7 after the checks of tag, seal and X.
R280, R282, R283: the tile instructions, where no instruction of the core waits for a tile. TLDEF of an undefined or idle tile number with a region of its own
cluster defines it, empty or ready; TLST gives the status word, zero for an undefined tile, and in its other modes sets an empty or ready tile
ready, or, once it is not held, empty, and gives its new status word; TLREL of an idle tile undefines it. An undefined tile raises TILE where
one is needed. -/
def Obligations.CountersAndTiles : Prop :=
  (∀ (s : State) (d a : RegNum) (cc : Fin 8) (clr : Bool) (k : Fin 7),
      let c := s.cur.counter cc
      let taken := fun (i : Instr) (clr : Bool) => ∃ t, exec i s = .next t ∧ (d ≠ 0 → t.reg d = untagged (c.cnt.zeroExtend 64))
        ∧ (∀ r : RegNum, r ≠ d → t.reg r = s.reg r) ∧ t.cur.pcc = s.pccNext
        ∧ t.cur.counter cc = { cnt := if clr then 0 else c.cnt } ∧ (∀ j, j ≠ cc → t.cur.counter j = s.cur.counter j)
        ∧ t.cur.inh = s.cur.inh ||| c.sig ∧ t.cur.isat = (s.cur.isat || c.sat)
      s.Plain → s.Drained → s.cur.spec = false →
      ((c.cnt - (s.word a).extractLsb' 0 48).toNat < 2 ^ 47 → taken (.cwait d cc a) false)
      ∧ (2 ^ 47 ≤ (c.cnt - (s.word a).extractLsb' 0 48).toNat →
          exec (.cwait d cc a) s = .next (s.setCur { s.cur with status := .parked (.cwait d cc ((s.word a).extractLsb' 0 48)) }))
      ∧ taken (.crd d cc clr) clr
      ∧ ((s.reg a).tag = true → (s.reg a).otype = 0 ∨ (s.reg a).otype = 15 → (s.reg a).has permX = true →
          ∃ t, exec (.lhnd a k) s = .next t ∧ Map.get {} t.ownCore.handlers (k.val + 1) = s.reg a
            ∧ (∀ j, j ≠ k.val + 1 → Map.get {} t.ownCore.handlers j = Map.get {} s.ownCore.handlers j)
            ∧ t.cur = { s.cur with pcc := s.pccNext })
  ) ∧ (
  ∀ (s : State) (d a b : RegNum) (tl : TileNum) (rdy : Bool) (x : Tile) (o : Nat),
      let c := s.reg a
      let n := (s.word b).toNat
      let k := s.ownCore
      let goesOn := fun (t : State) => t.cur.pcc = s.pccNext ∧ t.cur.status = s.cur.status ∧ t.scratch = s.scratch
      -- no instruction waits for a tile, so PT of each tile says whether a drain of it waits, for a hold that is not its own (R282)
      let alone := ∀ u : Tid, u.core = s.turn.core → ∀ op, (s.thread u).wait ≠ some (.tile op)
      let kept := fun (t : State) (j : TileNum) => t.ownCore.tile j = (k.tile j).map (fun y => { y with pt := y.st == .draining && k.heldBy j.val y != 0 })
      s.Plain → s.Drained → s.cur.spec = false →
      (alone → (∀ y, k.tile tl = some y → y.hold = 0 ∧ y.nfill = 0 ∧ y.st ≠ .draining) →
        c.tag = true → c.otype = 0 → c.has permL = true → c.has permS = true → c.base ≤ c.addr → c.addr + n ≤ c.top →
        c.addr % 64 = 0 → n % 64 = 0 → 64 ≤ n → n ≤ 65536 → scratchOf (s.domainAt s.turn.core) c.addr = some o →
        clusterOf (scratchCore o) = clusterOf s.turn.core → o % 2 ^ 21 + n ≤ 2 ^ 21 →
        ∃ t y, exec (.tldef tl a b rdy) s = .next t ∧ t.ownCore.tile tl = some y ∧ y.len = n ∧ t.ownCore.tileOff y = o % 2 ^ 21
          ∧ y.st = (if rdy then .ready else .empty) ∧ y.hold = 0 ∧ y.nfill = 0 ∧ y.pt = false ∧ goesOn t ∧ (∀ r : RegNum, t.reg r = s.reg r)
          ∧ ∀ j, j ≠ tl → kept t j)
      ∧ (k.tile tl = none → Gives (.tlstQuery d tl) s d 0)
      ∧ (k.tile tl = some x → ∃ v, Gives (.tlstQuery d tl) s d (BitVec.ofNat 64 v) ∧ v % 4 = x.st.code ∧ v / 4 % 2 = 1
          ∧ (x.hold ≤ 255 → x.nfill < 16 → v / 8 % 2 = (if x.pt then 1 else 0) ∧ v / 16 % 16 = x.nfill ∧ v / 256 % 256 = x.hold
            ∧ v / 2 ^ 16 % 2 ^ 21 = k.tileOff x ∧ v / 2 ^ 37 = x.len / 64 - 1))
      ∧ (alone → k.tile tl = some x →
        (∀ p ∈ [(Instr.tlstReady d tl, TileState.ready), (.tlstEmpty d tl, .empty)], x.st = .empty ∨ x.st = .ready → p.2 = .ready ∨ x.hold = 0 →
          ∃ t y, exec p.1 s = .next t ∧ t.ownCore.tile tl = some y ∧ y.st = p.2 ∧ y.pt = false ∧ y.rel = x.rel ∧ y.len = x.len ∧ y.hold = x.hold
            ∧ y.nfill = x.nfill ∧ (d ≠ 0 → t.reg d = untagged (t.ownCore.tileStatus tl)) ∧ goesOn t ∧ (∀ r : RegNum, r ≠ d → t.reg r = s.reg r)
            ∧ ∀ j, j ≠ tl → kept t j)
        ∧ (x.hold = 0 → x.nfill = 0 → x.st ≠ .draining → ∃ t, exec (.tlrel tl) s = .next t ∧ t.ownCore.tile tl = none ∧ (∀ j, j ≠ tl → kept t j)
            ∧ goesOn t ∧ ∀ r : RegNum, t.reg r = s.reg r))
      ∧ (k.tile tl = none → s.Traps →
        ∀ i ∈ [Instr.tlstReady d tl, .tlstEmpty d tl, .tlrel tl], TakesTrap i s ⟨.tile, tl.val⟩))

/-- R287 to R289, R293, R294: the events of a copy. The engine takes the oldest request of the FIFO; a source read from scratch makes one chunk of at most 128 bytes that ends at
a 128-byte boundary of its destination; a chunk arrives in the landing buffer, or is diverted by a pre-empted core and redelivered
later; handler 0 stores it, another handler starts in slot 15 with it; the request completes when its chunks have ended. -/
def Obligations.TransferEvents : Prop :=
  ∀ (s : State) (q : XReq) (rest : List XReq) (ch : Chunk) (chs : List Chunk) (o o2 : Nat) (sp : List Spilled),
    let c := s.ev.core
    let k := s.core c
    (k.fifo = q :: rest → k.inflight = [] → 0 < q.total → ∃ t, exec .transferStart s = .next t ∧ (t.core c).fifo = rest
        ∧ (t.core c).inflight = [(2, q)])
    ∧ (let src := (q.src.addr + q.sent) % 2 ^ 64
      let dst := (q.dst.addr + q.sent) % 2 ^ 64
      let n := min (xLen q.w3 - q.sent) (128 - dst % 128)
      s.ev.k = 2 → k.inflight = [(2, q)] → q.kind = .copy → q.srcTile = none → q.dstTile = none → q.idxTile = none → q.ended = false → q.sent < xLen q.w3 →
      scratchOf (s.domainAt c) src = some o → scratchCore (o + n - 1) = scratchCore o → (s.domainAt c).holds (clusterOf (scratchCore o)) = true →
      (s.core (scratchCore o)).contained = false → scratchOf (s.domainAt c) dst = some o2 → s.scratch.poison = [] →
      s.withHome (clusterOf c) (clusterOf (scratchCore o)) = true →
      ∃ t x, exec .transferSourceRead s = .next t ∧ (t.core (scratchCore o2)).incoming = (s.core (scratchCore o2)).incoming ++ [x]
        ∧ x.n = n ∧ x.bytes = BitVec.ofNat 1024 (s.scratch.read o n) ∧ x.dst.val = (q.dst.withAddr dst).val
        ∧ (x.dst.tag = true ↔ q.dst.tag = true ∧ x.dst.base = q.dst.base ∧ x.dst.len = q.dst.len) ∧ x.off = q.sent ∧ x.poison = 0
        ∧ x.n ≤ 128 ∧ dst / 128 = (dst + x.n - 1) / 128 ∧ t.scratch = s.scratch
        ∧ ∃ r, Map.find (t.core c).inflight 2 = some r ∧ r.sent = q.sent + n ∧ r.live = q.live + 1)
    ∧ (s.ev.k = 0 → k.incoming = ch :: chs → clusterOf ch.owner.core = clusterOf c → k.contained = false → ch.sub = none →
      k.landing.length + k.running.toList.length < 32 → k.diverted = [] →
      (k.preempted = false → ∃ t, exec .chunkArrival s = .next t ∧ (t.core c).landing = k.landing ++ [ch] ∧ (t.core c).incoming = chs)
      -- the host holds none of the lines that the spill queue's entry is written to (log entry 55)
      ∧ (let s0 := s.setCore c { k with incoming := chs }
        k.preempted = true → (∀ dk, s.domainOfCore c = some dk → (s0.devWrite dk (s0.spillPlace c) 256 (freeBytes s.freeCount 256)).needs = s.needs) →
        ∃ t, exec .chunkArrival s = .next t ∧ (t.core c).diverted = [.chunk ch] ∧ (t.core c).incoming = chs
          ∧ (t.core c).spillAt = (k.spillAt + 1) % spillRoom))
    ∧ (k.diverted = .chunk ch :: sp → k.preempted = false → k.landing.length + k.running.toList.length < 32 →
      ∃ t, exec .chunkRedelivery s = .next t ∧ (t.core c).landing = k.landing ++ [ch] ∧ (t.core c).diverted = sp)
    ∧ (k.running = none → k.preempted = false → k.quiescing = false → k.contained = false → (s.thread ⟨c, 15⟩).rx = [] → k.landing = ch :: chs → ch.poison = 0 →
      (ch.hnd = 0 → ch.dst.tag = true → ch.dst.otype = 0 → ch.dst.has permS = true → ch.dst.base ≤ ch.dst.addr → ch.dst.addr + ch.n ≤ ch.dst.top →
        scratchOf (s.domainAt c) ch.dst.addr = some o → (s.domainAt c).holds (clusterOf (scratchCore o)) = true → (s.core (scratchCore o)).contained = false →
        s.uncopied o = false → s.uncopied (o + ch.n - 1) = false → s.scratch.wf →
        s.scratch.poison = [] → 0 < ch.n → ch.n ≤ 128 →
        ∃ t, exec .landingHandlerStart s = .next t ∧ t.scratch.read o ch.n = ch.bytes.toNat % 256 ^ ch.n
          ∧ (∀ a, a < o ∨ o + ch.n ≤ a → t.scratch.byte a = s.scratch.byte a) ∧ (t.core c).landing = chs)
      ∧ (ch.hnd ≠ 0 → (Map.get {} k.handlers ch.hnd.toNat).tag = true →
        ∃ t, exec .landingHandlerStart s = .next t ∧ (t.core c).running = some ch ∧ (t.core c).landing = chs
          ∧ (t.thread ⟨c, 15⟩).status = .running ∧ (t.thread ⟨c, 15⟩).reg 2 = ch.dst
          ∧ (t.thread ⟨c, 15⟩).pcc.addr = (Map.get {} k.handlers ch.hnd.toNat).addr))
    ∧ (k.running = some ch → ∃ t, exec .handlerTimeout s = .next t ∧ (t.core c).running = none ∧ (t.thread ⟨c, 15⟩).status = .idle)
    ∧ (k.running = some ch → s.turn = ⟨c, 15⟩ → s.Drained → ∃ t, exec .lret s = .next t ∧ (t.core c).running = none ∧ (t.thread ⟨c, 15⟩).status = .idle)
    ∧ (s.Traps → TakesTrap .lret s ⟨.undef, 0xB00001C0⟩)
    ∧ (s.ev.k = 2 → k.inflight = [(2, q)] → q.kind = .copy → q.ended = true → q.live = 0 → q.dstTile = none → xCk q.w3 = 1 →
      q.parts = [] → s.peerWrites c 2 = false → s.landed q.lands = true → (∀ r j th, (s.thread q.issuer).wait ≠ some (.cwait r j th)) →
      ∃ t, exec .transferCompletion s = .next t ∧ (t.core c).inflight = []
        ∧ ((t.thread q.issuer).counter (xCc q.w3)).cnt = ((s.thread q.issuer).counter (xCc q.w3)).cnt + BitVec.ofNat 48 q.got
        ∧ ((t.thread q.issuer).counter (xCc q.w3)).sig = ((s.thread q.issuer).counter (xCc q.w3)).sig ||| q.sig)

/-- R296 to R298: subscriptions and streams. SUBJ gives 3 for a malformed word, 2 for a tag already joined and 1 for a full table, and otherwise joins and parks; SUBL leaves or
gives 1. SOPN of a port in use gives 2, of a free one parks for a route; SSND sends one chunk of 1 to 128 bytes, or gives 1 on a closed port (that nothing else is checked there, and another count, follow log entry 28);
SCLS closes an open port with 0 and gives 1 for another. The root acknowledges joins, and sends a multicast to the cores joined then. -/
def Obligations.StreamsAndMulticast : Prop :=
  ∀ (s : State) (d a b : RegNum) (p : Bool) (v : Port) (o dk : Nat) (u : Tid) (j : Join) (q : XReq) (cap : CReg) (w : Word),
    let k := s.ownCore
    let x := s.word b
    let tag : BitVec 8 := x.extractLsb' 0 8
    let c := s.reg a
    let h := s.thread u
    (s.Plain → s.Drained → s.cur.spec = false →
      (c.tag = true → c.otype = 0 → c.has permS = true → c.has permN = true →
        (x.toNat / 2 ^ 16 ≠ 0 ∨ (x.toNat / 2 ^ 11 % 4 ≠ 1 ∧ x.toNat / 2 ^ 11 % 4 ≠ 3) → Gives (.subj d a b) s d 3)
        ∧ (x.toNat / 2 ^ 16 = 0 → x.toNat / 2 ^ 11 % 4 = 1 ∨ x.toNat / 2 ^ 11 % 4 = 3 →
          ((∃ y ∈ k.subs, y.tag = tag) → Gives (.subj d a b) s d 2)
          ∧ ((∀ y ∈ k.subs, y.tag ≠ tag) → 16 ≤ k.subs.length → Gives (.subj d a b) s d 1)
          ∧ ((∀ y ∈ k.subs, y.tag ≠ tag) → k.subs.length < 16 → ∃ t y, exec (.subj d a b) s = .next t
              ∧ t.cur = { s.cur with status := .parked (.join d) } ∧ t.ownCore.subs = k.subs ++ [y] ∧ y.tag = tag ∧ y.dst = c
              ∧ y.owner = s.turn ∧ t.ownCore.joins = k.joins ++ [⟨tag.toNat, true, s.turn⟩])))
      ∧ ((∀ y ∈ k.subs, y.tag ≠ tag) → Gives (.subl d b) s d 1)
      ∧ ((∃ y ∈ k.subs, y.tag = tag) → ∃ t, exec (.subl d b) s = .next t ∧ t.cur = { s.cur with status := .parked (.join d) }
          ∧ (∀ y ∈ t.ownCore.subs, y.tag ≠ tag) ∧ t.ownCore.joins = k.joins ++ [⟨tag.toNat, false, s.turn⟩])
      ∧ (c.tag = true → c.otype = 0 → c.has permS = true → c.has permN = true → scratchOf (s.domainAt s.turn.core) c.addr = some o →
        scratchCore o ≠ s.turn.core → (s.domainAt s.turn.core).holds (clusterOf (scratchCore o)) = true → (s.core (scratchCore o)).contained = false →
        (x.toNat / 2 ^ 9 ≠ 0 ∨ x.toNat / 2 ^ 4 % 4 = 0 → Gives (.sopn d a b) s d 3)
        ∧ (x.toNat / 2 ^ 9 = 0 → x.toNat / 2 ^ 4 % 4 ≠ 0 →
          (k.port (x.getLsbD 0) = none → exec (.sopn d a b) s = .next (s.setCur { s.cur with status := .parked (.stream d c x) }))
          ∧ (k.port (x.getLsbD 0) = some v → v.closing = false → Gives (.sopn d a b) s d 2)))
      ∧ (k.port p = none → Gives (.ssnd d p a b) s d 1 ∧ Gives (.scls d p) s d 1)
      ∧ (k.port p = some v → v.closing = true → Gives (.ssnd d p a b) s d 1 ∧ Gives (.scls d p) s d 1)
      ∧ (k.port p = some v → v.closing = false → v.ck ≠ 2 ∨ (s.barrierOf s.turn).isSome = true → ∃ t, exec (.scls d p) s = .next t
          ∧ t.ownCore.port p = some { v with closing := true, ap := s.cur.ap } ∧ (d ≠ 0 → t.reg d = {}) ∧ t.cur.pcc = s.pccNext)
      ∧ (let n := x.toNat % 256
        k.port p = some v → v.closing = false → v.core ≠ s.turn.core → 1 ≤ n → n ≤ 128 → c.tag = true → c.otype = 0 → c.has permL = true →
        c.base ≤ c.addr → c.addr + n ≤ c.top → v.dst.base ≤ v.dst.addr + v.off → v.dst.addr + v.off + n ≤ v.dst.top →
        scratchOf (s.domainAt s.turn.core) c.addr = some o → (s.domainAt s.turn.core).holds (clusterOf (scratchCore o)) = true →
        (s.core (scratchCore o)).contained = false → scratchCore (o + n - 1) = scratchCore o → s.scratch.poison = [] →
        ∃ t y, exec (.ssnd d p a b) s = .next t ∧ (t.core v.core).incoming = (s.core v.core).incoming ++ [y] ∧ y.n = n
          ∧ y.bytes = BitVec.ofNat 1024 (s.scratch.read o n) ∧ y.off = v.off ∧ y.owner = .stream s.turn.core p
          ∧ (d ≠ 0 → t.reg d = {}) ∧ t.cur.pcc = s.pccNext
          ∧ ∃ z, t.ownCore.port p = some z ∧ z.off = v.off + n ∧ z.live = v.live + 1))
    ∧ (let k := s.core s.ev.core
      k.joins = [j] → j.tag = s.ev.tag → j.join = s.ev.join → s.domainOfCore s.ev.core = some dk →
      ∃ t, exec .multicastJoin s = .next t ∧ (t.core s.ev.core).joins = []
        ∧ NatSet.has (Map.get [] (t.domain dk).joined s.ev.tag) s.ev.core = s.ev.join)
    ∧ (s.ev.k = 2 → (s.core s.ev.core).inflight = [(2, q)] → q.kind = .multicast → q.targets = none →
      ∃ t, exec .multicastSend s = .next t ∧ (t.core s.ev.core).inflight
        = [(2, { q with targets := some (Map.get [] (s.domainAt s.ev.core).joined (q.dst.val.toNat % 256)) })])
    ∧ (s.ev.t = u → h.wait = some (.stream d cap w) → h.electing = none → h.inFrame = false →
      (∃ t, exec .streamRouteTimeout s = .next t ∧ (t.thread u).status = .running ∧ (d ≠ 0 → (t.thread u).reg d = untagged 1)
        ∧ (t.thread u).pcc = h.pcc.withAddr ((h.pcc.addr + 4) % 2 ^ 64))
      ∧ ((s.core u.core).port (w.getLsbD 0) = none → scratchOf (s.domainAt u.core) cap.addr = some o →
        s.routeFree (clusterOf u.core) (clusterOf (scratchCore o)) = true →
        ∃ t y, exec .streamRouteHeld s = .next t ∧ (t.thread u).status = .running ∧ (d ≠ 0 → (t.thread u).reg d = {})
          ∧ (t.core u.core).port (w.getLsbD 0) = some y ∧ y.dst = cap ∧ y.core = scratchCore o ∧ y.owner = u ∧ y.off = 0))

/-- R221 to R227: the vector instructions on integer lanes, and those on all 128 bits. x, y and z are the lanes of a, b and c, read as natural values,
and sx, sy their signed values; no flag is set. Saturation clamps the exact result to the range of the mode. -/
def Obligations.IntegerLanes : Prop :=
  ∀ (s : State) (d a b c : RegNum) (t : VType) (nat : Bool) (p : Pred) (l : Fin 32), s.Plain →
    let w := laneWidth t
    let n := t.lanes
    let x := lane (s.reg a).val w
    let y := lane (s.reg b).val w
    let z := lane (s.reg c).val w
    let sx := fun k => (BitVec.ofNat w (x k)).toInt
    let sy := fun k => (BitVec.ofNat w (y k)).toInt
    let yields := fun (i : Instr) (r : Nat → Nat) => GivesLanes i s d w n r 0
    let clamped := fun (i : Instr) (v : Nat → Int) => ∃ r, yields i r
      ∧ ∀ k < n, (BitVec.ofNat w (r k)).toInt = max (-2 ^ (w - 1)) (min (2 ^ (w - 1) - 1) (v k))
    let le := fun (u v : Nat) => if nat then u ≤ v else (BitVec.ofNat w u).toInt ≤ (BitVec.ofNat w v).toInt
    (t.isFloat = false →
      yields (.vadd d a b t .wrap) (fun k => (x k + y k) % 2 ^ w) ∧ yields (.vsub d a b t .wrap) (fun k => (x k + 2 ^ w - y k) % 2 ^ w)
      ∧ yields (.vmul d a b t .wrap) (fun k => x k * y k % 2 ^ w)
      ∧ yields (.vadd d a b t .satN) (fun k => min (2 ^ w - 1) (x k + y k)) ∧ yields (.vsub d a b t .satN) (fun k => x k - y k)
      ∧ yields (.vmul d a b t .satN) (fun k => min (2 ^ w - 1) (x k * y k))
      ∧ clamped (.vadd d a b t .satS) (fun k => sx k + sy k) ∧ clamped (.vsub d a b t .satS) (fun k => sx k - sy k)
      ∧ clamped (.vmul d a b t .satS) (fun k => sx k * sy k)
      ∧ yields (.vfma d a b c t) (fun k => (x k * y k + z k) % 2 ^ w) ∧ yields (.vfms d a b c t) (fun k => (x k * y k + 2 ^ w - z k) % 2 ^ w)
      ∧ yields (.vabs d a t nat) (fun k => if nat then x k else (sx k).natAbs) ∧ yields (.vneg d a t nat) (fun k => (2 ^ w - x k) % 2 ^ w)
      ∧ (∃ r, yields (.vmin d a b t nat) r ∧ ∀ k < n, (r k = x k ∨ r k = y k) ∧ le (r k) (x k) ∧ le (r k) (y k))
      ∧ (∃ r, yields (.vmax d a b t nat) r ∧ ∀ k < n, (r k = x k ∨ r k = y k) ∧ le (x k) (r k) ∧ le (y k) (r k))
      ∧ GivesLanes (.vreda d a b t nat) s d w 1 (fun _ => (((List.range n).map x).sum + y 0) % 2 ^ w) 0
      ∧ (∃ r, GivesLanes (.vredm d a b t nat) s d w 1 (fun _ => r) 0 ∧ (r = y 0 ∨ ∃ k < n, r = x k) ∧ le (y 0) r ∧ ∀ k < n, le (x k) r)
      ∧ (p ≠ .un → p ≠ .ord → ∃ r, yields (.vcmp d a b t p nat) r ∧ ∀ k < n,
          let holds := match p with
            | .eq => x k = y k
            | .ne => x k ≠ y k
            | .lt => ¬le (y k) (x k)
            | .le => le (x k) (y k)
            | .gt => ¬le (x k) (y k)
            | .ge => le (y k) (x k)
            | .un => False
            | .ord => True
          (holds → r k = 2 ^ w - 1) ∧ (¬holds → r k = 0)))
    ∧ (t = .i8 ∨ t = .i16 → ∃ r, GivesLanes (.vdot d a b c t) s d (4 * w) (32 / w) r 0
        ∧ ∀ j < 32 / w, BitVec.ofNat (4 * w) (r j) = BitVec.ofNat (4 * w) (lane (s.reg c).val (4 * w) j)
          + BitVec.ofInt (4 * w) (((List.range 4).map (fun k => sx (4 * j + k) * sy (4 * j + k))).sum))
    ∧ yields (.vshl d a b t) (fun k => x k * 2 ^ (y k % w) % 2 ^ w) ∧ yields (.vshr d a b t) (fun k => x k / 2 ^ (y k % w))
    ∧ yields (.vsha d a b t) (fun k => ((BitVec.ofNat w (x k)).sshiftRight (y k % w)).toNat)
    ∧ (l.val < n → yields (.vsplt d a t l) (fun _ => x l.val) ∧ yields (.vins d a t l) (fun k => if k = l.val then x 0 else lane (s.reg d).val w k)
      ∧ Gives (.vextSigned d a t l) s d ((BitVec.ofNat w (x l.val)).signExtend 64) ∧ Gives (.vextNatural d a t l) s d (BitVec.ofNat 64 (x l.val)))
    ∧ (let u := (s.reg a).val
      let v := (s.reg b).val
      let q := (s.reg c).val
      GivesQuad (.vand d a b) s d (u &&& v) ∧ GivesQuad (.vor d a b) s d (u ||| v) ∧ GivesQuad (.vxor d a b) s d (u ^^^ v)
      ∧ GivesQuad (.vsel d a b c) s d ((u &&& q) ||| (v &&& ~~~q))
      ∧ ∃ r, GivesQuad (.vperm d a b c) s d r ∧ ∀ i < 16, lane r 8 i =
          if 128 ≤ lane q 8 i then 0 else if lane q 8 i % 32 < 16 then lane u 8 (lane q 8 i % 16) else lane v 8 (lane q 8 i % 16))

/-- R219 to R224: the vector instructions on floating lanes. Each lane is the operation of its format on the lanes of the sources, rounded once by
RMODE, and the flags of all lanes are ORed into FFLAGS. VABS and VNEG clear and invert sign bits; VREDA adds all its addends exactly
before its one rounding; VDOT adds two exact products to a binary32 lane; VCMP gives a mask by the order of the values. -/
def Obligations.FloatLanes : Prop :=
  ∀ (s : State) (d a b c : RegNum) (t : VType) (p : Pred), s.Plain → t.isFloat = true →
    let w := laneWidth t
    let n := t.lanes
    let f := laneFmt t
    let rm := s.cur.rmode.toNat
    let x := lane (s.reg a).val w
    let y := lane (s.reg b).val w
    let z := lane (s.reg c).val w
    let yields := fun (i : Instr) (g : Nat → Nat × FFlags) => GivesEach i s d w n g
    yields (.vadd d a b t .wrap) (fun k => f.add rm (x k) (y k)) ∧ yields (.vsub d a b t .wrap) (fun k => f.sub rm (x k) (y k))
    ∧ yields (.vmul d a b t .wrap) (fun k => f.mul rm (x k) (y k))
    ∧ yields (.vfma d a b c t) (fun k => f.fma rm (x k) (y k) (z k) false) ∧ yields (.vfms d a b c t) (fun k => f.fma rm (x k) (y k) (z k) true)
    ∧ yields (.vmin d a b t false) (fun k => minMax t false false (x k) (y k)) ∧ yields (.vmax d a b t false) (fun k => minMax t false true (x k) (y k))
    ∧ yields (.vabs d a t false) (fun k => (x k % 2 ^ (w - 1), 0)) ∧ yields (.vneg d a t false) (fun k => (x k + 2 ^ (w - 1), 0))
    ∧ GivesEach (.vreda d a b t false) s d w 1 (fun _ => f.sum rm false ((List.range n).map (fun k => f.decode (x k)) ++ [f.decode (y 0)]))
    ∧ GivesEach (.vredm d a b t false) s d w 1 (fun _ => (List.range n).foldl (fun q k =>
        let r := minMax t false true q.1 (x k)
        (r.1, q.2 ||| r.2)) (y 0, 0))
    ∧ yields (.vcmp d a b t p false) (fun k =>
        let u := f.decode (x k)
        let v := f.decode (y k)
        let un := u.isNan || v.isNan
        let below := fun (u v : FVal) => u.lt v && !FVal.eq u v
        let holds := match p with
          | .eq => FVal.eq u v
          | .ne => !FVal.eq u v
          | .lt => below u v
          | .le => below u v || FVal.eq u v
          | .gt => below v u
          | .ge => below v u || FVal.eq u v
          | .un => un
          | .ord => !un
        let nv := match p with
          | .eq => u.isSig || v.isSig
          | .ne => u.isSig || v.isSig
          | .un => u.isSig || v.isSig
          | .ord => u.isSig || v.isSig
          | .lt => un
          | .le => un
          | .gt => un
          | .ge => un
        (if holds then 2 ^ w - 1 else 0, if nv then flagNV else 0))
    ∧ (t = .f16 ∨ t = .bf16 → GivesEach (.vdot d a b c t) s d 32 4 (fun j =>
        let u := FVal.mul (f.decode (x (2 * j))) (f.decode (y (2 * j)))
        let v := FVal.mul (f.decode (x (2 * j + 1))) (f.decode (y (2 * j + 1)))
        fmtF32.sum rm (u.2 || v.2) [fmtF32.decode (lane (s.reg c).val 32 j), u.1, v.1]))

/-- R219, R222: VDIV and VRSQ complete in every floating type: each lane is the quotient, or the reciprocal of the square root, of its format's
values rounded once by RMODE, with the lanes' flags ORed into FFLAGS. What their special operands give: a NaN operand the default NaN, with NV when
one is signalling; 0 ÷ 0, ∞ ÷ ∞ and the root of a value below zero the default NaN with NV; a finite number that is not zero divided by
zero an infinity with DZ; a quotient by an infinity a zero and one of an infinity an infinity, with no flag; VRSQ of a zero an infinity with DZ,
and of +∞ the code +0. -/
def Obligations.FloatQuotients : Prop :=
  (∀ (s : State) (d a b : RegNum) (ft : FType), s.Plain →
      let w := laneWidth (ftLane ft)
      let f := laneFmt (ftLane ft)
      let rm := s.cur.rmode.toNat
      let x := lane (s.reg a).val w
      let y := lane (s.reg b).val w
      GivesEach (.vdiv d a b ft) s d w (ftLane ft).lanes (fun k => f.div rm (x k) (y k))
      ∧ GivesEach (.vrsq d a ft) s d w (ftLane ft).lanes (fun k => f.rsq rm (x k)))
  ∧ (∀ (f : FFmt) (rm x y : Nat), f ∈ [fmtF32, fmtF16, fmtBf16] →
      let u := f.decode x
      let v := f.decode y
      let zero := fun (n : Bool) => n.toNat * 2 ^ f.sbit
      (u.isNan = true ∨ v.isNan = true → f.div rm x y = (f.nan, if u.isSig || v.isSig then flagNV else 0))
      ∧ (u.isZero = true → v.isZero = true → f.div rm x y = (f.nan, flagNV))
      ∧ (∀ n n', u = .inf n → v = .inf n' → f.div rm x y = (f.nan, flagNV))
      ∧ (∀ n m e, u = .fin n (m + 1) e → v.isZero = true → f.div rm x y = (f.inf (n != v.sign), flagDZ))
      ∧ (∀ n n' m e, u = .fin n m e → v = .inf n' → f.div rm x y = (zero (n != n'), 0))
      ∧ (∀ n n' m e, u = .inf n → v = .fin n' m e → f.div rm x y = (f.inf (n != n'), 0))
      ∧ (u.isNan = true → f.rsq rm x = (f.nan, if u.isSig then flagNV else 0))
      ∧ (u.isZero = true → f.rsq rm x = (f.inf u.sign, flagDZ))
      ∧ (u = .inf false → f.rsq rm x = (0, 0)) ∧ (u = .inf true → f.rsq rm x = (f.nan, flagNV))
      ∧ (∀ m e, u = .fin true (m + 1) e → f.rsq rm x = (f.nan, flagNV)))

/-- R195, R200, R219: what one rounding gives, and what the operations round. A value of the format rounds to its own code with no flag; any other is
rounded as RMODE says, with NX and UF as R200 gives them. A sum, a difference, a product and a fused sum of numbers are the exact value rounded
once, and a quotient the exact rational; an exact zero sum is −0 when every addend is, and else +0, or −0 under RDN; a zero product has the sign of
its operands' product. A NaN operand gives the default NaN, and a finite number that is not zero divided by zero an infinity with DZ. Values
are compared as counts of 2^j for any j at or below their exponents. -/
def Obligations.Rounding : Prop :=
  ∀ (f : FFmt), f ∈ [fmtF32, fmtF16, fmtBf16, fmtD19] → ∀ (rm : Nat),
    let zero := fun (neg : Bool) => neg.toNat * 2 ^ f.sbit
    (∀ (neg : Bool) (m : Nat) (e : Int),
      (∀ x < 2 ^ f.width, f.decode x = .fin neg m e → f.round rm neg m e = (x, 0))
      ∧ ∀ j ≤ e, f.Rounds rm ((FVal.fin neg m e).count j) 1 j (f.round rm neg m e))
    ∧ (∀ x y z n m e n' m' e', f.decode x = .fin n m e → f.decode y = .fin n' m' e' →
        let u := fun (j : Int) => (f.decode x).count j
        let v := fun (j : Int) => (f.decode y).count j
        let sign : Int := if n = n' then 1 else -1
        let product := fun (j : Int) => sign * ((m * m' * 2 ^ (e + e' - j).toNat : Nat) : Int)
        (∀ j, j ≤ e → j ≤ e' →
          (u j + v j ≠ 0 → f.Rounds rm (u j + v j) 1 j (f.add rm x y)) ∧ (u j - v j ≠ 0 → f.Rounds rm (u j - v j) 1 j (f.sub rm x y))
          ∧ (u j + v j = 0 → f.add rm x y = (zero (if m = 0 ∧ m' = 0 ∧ n = true ∧ n' = true then true else rm == 3), 0)))
        ∧ (∀ j ≤ e + e', f.Rounds rm (product j) 1 j (f.mul rm x y)) ∧ (m * m' = 0 → f.mul rm x y = (zero (n != n'), 0))
        ∧ (∀ n'' m'' e'' nc, f.decode z = .fin n'' m'' e'' → ∀ j, j ≤ e + e' → j ≤ e'' →
            let t := product j + (if nc then -(f.decode z).count j else (f.decode z).count j)
            t ≠ 0 → f.Rounds rm t 1 j (f.fma rm x y z nc))
        ∧ (m' ≠ 0 → ∀ j ≤ e - e', f.Rounds rm (sign * ((m * 2 ^ (e - e' - j).toNat : Nat) : Int)) m' j (f.div rm x y)))
    ∧ (∀ x y z, (f.decode x).isNan = true → (f.add rm x y).1 = f.nan ∧ (f.sub rm y x).1 = f.nan ∧ (f.mul rm x y).1 = f.nan ∧ (f.div rm y x).1 = f.nan
        ∧ (f.rsq rm x).1 = f.nan ∧ (f.fma rm x y z false).1 = f.nan)
    ∧ (∀ x y n k q, f.decode x = .fin n (k + 1) q → (f.decode y).isZero = true →
        (f.div rm x y).2 = flagDZ ∧ f.decode (f.div rm x y).1 = .inf (n != (f.decode y).sign))

/-- R208 to R215: conversions and decode tables. A table that no load holds serves VDEC and VENC. TBLD reads its image of 1,024 bytes at issue, here from
the scratch space, TBCF takes a ROM image; the load enters the table engine and the thread parks; when it ends, the table
holds the image and the thread goes on with its summary. -/
def Obligations.Conversions : Prop :=
  ∀ (s : State) (d a b : RegNum) (t : FType) (st dt : NumType) (n : Fin 4) (four : Bool) (k : Fin 5) (o : Nat) (l : TableLoad) (im : Table),
    let f := laneFmt (ftLane t)
    let w := laneWidth (ftLane t)
    let x := lane (s.reg a).val w
    let rm := s.cur.rmode.toNat
    let tab := s.ownCore.table n.val
    let scaled := fun (i : Instr) (sc : Int) => GivesEach i s d w (128 / w) (fun j => match f.decode (x j) with
      | .fin ng (m + 1) e => f.round rm ng (m + 1) (e + sc)
      | .nan g => (f.nan, if g then flagNV else 0)
      | _ => (x j, 0))
    s.Plain →
    GivesEach (.vcvt d a dt st) s d (numWidth dt) (128 / max (numWidth st) (numWidth dt))
        (fun j => convert rm st dt (lane (s.reg a).val (numWidth st) j))
    ∧ scaled (.vscl d a b t) ((s.word b).extractLsb' 0 16).toInt ∧ scaled (.vsclSca d a t) s.cur.sca.toInt ∧ scaled (.vsclScb d a t) s.cur.scb.toInt
    ∧ (let e8 := (s.word b).toNat % 256
      (e8 ≠ 255 → scaled (.vsclE8m0 d a b t) ((e8 : Int) - 127)) ∧ (e8 = 255 → GivesEach (.vsclE8m0 d a b t) s d w (128 / w) (fun _ => (f.nan, flagNV))))
    ∧ GivesEach (.fcls d a t) s d w (128 / w) (fun j => (match f.decode (x j) with
        | .inf true => 2 ^ 0
        | .fin true 0 _ => 2 ^ 3
        | .fin true _ _ => if x j / 2 ^ f.mb % 2 ^ f.eb = 0 then 2 ^ 2 else 2 ^ 1
        | .fin false 0 _ => 2 ^ 4
        | .fin false _ _ => if x j / 2 ^ f.mb % 2 ^ f.eb = 0 then 2 ^ 5 else 2 ^ 6
        | .inf false => 2 ^ 7
        | .nan true => 2 ^ 8
        | .nan false => 2 ^ 9, 0))
    ∧ (s.ownCore.loading n.val = false →
      GivesEach (.vdec d a t n four) s d w (128 / w) (fun j =>
        match Map.find tab (lane (s.reg a).val (if four then 4 else 8) j) with
        | some c => f.ofVal rm (d19Val c)
        | none => (f.nan, flagNV))
      ∧ GivesEach (.venc d a t n four) s d (if four then 4 else 8) (128 / w) (fun j => tab.encode four rm s.cur.satn (f.decode (x j)))
      ∧ (s.cur.spec = false → Gives (.tbcfQuery d n) s d tab.summary))
    ∧ (s.cur.spec = false → (∀ l ∈ s.ownCore.engine, l.t ≠ s.turn) → ∃ t y, exec (.tbcf d k n) s = .next t ∧ t.cur = { s.cur with tableBound := true, status := .parked (.table n.val) }
        ∧ t.ownCore.engine = s.ownCore.engine ++ [y] ∧ y.image = some (romTable k.val) ∧ y.n = n.val ∧ y.t = s.turn ∧ y.d = d)
    ∧ (s.Drained → s.cur.spec = false → s.Passes a (s.word a).toNat 1024 [permL] → scratchOf (s.domainAt s.turn.core) (s.word a).toNat = some o →
      (s.domainAt s.turn.core).holds (clusterOf (scratchCore o)) = true → (s.core (scratchCore o)).contained = false → scratchCore (o + 1023) = scratchCore o →
      s.scratch.poison = [] → (∀ l ∈ s.ownCore.engine, l.t ≠ s.turn) →
      ∃ t y, exec (.tbld d a n) s = .next t ∧ t.cur = { s.cur with tableBound := true, status := .parked (.table n.val) }
        ∧ t.ownCore.engine = s.ownCore.engine ++ [y] ∧ y.n = n.val ∧ y.t = s.turn ∧ y.d = d
        ∧ ∃ z, y.image = some z ∧ ∀ c < 256, Map.find z c =
            let v := s.scratch.read o 1024 / 2 ^ (32 * c) % 2 ^ 32
            if v / 2 ^ 31 = 1 then some (if (d19Val (v % 2 ^ 19)).isNan then fmtD19.nan else v % 2 ^ 19) else none)
    ∧ (let cr := s.core s.ev.core
      cr.engine = [l] → l.image = some im → cr.ops = [] → (s.thread l.t).wait = some (.table l.n) → (s.thread l.t).electing = none → (s.thread l.t).inFrame = false →
      ∃ t, exec .tableBuild s = .next t ∧ (t.core s.ev.core).engine = [] ∧ (t.core s.ev.core).table l.n = im
        ∧ (t.thread l.t).status = .running ∧ (l.d ≠ 0 → (t.thread l.t).reg l.d = untagged im.summary)
        ∧ (t.thread l.t).pcc = (s.thread l.t).pcc.withAddr (((s.thread l.t).pcc.addr + 4) % 2 ^ 64))

/-- R241 to R256: the matrix instructions of a thread that is not speculative and owes no poison, with room in the local queue, no table load waiting and
formats that are allowed. MMV, MMVS, MRD, MCLR and MANC enter the queue as one operation that captures the formats, GEOM, ANCH and TILEBASE, and the first three
hold their tile; MLDB from scratch captures the image of B; MLDB from a tile holds the staging buffer and the tile, and parks for its reads; MGEO sets
GEOM and returns the geometry; MANC also changes the anchor; MSTA reads a lane of a unit with nothing queued or running; MSYNC goes on when the thread
has nothing in the unit and parks otherwise, but first raises CONTAINED where a command's target was reset; MCMD sends its command and parks. A format that is not allowed raises RSVD, an undefined tile TILE. -/
def Obligations.MatrixInstructions : Prop :=
  ∀ (s : State) (d a b : RegNum) (f n : Fin 16) (clr : Bool) (tl : TileNum) (ln : Fin 32) (x : Tile) (o : Nat),
    let k := s.ownCore
    let h := s.cur
    let g := geometry k.geom
    let captured := fun (q : MatOp) => q.fmt = h.formats ∧ q.geom = k.geom ∧ q.anch = k.anch ∧ q.tbase = k.tilebase ∧ q.issuer = s.turn ∧ q.cmd = false
      ∧ q.seq = k.matSeq
    let entered := fun (i : Instr) (kind : MatKind) (more : State → Prop) => ∃ t q, exec i s = .next t ∧ t.ownCore.mq = k.mq ++ [q] ∧ q.kind = kind
      ∧ captured q ∧ t.ownCore.acc = k.acc ∧ t.ownCore.btile = k.btile ∧ t.scratch = s.scratch ∧ t.cur.pcc = s.pccNext ∧ t.cur.status = h.status ∧ more t
    let regs := fun (t : State) => ∀ r : RegNum, t.reg r = s.reg r
    let held := fun (t : State) => regs t ∧ ∃ y, t.ownCore.tile tl = some y ∧ y.hold = x.hold + 1 ∧ y.st = x.st ∧ y.rel = x.rel ∧ y.len = x.len
    s.Plain → s.Drained → h.spec = false → h.matrixPoison = none → (∀ o ∈ k.reading, o.issuer ≠ s.turn) →
    (k.engine = [] →
      (k.mq.length < 4 →
        entered (.mclr f n) (.mclr f.val (n.val + 1)) regs
        ∧ (let new := (s.word a).extractLsb' 0 16
          entered (.manc d a) (.rescale (new.toInt - k.anch.toInt)) (fun t => t.ownCore.anch = new
            ∧ (d ≠ 0 → t.reg d = untagged (k.anch.signExtend 64)) ∧ ∀ r : RegNum, r ≠ d → t.reg r = s.reg r))
        ∧ (k.tile tl = some x → x.st = .ready → x.pt = false →
          (fmtInOk h.fmta = true → (n.val + 1) * strideA h.fmta ≤ x.len →
            entered (.mmv f a n tl) (.mmv f.val (s.word a) (n.val + 1) tl false) held)
          ∧ (fmtInOk h.fmta = true → (n.val + 1) * strideS h.fmta ≤ x.len →
            entered (.mmvs f a n tl) (.mmv f.val (s.word a) (n.val + 1) tl true) held)
          ∧ (fmtOutOk h.fmto = true → (n.val + 1) * 32 * outBytes h.fmto ≤ x.len →
            entered (.mrd tl f n clr) (.mrd tl f.val (n.val + 1) clr) held))
        ∧ (fmtInOk h.fmtb = true → k.stagingHeld = false → s.scratch.poison = [] →
            (s.reg a).tag = true → (s.reg a).otype = 0 → (s.reg a).has permL = true → memCheckB (s.reg a) (s.word b) h.fmtb g = none →
            (∀ r ∈ mldbReads (s.reg a) (s.word b) h.fmtb g, ∃ o, scratchOf (s.domainAt s.turn.core) r.1 = some o ∧ scratchCore (o + r.2 - 1) = scratchCore o
                ∧ (s.domainAt s.turn.core).holds (clusterOf (scratchCore o)) = true ∧ (s.core (scratchCore o)).contained = false) →
            ∃ img, entered (.mldb a b) (.mldb img (.memory (s.reg a) (s.word b))) regs
              ∧ ∀ kk < g.kvalid, ∀ j < g.nvalid,
                scratchOf (s.domainAt s.turn.core) (memRowB (s.reg a) (s.word b) h.fmtb g kk).1 = some o →
                Map.find img.elems (kk * 32 + j)
                  = some (s.scratch.read o (rowBytesB h.fmtb g) / 2 ^ (j * elemBits h.fmtb) % 2 ^ elemBits h.fmtb)))
      ∧ (k.tile tl = some x → x.st = .ready → x.pt = false → fmtInOk h.fmtb = true → 64 * strideB h.fmtb + 64 ≤ x.len → k.stagingHeld = false →
          ∃ t q, exec (.mldbTile tl) s = .next t ∧ t.ownCore.bread = some q ∧ q.kind = .mldbTile tl ∧ captured q ∧ q.step = 0
            ∧ t.ownCore.mq = k.mq ∧ t.ownCore.btile = k.btile ∧ held t ∧ t.scratch = s.scratch ∧ t.cur.pcc = h.pcc ∧ t.cur.status = .parked .bread))
    ∧ (∃ t, exec (.mgeo d a) s = .next t ∧ t.ownCore = { k with geom := s.word a } ∧ t.cur.pcc = s.pccNext
        ∧ (let g := geometry (s.word a)
          d ≠ 0 → t.reg d = untagged (BitVec.ofNat 64 (g.k0 + g.n0 * 2 ^ 16 + g.kvalid * 2 ^ 32 + g.nvalid * 2 ^ 48)))
        ∧ ∀ r : RegNum, r ≠ d → t.reg r = s.reg r)
    ∧ (k.mrun = none → k.mq = [] → k.cq = [] → let l := Map.get ⟨0, 0⟩ k.acc (f.val * 32 + ln.val)
        GivesQuad (.msta d f ln) s d (l.v.zeroExtend 128 ||| (l.st.zeroExtend 128 <<< 72)))
    ∧ (k.mrun ≠ none ∨ k.mq ≠ [] ∨ k.cq ≠ [] →
        exec (.msta d f ln) s = .next (s.setCur { h with status := .parked (.msta d f.val ln.val k.matSeq) }))
    ∧ (s.matrixBusy s.turn = false → h.matrixGone = none → GoesTo .msync s s.pccNext)
    ∧ (s.matrixBusy s.turn = true → h.matrixGone = none → exec .msync s = .next (s.setCur { h with status := .parked .matrix }))
    ∧ (∀ gone, h.matrixGone = some gone → s.Traps →
        exec .msync s = .next (s.setCur ({ h with matrixGone := none : Thread }.trapped ⟨.contained, gone⟩)))
    ∧ ((s.reg a).tag = true → (s.reg a).otype = 0 → scratchOf (s.domainAt s.turn.core) (s.reg a).addr = some o →
      (commandOf ((s.word b).extractLsb' 0 32) 0 h.formats).isSome = true →
      ∃ t m, exec (.mcmd d a b) s = .next t ∧ t.cur = { h with status := .parked (.mcmd d (scratchCore o)) }
        ∧ (t.core (scratchCore o)).cmdsIn = (s.core (scratchCore o)).cmdsIn ++ [m] ∧ m.word = (s.word b).extractLsb' 0 32
        ∧ m.m0 = (s.reg b).val.extractLsb' 64 64 ∧ m.cap = s.reg a ∧ m.fmt = h.formats ∧ m.issuer = s.turn)
    ∧ (s.Traps →
      (fmtInOk h.fmtb = false → ∀ i ∈ [Instr.mldb a b, .mldbTile tl], TakesTrap i s ⟨.rsvd, encodeNat i⟩)
      ∧ (fmtInOk h.fmta = false → ∀ i ∈ [Instr.mmv f a n tl, .mmvs f a n tl], TakesTrap i s ⟨.rsvd, encodeNat i⟩)
      ∧ (fmtOutOk h.fmto = false → TakesTrap (.mrd tl f n clr) s ⟨.rsvd, encodeNat (.mrd tl f n clr)⟩)
      ∧ (k.tile tl = none → fmtInOk h.fmta = true → fmtInOk h.fmtb = true → fmtOutOk h.fmto = true →
          ∀ i ∈ [Instr.mldbTile tl, .mmv f a n tl, .mmvs f a n tl, .mrd tl f n clr], TakesTrap i s ⟨.tile, tl.val⟩))

/-- R239 to R242, R246 to R249, R255: the events of the matrix unit. The idle unit starts the head of its queue. An operation that has all its row accesses to
come completes: MCLR clears its rows and no other; MLDB writes B, aligned; a rescale multiplies lane values by 2^−δ, rounded to nearest even, and
stores the state of one that leaves the range; MMV adds to every lane of a row the rounded sum of its products, scaled to the anchor (shown for one
row of s8 elements in one K group). The reads of an MLDB from a tile go row by row, and its operation enters the queue after the last. A parity error
is noted; once the macro has been tested B is read again from its tile. A command enters the command queue of its target and its issuer goes on with
0; its acknowledgement takes one from the commands out. -/
def Obligations.MatrixEvents : Prop :=
  ∀ (s : State) (op : MatOp) (b : BTile) (x : Tile) (m : MatCmd) (kind : MatKind) (d : RegNum) (u : Tid) (q : CmdAck) (tl : TileNum),
    let c := s.ev.core
    let k := s.core c
    let lane := fun (s : State) (r i : Nat) => Map.get ⟨0, 0⟩ (s.core c).acc (r * 32 + i)
    let done := fun (p : State → Prop) => ∃ t, exec .matrixOpComplete s = .next t ∧ (t.core c).mrun = none ∧ t.scratch = s.scratch ∧ p t
    (k.mrun = none → k.preempted = false → k.parity = none → k.mq = [op] → k.cq = [] → k.staged = none → op.cmd = false →
      ∃ t, exec .matrixOpStart s = .next t ∧ (t.core c).mrun = some op ∧ (t.core c).mq = [])
    ∧ (s.ev.k = 0 → k.mrun = some op → op.cmd = false → op.step = 0 → k.parity = none →
      (∀ f n, op.kind = .mclr f n → f < 16 → n ≤ 16 → done (fun t => (t.core c).btile = k.btile
        ∧ ∀ r < 16, ∀ i < 32, lane t r i = if ∃ j < n, (f + j) % 16 = r then ⟨0, 0⟩ else lane s r i))
      ∧ (∀ img src, op.kind = .mldb img src → done (fun t => (t.core c).acc = k.acc
        ∧ (t.core c).btile = some (alignB k img src op.geom op.fmt op.issuer)))
      ∧ (∀ δ : Int, op.kind = .rescale δ → done (fun t => (t.core c).btile = k.btile ∧ ∀ r < 16, ∀ i < 32,
          let l := lane s r i
          let v := if 0 ≤ δ then roundAt 0 (decide (l.v.toInt < 0)) l.v.toInt.natAbs 0 δ else (l.v.toInt.natAbs * 2 ^ (-δ).toNat, false)
          let y : Int := if l.v.toInt < 0 then -(v.1 : Int) else v.1
          (l.st ≠ 0 → lane t r i = l)
          ∧ (l.st = 0 → (lane t r i).v = BitVec.ofInt 72 y ∧ (lane t r i).st = if 2 ^ 71 - 1 < y then 1 else if y < -2 ^ 71 then 2 else 0)))
      ∧ (∀ f m0, op.kind = .mmv f m0 1 tl false → f < 16 → k.tileUnder op.tbase tl = some x → k.btile = some b → op.fmt.fmta = 3 → s.scratch.poison = [] →
          let g := geometry op.geom
          m0.toNat < g.mext → g.kvalid ≤ 16 → done (fun t => (t.core c).btile = k.btile
          ∧ (∀ i < g.nvalid, (lane t f i).v = (lane s f i).v + BitVec.ofInt 72 (shiftRne
              (((List.range g.kvalid).map (fun kk => (BitVec.ofNat 8 (s.tileRead c x kk 1)).toInt * (Map.get {} b.cells (kk * 32 + i)).p)).sum)
              (op.fmt.sca.toInt + Map.get 0 b.exps i - op.anch.toInt)))
          ∧ (∀ i, g.nvalid ≤ i → i < 32 → lane t f i = lane s f i) ∧ ∀ r < 16, r ≠ f → ∀ i < 32, lane t r i = lane s r i)))
    ∧ (let g := geometry op.geom
      let h := s.thread u
      s.ev.t = u → u.core = c → h.wait = some .bread → k.bread = some op → op.kind = .mldbTile tl → op.issuer = u → k.tileUnder op.tbase tl = some x →
      (op.step < g.kvalid → (∀ j < g.nvalid, Map.find op.img.elems (op.step * 32 + j) = none) → ∃ t o, exec .dataArrival s = .next t
        ∧ (t.core c).bread = some o ∧ o.kind = op.kind ∧ o.step = op.step + 1 ∧ t.threads = s.threads ∧ t.scratch = s.scratch
        ∧ ∀ j < g.nvalid, Map.find o.img.elems (op.step * 32 + j)
          = some (s.tileElem c x (op.step * strideB op.fmt.fmtb) (elemBits op.fmt.fmtb) j))
      ∧ (g.kvalid ≤ op.step → op.poison = none → k.mq.length < 4 → h.electing = none → h.inFrame = false → ∃ t o, exec .dataArrival s = .next t
        ∧ (t.core c).bread = none ∧ (t.core c).mq = k.mq ++ [o] ∧ o.kind = .mldb op.img (.tile tl) ∧ o.fmt = op.fmt ∧ o.geom = op.geom
        ∧ o.seq = k.matSeq ∧ (t.thread u).status = .running ∧ (t.thread u).pcc = h.pcc.withAddr ((h.pcc.addr + 4) % 2 ^ 64)))
    ∧ (∀ f m0 n sp y, k.mrun = some op → op.kind = .mmv f m0 n tl sp → k.btile = some b →
      (k.parity = none → exec .macroParityError s = .next (s.setCore c { k with parity := some false }))
      ∧ (s.ev.k = 1 → k.parity = some true → b.source = .tile y → k.tile y = some x → s.scratch.poison = [] →
        ∃ t, exec .matrixOpComplete s = .next t ∧ (t.core c).reload = true ∧ (t.core c).parity = none ∧ (t.core c).acc = k.acc
          ∧ (t.core c).btile = some (alignB k (s.tileImage c x b.fmt.fmtb (geometry b.geom)).1 (.tile y) b.geom b.fmt b.issuer)
          ∧ (t.core c).mrun = some op))
    ∧ (k.cmdsIn = [m] → commandOf m.word m.m0 m.fmt = some kind → k.engine = [] → m.issuer = u → clusterOf u.core = clusterOf c →
      k.contained = false → m.cap.tag = true → m.cap.otype = 0 → m.cap.has permM = true → m.cap.base ≤ m.cap.addr → m.cap.addr < m.cap.top →
      (s.domainOfCore c).isSome = true → (∀ tl, kind.tile = some tl → (k.tile tl).isSome = true) → k.preempted = false → k.cq.length < 4 →
      (s.thread u).wait = some (.mcmd d c) → (s.thread u).electing = none → (s.thread u).inFrame = false →
      ∃ t o, exec .mcmdArrival s = .next t ∧ (t.core c).cmdsIn = [] ∧ (t.core c).cq = k.cq ++ [o] ∧ o.kind = kind ∧ o.fmt = m.fmt ∧ o.geom = k.geom
        ∧ o.anch = k.anch ∧ o.issuer = u ∧ o.cmd = true ∧ (t.thread u).status = .running ∧ (t.thread u).cmdsOut = (s.thread u).cmdsOut + 1
        ∧ (d ≠ 0 → (t.thread u).reg d = {}))
    ∧ (s.ev.t = u → s.ev.k = 0 → (s.thread u).cmdAcks = [q] → clusterOf q.core = clusterOf u.core → (s.thread u).wait = none →
      (∀ i, ∀ e ∈ (s.thread ⟨u.core, i⟩).cmdAcks, e.core = q.core → q.seq ≤ e.seq) →
      ∃ t, exec .mcmdAck s = .next t ∧ (t.thread u).cmdAcks = [] ∧ (t.thread u).cmdsOut = (s.thread u).cmdsOut - 1
        ∧ ((s.thread u).matrixPoison = none → (t.thread u).matrixPoison = q.poison) ∧ (t.thread u).pcc = (s.thread u).pcc)

/-- R263 to R275: the Trellis instructions of a thread whose handle passes its checks and names this device. ACHN and ACLS send their requests and park, and
raise CONTAINED for a contained core; ASND reserves outbox rows and enters the matrix queue, or parks for room; ADRN and ASTA give the status word of
a chain of the issuing core, zero for one that is not open, and ADRN parks until the chain is done. ARSN sends ready refused rows again, or parks;
ARSN.drop drops them. While the thread has refused rows, ACHN, ACLS, ASND and ADRN raise ACCABS with their number. -/
def Obligations.TrellisInstructions : Prop :=
  ∀ (s : State) (d a b : RegNum) (f n : Fin 16) (clr : Bool) (x : ChainSlot) (m j why : Nat) (r : OutRow) (ready late : Bool),
      let k := s.ownCore
      let h := s.word a
      let c := s.reg a
      let none_ := s.refusedRows s.turn = []
      let parks := fun (i : Instr) (w : Wait) => exec i s = .next (s.setCur { s.cur with status := .parked w })
      let status : Word := BitVec.ofNat 64 ((if x.expected ≤ m then 2 ^ 50 else 0) + 2 ^ 49 + (if x.ovr then 2 ^ 48 else 0)
        + m * 2 ^ 32 + x.expected * 2 ^ 16 + (x.n - 1) * 16 + x.f)
      s.Plain → s.Drained → s.cur.spec = false → s.cur.status = .running →
      (c.tag = true → c.otype = 0 → c.has permN = true → c.base ≤ c.addr → c.addr < c.top → handleDev h = s.devnum.toNat →
        (s.domainAt s.turn.core).holds (clusterOf (handleCore h)) = true →
        (none_ → (s.core (handleCore h)).contained = false →
          parks (.achn d a b clr) (.chain d h ((s.word b).extractLsb' 0 32) clr false) ∧ parks (.acls d a) (.chain d h 0 false true))
        ∧ ((s.core (handleCore h)).contained = true → s.Traps →
          TakesTrap (.achn d a b clr) s ⟨.contained, handleCore h⟩ ∧ TakesTrap (.acls d a) s ⟨.contained, handleCore h⟩)
        ∧ (none_ → k.outbox.length + n.val + 1 ≤ 64 → k.mq.length < 4 →
          ∃ t q, exec (.asnd f n a b clr) s = .next t ∧ t.ownCore.mq = k.mq ++ [q]
            ∧ q.kind = .asnd f.val (n.val + 1) clr ((List.range (n.val + 1)).map (fun j => k.outNext + j)) ∧ q.anch = k.anch ∧ q.issuer = s.turn
            ∧ t.cur.pcc = s.pccNext ∧ (∀ r : RegNum, t.reg r = s.reg r) ∧ t.ownCore.acc = k.acc
            ∧ ∀ j ≤ n.val, Map.find t.ownCore.outbox (k.outNext + j)
                = some ⟨h, (s.word b).toNat % 16 + j, k.anch, [], s.turn, .reserved, 0, false, false⟩)
        ∧ (none_ → 64 < k.outbox.length + n.val + 1 →
          exec (.asnd f n a b clr) s = .next (s.setCur { s.cur with past := true, status := .parked .outbox }))
        ∧ (handleCore h = s.turn.core →
          (k.chainOf h = none → Gives (.astaChain d a) s d 0 ∧ (none_ → Gives (.adrn d a) s d 0 ∧ Gives (.adrnNw d a) s d 0))
          ∧ (k.chainOf h = some x → m ∈ x.counts → (∀ y ∈ x.counts, m ≤ y) → Gives (.astaChain d a) s d status
            ∧ (none_ → Gives (.adrnNw d a) s d status ∧ (x.expected ≤ m → Gives (.adrn d a) s d status)
              ∧ (m < x.expected → parks (.adrn d a) (.adrn d (handleSlot h))))))
        ∧ (handleCore h ≠ s.turn.core → s.Traps → ∀ i ∈ [Instr.adrn d a, .adrnNw d a, .astaChain d a], TakesTrap i s ⟨.capPerm, a.val⟩)
        ∧ (s.refusedRows s.turn ≠ [] → s.Traps → handleCore h = s.turn.core → k.contained = false →
          ∀ i ∈ [Instr.achn d a b clr, .acls d a, .asnd f n a b clr, .adrn d a, .adrnNw d a],
            TakesTrap i s ⟨.accabs, (s.refusedRows s.turn).length⟩))
      ∧ (k.outbox = [] → Gives (.astaOutbox d) s d 0)
      ∧ (k.outbox = [(j, r)] → r.owner = s.turn → r.st = .refused why ready late → handleDev r.handle = s.devnum.toNat →
        Gives (.astaOutbox d) s d (BitVec.ofNat 64 (why * 2 ^ 24 + (if ready then 2 ^ 16 else 0) + 2 ^ 8 + 1))
        ∧ (ready = true → ∀ i ∈ [Instr.arsn d, .arsnNw d], ∃ t, exec i s = .next t
            ∧ t.ownCore.outbox = [(j, { r with st := .sent, seq := k.outNext })]
            ∧ (d ≠ 0 → t.reg d = untagged 1) ∧ (∀ q : RegNum, q ≠ d → t.reg q = s.reg q) ∧ t.cur.pcc = s.pccNext)
        ∧ (ready = false → parks (.arsn d) (.arsn d) ∧ Gives (.arsnNw d) s d 0)
        ∧ ∃ t, exec (.arsnDrop d) s = .next t ∧ t.ownCore.outbox = []
            ∧ (d ≠ 0 → t.reg d = untagged 1) ∧ (∀ q : RegNum, q ≠ d → t.reg q = s.reg q) ∧ t.cur.pcc = s.pccNext)

/-- R266, R268, R269, R271, R274: the Trellis events of this module. A set-up opens a free slot, whose rows no chain holds, and gives 0, 1 for a slot that
is in use, 2 for rows that a chain holds; a close frees its slot and gives 0, or 1; at a contained core both raise CONTAINED. An arriving row is added
lane by lane and counted, or refused with its reason; its answer removes it from the outbox or leaves it refused, ready where the notice came first; a notice, or the time limit,
makes a refused row ready. -/
def Obligations.TrellisEvents : Prop :=
  ∀ (s : State) (u : Tid) (d : RegNum) (h : Word) (desc : BitVec 32) (clr : Bool) (x : ChainSlot) (k reason : Nat) (r : OutRow) (ready late : Bool),
      let c := handleCore h
      let kc := s.core c
      let slot := handleSlot h
      let w := s.thread u
      let replied := fun (i : Instr) (v : Word) (p : State → Prop) => ∃ t, exec i s = .next t ∧ (t.thread u).status = .running
        ∧ (d ≠ 0 → (t.thread u).reg d = untagged v) ∧ (t.thread u).pcc = w.pcc.withAddr ((w.pcc.addr + 4) % 2 ^ 64) ∧ p t
      (s.ev.own = true → s.ev.t = u → handleDev h = s.devnum.toNat → clusterOf c = clusterOf u.core → w.electing = none → w.inFrame = false →
        (∀ cl : Bool, w.wait = some (.chain d h desc clr cl) → kc.contained = true → u.slot ≠ 15 → w.spec = false → w.intrap = false →
          w.blockBuf = [] → w.past = false →
          exec (if cl then .chainCloseArrival else .chainOpenArrival) s
            = .next (s.setThread u ({ w with status := .running }.trapped ⟨.contained, c⟩)))
        ∧ (w.wait = some (.chain d h desc clr false) → kc.contained = false →
          ((Map.find kc.chains slot).isSome = true ∨ kc.preempted = true → replied .chainOpenArrival 1 (fun t => t.core c = kc))
          ∧ (Map.find kc.chains slot = none → kc.preempted = false →
            (∃ e ∈ kc.chains, ∃ j < e.2.n, ∃ i < desc.toNat / 16 % 16 + 1, (e.2.f + j) % 16 = (desc.toNat % 16 + i) % 16) →
            replied .chainOpenArrival 2 (fun t => t.core c = kc))
          ∧ (kc.chains = [] → kc.preempted = false → replied .chainOpenArrival 0 (fun t =>
              let f := desc.toNat % 16
              let n := desc.toNat / 16 % 16 + 1
              Map.find (t.core c).chains slot = some ⟨handleKey h, f, n, desc.toNat / 2 ^ 16, List.replicate n 0, false⟩
              ∧ ∀ row < 16, ∀ i < 32, Map.get ⟨0, 0⟩ (t.core c).acc (row * 32 + i)
                = if clr = true ∧ ∃ j < n, (f + j) % 16 = row then ⟨0, 0⟩ else Map.get ⟨0, 0⟩ kc.acc (row * 32 + i))))
        ∧ (w.wait = some (.chain d h desc clr true) → kc.contained = false →
          (Map.find kc.chains slot = some x → x.key = handleKey h →
            replied .chainCloseArrival 0 (fun t => Map.find (t.core c).chains slot = none ∧ (t.core c).acc = kc.acc))
          ∧ (kc.chainOf h = none → replied .chainCloseArrival 1 (fun t => t.core c = kc))))
      ∧ (let y := s.ev.core
        let ky := s.core y
        r.handle = h → handleDev h = s.devnum.toNat → clusterOf c = clusterOf y → r.cut = false →
        (s.ev.src = some (.outbox y k) → Map.find ky.outbox k = some r → r.st = .sent →
          (∀ e ∈ ky.outbox, e.2.st = .sent → handleDev e.2.handle = handleDev h → handleCore e.2.handle = c → r.seq ≤ e.2.seq) →
          let answered := fun (reason : Nat) (ready : Bool) (p : State → Prop) => ∃ t, exec .trellisRowArrival s = .next t
            ∧ Map.find (t.core y).outbox k = some { r with st := .answered reason ready false } ∧ p t
          (kc.contained = true → answered 2 true (fun t => (t.core c).acc = kc.acc))
          ∧ (kc.contained = false → kc.preempted = true → kc.refusals.length < 256 → answered 1 false (fun t => y ∈ (t.core c).refusals))
          ∧ (kc.contained = false → kc.preempted = false →
            (kc.chainOf h = none → answered 3 true (fun t => (t.core c).acc = kc.acc))
            ∧ (kc.chainOf h = some x →
              (x.n ≤ r.row → answered 4 true (fun t => (t.core c).acc = kc.acc))
              ∧ (r.row < x.n → r.anch ≠ kc.anch → answered 5 true (fun t => (t.core c).acc = kc.acc))
              ∧ (r.row < x.n → r.anch = kc.anch → kc.mrun = none → kc.mq = [] → kc.cq = [] → r.lanes.length = 32 → answered 0 true (fun t =>
                  (∀ row < 16, ∀ i < 32, Map.get ⟨0, 0⟩ (t.core c).acc (row * 32 + i)
                    = (let l := Map.get (⟨0, 0⟩ : Lane) kc.acc (row * 32 + i)
                      let z := r.lanes.getD i ⟨0, 0⟩
                      if row = (x.f + r.row) % 16 then ⟨l.v + z.v, l.st ||| z.st⟩ else l))
                  ∧ ∃ z, Map.find (t.core c).chains slot = some z ∧ z.n = x.n ∧ z.f = x.f ∧ z.key = x.key ∧ z.expected = x.expected
                    ∧ (r.row < x.counts.length → z.counts.getD r.row 0 = min (x.counts.getD r.row 0 + 1) 0xFFFF)
                    ∧ (∀ i, i ≠ r.row → z.counts.getD i 0 = x.counts.getD i 0))))))
        ∧ (s.ev.k = k → Map.find ky.outbox k = some r → r.st = .answered reason ready late →
          ∃ t, exec .trellisAckArrival s = .next t
            ∧ Map.find (t.core y).outbox k = if reason = 0 then none
              else some { r with st := .refused reason (ready || (reason == 1 && r.early)) late, early := false })
        ∧ (ky.outbox = [(k, r)] → r.st = .refused 1 ready late →
          let now := fun (i : Instr) => ∃ t, exec i s = .next t ∧ (t.core y).outbox = [(k, { r with st := .refused 1 true late })]
          (s.ev.own = true → s.ev.target = c → y ∈ kc.notices → now .resumeNotice)
          ∧ (s.ev.k = k → late = true → now .refusalReadyTimeout)))

/-- R305 to R315: the sparse instructions. CAML and CAMP on tiles that are ready enter the CAM engine, hold their tiles and park; CAMC looks a key up while no
CAML is under way; SPCF gives the flags and sets them; GETR of rows whose pointers and extents pass enters the command FIFO, fills its tile
and gives 0, and a malformed word gives 2. The end of a load fills the CAM and gives the number of keys and of repeated ones; the end of
a probe gives how many keys matched and how many pairs it has written. -/
def Obligations.Sparse : Prop :=
  ∀ (s : State) (d a b e : RegNum) (o p : TileNum) (x y : Tile) (i : Nat) (z : CamEntry)
    (pre post : Map CamEntry) (u : Tid) (n base : Nat) (tb : BitVec 15),
    let k := s.ownCore
    let free := fun (tl : TileNum) (t : Tile) => k.tile tl = some t ∧ t.st = .ready ∧ t.pt = false
    let holds := fun (t : State) (tl : TileNum) (x : Tile) => ∃ y, t.ownCore.tile tl = some y ∧ y.hold = x.hold + 1 ∧ y.st = x.st ∧ y.rel = x.rel ∧ y.len = x.len
    let parked := fun (t : State) => t.cur = { s.cur with status := .parked (.cam d), inh := t.cur.inh, isat := t.cur.isat }
    let key := (s.word a).toNat % 2 ^ 32
    let cnt := (s.word b).toNat % 2 ^ 16
    let bs := (s.word b).toNat / 2 ^ 16 % 2 ^ 16
    (s.Plain → s.Drained → s.cur.spec = false →
      (free o x → 4 * min cnt 256 ≤ x.len →
        ∃ t, exec (.caml d o b) s = .next t ∧ parked t ∧ t.ownCore.camq = k.camq ++ [.load s.turn d o (min cnt 256) bs k.tilebase] ∧ holds t o x)
      ∧ (free o x → free p y → o ≠ p → 4 * cnt ≤ y.len →
        ∃ t, exec (.camp d o p b) s = .next t ∧ parked t ∧ t.ownCore.camq = k.camq ++ [.probe s.turn d o p cnt bs k.tilebase] ∧ holds t o x ∧ holds t p y)
      ∧ (k.camLoading = false →
        ((∀ q ∈ k.cam, q.2.key ≠ key) → Gives (.camc d a) s d (BitVec.ofNat 64 (k.cam.length * 2 ^ 40)))
        ∧ (k.cam = pre ++ (i, z) :: post → z.key = key → (∀ q ∈ pre, q.2.key ≠ key) →
          Gives (.camc d a) s d (BitVec.ofNat 64 (k.cam.length * 2 ^ 40 + 2 ^ 32 + i * 2 ^ 16 + z.pos))))
      ∧ (∃ t, exec (.spcf d a) s = .next t ∧ (d ≠ 0 → t.reg d = untagged (BitVec.ofNat 64 (k.negEmpty.toNat + 2 * k.negRow.toNat)))
        ∧ (∀ r : RegNum, r ≠ d → t.reg r = s.reg r) ∧ t.cur.pcc = s.pccNext
        ∧ t.ownCore = { k with negEmpty := (s.word a).getLsbD 0, negRow := k.negRow && !(s.word a).getLsbD 1 })
      ∧ (let w0 := s.word e
        let m := w0.toNat % 2 ^ 16
        let w := if w0.getLsbD 26 then 8 else 4
        let voff := ((s.reg e).val.extractLsb' 64 64).toNat
        let row := fun (j : Nat) => s.tileRead s.turn.core x (4 * j) 4
        let at_ := fun (r : Nat) => ((s.reg a).addr + r * w) % 2 ^ 64
        let ptr := fun (r : Nat) => s.scratch.read (at_ r - (s.domainAt s.turn.core).lwin.toNat) w
        let within := fun (lo hi : Nat) => lo = hi ∨ ((s.reg b).base ≤ lo ∧ hi ≤ (s.reg b).top)
        let rows := (List.range m).map (fun j => (row j, ptr (row j), ptr (row j + 1)))
        (badGather w0 = true → s.cur.getr = none → Gives (.getr d a b e) s d 2)
        ∧ (badGather w0 = false → s.cur.getr = none → o.val = w0.toNat / 2 ^ 16 % 32 → p.val = w0.toNat / 2 ^ 21 % 32 → free o x → 4 * m ≤ x.len →
          k.tile p = some y → y.st = .empty ∨ y.st = .filling → y.nfill < 15 → y.pt = false →
          (∀ i < 15, ∀ op, (s.thread ⟨s.turn.core, i⟩).wait ≠ some (.tile op)) →
          (s.reg a).tag = true → (s.reg a).otype = 0 → (s.reg a).has permL = true →
          (s.reg b).tag = true → (s.reg b).otype = 0 → (s.reg b).has permL = true → s.released s.turn = true → k.fifo.length < 16 →
          s.scratch.poison = [] → k.contained = false → (s.domainAt s.turn.core).holds (clusterOf s.turn.core) = true →
          (∀ j < m, (∀ r, r = row j ∨ r = row j + 1 → (s.reg a).base ≤ at_ r ∧ at_ r + w ≤ (s.reg a).top ∧ at_ r % w = 0
              ∧ ∃ g, scratchOf (s.domainAt s.turn.core) (at_ r) = some g ∧ scratchCore g = s.turn.core
                ∧ scratchCore (g + w - 1) = s.turn.core)
            ∧ ptr (row j) ≤ ptr (row j + 1)
            ∧ within ((s.reg b).addr + 4 * ptr (row j)) ((s.reg b).addr + 4 * ptr (row j + 1))
            ∧ within ((s.reg b).addr + voff + gSize w0 * ptr (row j)) ((s.reg b).addr + voff + gSize w0 * ptr (row j + 1))) →
          gatherBytes w0 rows ≤ y.len →
          ∃ t q z, exec (.getr d a b e) s = .next t ∧ t.ownCore.fifo = k.fifo ++ [q] ∧ q.kind = .getr ∧ q.rows = rows ∧ q.dstTile = some p
            ∧ q.src = s.reg b ∧ q.voff = voff ∧ q.issuer = s.turn ∧ t.ownCore.tile p = some z ∧ z.st = .filling ∧ z.nfill = y.nfill + 1
            ∧ z.pending = y.pending + gatherBytes w0 rows ∧ z.hold = y.hold ∧ z.rel = y.rel ∧ z.len = y.len
            ∧ t.ownCore.negRow = k.negRow ∧ (d ≠ 0 → t.reg d = {}) ∧ (∀ r : RegNum, r ≠ d → t.reg r = s.reg r) ∧ t.cur.pcc = s.pccNext)))
    ∧ (let c := s.ev.core
      let kc := s.core c
      let keyOf := fun (t : Tile) (i : Nat) => s.tileRead c t (4 * i) 4
      let ended := fun (v : Nat) (q : State → Prop) => ∃ t, exec .camOperationEnd s = .next t ∧ (t.core c).camq = [] ∧ (t.thread u).status = .running
        ∧ (d ≠ 0 → (t.thread u).reg d = untagged (BitVec.ofNat 64 v)) ∧ q t
      (s.thread u).electing = none → (s.thread u).inFrame = false → (s.thread u).wait = some (.cam d) →
      (kc.camq = [.load u d o n base tb] → kc.tileUnder tb o = some x →
        ended (n + ((List.range n).filter (fun i => (List.range i).any (fun j => keyOf x j == keyOf x i))).length * 2 ^ 16)
          (fun t => ∀ i < n, Map.find (t.core c).cam i = some ⟨keyOf x i, (base + i) % 2 ^ 16⟩))
      ∧ (kc.camq = [.probe u d o p n base tb] → kc.tileUnder tb o = some x → kc.tileUnder tb p = some y → s.copying c = false →
        let hits := ((List.range n).filter (fun i => kc.cam.any (fun q => q.2.key == keyOf y i))).length
        ended (hits + min hits (x.len / 4) * 2 ^ 32) (fun t => t.hbm = s.hbm ∧ (t.core c).cam = kc.cam
          ∧ (n = 1 → s.scratch.wf → s.scratch.poison = [] → 4 ≤ x.len → (s.core c).tileOff x + 4 ≤ 2 ^ 21 → ∀ q, kc.cam = [q] → q.2.key = keyOf y 0 → q.2.pos < 2 ^ 16 →
            t.scratch.read (s.tileAddr c x 0) 4 = base % 2 ^ 16 + q.2.pos * 2 ^ 16))))

/-- R318 to R322, R324, R331, R333, R335, R336, R343: the system instructions of a thread that drains nothing and is not speculative. SYSC, BRK and TRAP of a
register that is not zero take their traps; ERET returns to TEPC, in the mode of PMODE, with INTRAP clear; FENCEI empties the instruction cache;
PRMT and RSUM give 2 for a core outside the domain, 3 for the own core, and otherwise park (the order of their statuses, and of those of PMIG, is log entry 17); TLBI (log entry 18) drops the translations of its domain, here
with no line cached in it and no access on its way, and TLBI.wake frees a fault entry of its domain; PMIG gives its status, and a move rewrites the
leaf and the FHOME entries of the page's frames; HALT of a gang gives
2^63, that of a detached thread the number of requests, or parks; DUPC gives the pair statistics of a core of the domain. -/
def Obligations.SystemInstructions : Prop :=
  ∀ (s : State) (d a : RegNum) (imm : BitVec 12) (size : Fin 12) (home : BitVec 10) (dk : Nat) (e : TlbEntry) (f : FaultEntry),
    let h := s.cur
    let k := s.turn.core
    let c := (s.word a).toNat % 2 ^ 16
    let done := fun (i : Instr) (p : State → Prop) => ∃ t, exec i s = .next t ∧ t.cur = { h with pcc := s.pccNext } ∧ p t
    let parks := fun (i : Instr) (w : Wait) => exec i s = .next (s.setCur { h with status := .parked w })
    s.Plain → s.Drained → h.spec = false → s.domainOfCore k = some dk →
    (s.Traps → TakesTrap (.sysc imm) s ⟨.syscall, imm.toNat⟩ ∧ TakesTrap (.brk imm) s ⟨.brk, encodeNat (.brk imm)⟩
      ∧ (s.word a ≠ 0 → TakesTrap (.trap a imm) s ⟨.syscall, imm.toNat⟩))
    ∧ (s.word a = 0 → GoesTo (.trap a imm) s s.pccNext)
    ∧ (h.frame = none → exec .eret s = .next (s.setCur { h with
        pcc := if h.tepc.otype = 15 then h.tepc.withOtype 0 else h.tepc, mode := h.pmode, intrap := false }))
    ∧ (s.released s.turn = true → exec .fencei s = .next ((s.setCore k { s.ownCore with icache := [] }).setCur { h with pcc := s.pccNext }))
    ∧ ((s.core c).contained = false →
      (s.domainOfCore c ≠ some dk → Gives (.prmt d a) s d 2 ∧ Gives (.rsum d a) s d 2)
      ∧ (c = k → Gives (.prmt d a) s d 3 ∧ Gives (.rsum d a) s d 3)
      ∧ (s.domainOfCore c = some dk → c ≠ k → ∀ p ∈ [(Instr.prmt d a, Wait.prmt d c), (.rsum d a, .rsum d c)], exec p.1 s = .next
          ((s.setCore k { s.ownCore with outNext := s.ownCore.outNext + 1 }).setCur { h with status := .parked p.2, sysSeq := s.ownCore.outNext })))
    ∧ ((s.core c).contained = true → s.Traps → TakesTrap (.prmt d a) s ⟨.contained, c⟩ ∧ TakesTrap (.rsum d a) s ⟨.contained, c⟩)
    ∧ (s.released s.turn = true → (∀ j ∈ s.coresIn dk, (s.core j).l1 = [] ∧ (s.core j).wbq = [] ∧ (s.core j).fills = []) →
      s.translated dk (fun _ => true) = false →
      done .tlbiAll (fun t => ∀ j ∈ (s.domain dk).clusters, ∀ x ∈ (t.cluster j).tlb, x.dom ≠ dk)
      ∧ done (.tlbiPg a size) (fun t => ∀ j ∈ (s.domain dk).clusters, ∀ x ∈ (t.cluster j).tlb, x ∈ (s.cluster j).tlb
          ∧ ¬(x.dom = dk ∧ x.va % 2 ^ 57 / sizeBytes size.val = (s.word a).toNat % 2 ^ 57 / sizeBytes size.val)))
    ∧ (s.released s.turn = true →
      (let cl := (s.word a).toNat % 2 ^ 10
      let j := (s.word a).toNat / 2 ^ 10 % 2 ^ 6
      (Map.find (s.cluster cl).faults j = none → GoesTo (.tlbiWake a) s s.pccNext)
      ∧ (Map.find (s.cluster cl).faults j = some f → f.dom = dk →
        done (.tlbiWake a) (fun t => Map.find (t.cluster cl).faults j = none ∧ (t.cluster cl).retryWbs = (s.cluster cl).retryWbs ++ f.held ∧ ∀ i, i ≠ j → Map.find (t.cluster cl).faults i = Map.find (s.cluster cl).faults i))))
    ∧ (let walk := walkFrom s dk (signed57 (s.word a).toNat) 5 (s.domain dk).ptroot.toNat
      let pinned := ∃ y ∈ (s.cluster (pteHome e.pte)).pinned, pteFrame e.pte ≤ 64 * y ∧ 64 * y < pteFrame e.pte + e.size
      (∀ r, walk = .error r → Gives (.pmig d a home) s d 1)
      ∧ (walk = .ok e →
        (pteType e.pte ≠ 0 → Gives (.pmig d a home) s d 1)
        ∧ (pteType e.pte = 0 → pinned ∨ (s.domain dk).holds home.toNat = false → Gives (.pmig d a home) s d 2)
        ∧ (pteType e.pte = 0 → ¬pinned → (s.domain dk).holds home.toNat = true → pteMig e.pte = true → Gives (.pmig d a home) s d 3)
        ∧ (pteType e.pte = 0 → ¬pinned → (s.domain dk).holds home.toNat = true → pteMig e.pte = false →
          (∀ j, (s.cluster j).snoop = []) → ∃ t, exec (.pmig d a home) s = .next t ∧ (d ≠ 0 → t.reg d = {}) ∧ (∀ r : RegNum, r ≠ d → t.reg r = s.reg r) ∧ t.cur.pcc = s.pccNext
            ∧ (let fh := fun i => s.fhome.toNat * 4096 + 2 * (pteFrame e.pte / 4096 + i)
              s.hbm.wf → leafCopies e.pteAddr (pteSize e.pte) = (e.pteAddr, 1) → e.pteAddr + 8 ≤ fh 0 ∨ fh (e.size / 4096) ≤ e.pteAddr →
              t.hbm.read e.pteAddr 8 = (e.pte.toNat - pteHome e.pte * 2 ^ 16 + home.toNat * 2 ^ 16 - e.pte.toNat / 2 ^ 15 % 2 * 2 ^ 15) % 2 ^ 64
              ∧ ∀ i < e.size / 4096, t.hbm.read (fh i) 2 = s.hbm.read (fh i) 2 / 2 ^ 14 * 2 ^ 14 + home.toNat))))
    ∧ (2 ≤ h.gsiz.toNat → Gives (.halt d) s d (BitVec.ofNat 64 (2 ^ 63)))
    ∧ (h.gsiz.toNat < 2 → h.detached = true → (s.ringNeeds s.turn).needs = s.needs →
      (s.ringPending s.turn = 0 → parks (.halt d) (.halt d)) ∧ (s.ringPending s.turn ≠ 0 → Gives (.halt d) s d (BitVec.ofNat 64 (s.ringPending s.turn))))
    ∧ (h.gsiz.toNat < 2 → h.detached = false → ∀ id q, h.task = some id → s.taskOf id = some q → q.commit = none →
      (s.detach.ringNeeds s.turn).needs = s.needs → ∃ t, exec (.halt d) s = .next t ∧ t.cur.detached = true ∧ (t.domain dk).supervisors = (s.domain dk).supervisors ++ [s.turn])
    ∧ (s.domainOfCore c ≠ some dk → Gives (.dupc d a) s d 0 ∧ Gives (.dupcClear d a) s d 0)
    ∧ (s.domainOfCore c = some dk → ∃ n ≤ 15, n = ((List.range 15).filter (fun i => (s.thread ⟨c, i⟩).live && (s.thread ⟨c, i⟩).dup)).length
        ∧ Gives (.dupc d a) s d (BitVec.ofNat 64 ((s.core c).mismatches.toNat + n * 2 ^ 32))
        ∧ ∃ t, exec (.dupcClear d a) s = .next t ∧ (t.core c).mismatches = 0 ∧ t.cur.pcc = s.pccNext
          ∧ (d ≠ 0 → t.reg d = untagged (BitVec.ofNat 64 ((s.core c).mismatches.toNat + n * 2 ^ 32))))

/-- R45, R46, R323: the state registers. Every form gives the old value; CSRW puts the new one into the fields that the mode may write, CSRS and CSRC the
old one with bits set and cleared, and the fields that clear on a one are cleared by the ones of a. Fields that are read-only keep
their values, and so does every other register. A user that would set MODE takes PRIV; TEPC and TVEC hold capabilities, and are
UNDEF in CSRS and CSRC. -/
def Obligations.StateRegisters : Prop :=
  ∀ (s : State) (d a : RegNum) (r : Csr), s.Plain → s.cur.spec = false → s.ownCore.cq.length < 8 → (s.domainOfCore s.turn.core).isSome = true →
    -- INSTRET is read without the reading word itself (log entry 10)
    let old := if r = .instret then s.cur.instret - 1 else s.csrValue s.turn r
    let x := s.word a
    let address := fun (v : Word) (k : Nat) => ((v >>> k <<< k).extractLsb' 0 57).signExtend 64
    let sup := fun (v : Word) => if s.cur.mode then v else old
    let after := fun (v : Word) => match r with
      | .tstat => (old &&& ~~~3) ||| (v &&& 3)
      | .rmode => if v.toNat % 8 < 5 then v &&& 7 else old
      | .fflags => v &&& 0x1F
      | .geom => v
      | .anch => v &&& 0xFFFF
      | .spcf => ((old &&& 2) ||| (v &&& 1)) &&& ~~~(x &&& 2)
      | .mstat => old &&& ~~~(x &&& 0x30)
      | .tcause => sup (v &&& 0x7F)
      | .tval => sup v
      | .lhbase => sup (if v.toNat % 2 ^ 15 < 0x3C00 then old else v &&& 0x7C00)
      | .tilebase => sup (v &&& 0x1FFFC0)
      | .portcfg => sup (v &&& 0x107)
      | .spillq => sup (address v 12)
      | .ddesc => sup (address v 6)
      | .lwin => sup (address v 31)
      | .ptroot => sup (address v 12)
      | .spilla => sup (address v 12)
      | .ctxa => sup (address v 12)
      | .snapa => sup (address v 12)
      | .thermt => sup (address v 6)
      | .tepc | .tvec | .tstamp | .ttie | .thint | .grnk | .gsiz | .fmta | .fmtb | .fmto | .sca | .scb | .cycle
      | .xstat | .clid | .lattol => old
      | .instret => s.csrValue s.turn r
    -- R142: the write of DDESC loads the descriptor, whose bytes 96 to 99 are the domain's rectangle
    let loads := fun (v : Word) (f : Nat → Nat → Prop) => r = .ddesc → s.cur.mode = true →
      ∀ dk y, s.domainOfCore s.turn.core = some dk → s.domRead dk (address v 6).toNat 128 = some y → f dk y
    let puts := fun (i : Instr) (v : Word) =>
      (r = .ddesc → s.cur.mode = true → (s.csrPut .ddesc v x).needs = s.needs) → (loads v (fun dk y => ∀ k < 4, y / 256 ^ (96 + k) % 256 = [(s.domain dk).col, (s.domain dk).row, (s.domain dk).cols, (s.domain dk).rows].getD k 0) →
        ¬(r = .tstat ∧ s.cur.mode = false ∧ v.getLsbD 0 = true) → ∃ t, exec i s = .next t ∧ (d ≠ 0 → t.reg d = untagged old)
        ∧ (∀ q : RegNum, q ≠ d → t.reg q = s.reg q) ∧ t.cur.pcc = s.pccNext ∧ t.csrValue t.turn r = after v
        ∧ (∀ q : Csr, q ≠ r → t.csrValue t.turn q = s.csrValue s.turn q) ∧ t.cur.tepc = s.cur.tepc ∧ t.cur.tvec = s.cur.tvec
        ∧ t.hbm = s.hbm ∧ t.scratch = s.scratch ∧ loads v (fun dk y => (t.domain dk).descr = BitVec.ofNat 1024 y))
      ∧ (r = .tstat → s.cur.mode = false → v.getLsbD 0 = true → s.Traps → TakesTrap i s ⟨.priv, encodeNat i⟩)
    (r ≠ .tepc → r ≠ .tvec → Gives (.csrr d r) s d old ∧ puts (.csrw d r a) x ∧ puts (.csrs d r a) (old ||| x) ∧ puts (.csrc d r a) (old &&& ~~~x))
    ∧ GivesCap (.csrr d .tepc) s d s.cur.tepc ∧ GivesCap (.csrr d .tvec) s d s.cur.tvec
    ∧ (∃ t, exec (.csrw d .tvec a) s = .next t ∧ t.cur.tvec = s.reg a ∧ t.cur.tepc = s.cur.tepc ∧ (d ≠ 0 → t.reg d = s.cur.tvec)
        ∧ (∀ q : RegNum, q ≠ d → t.reg q = s.reg q) ∧ t.cur.pcc = s.pccNext)
    ∧ (∃ t, exec (.csrw d .tepc a) s = .next t ∧ t.cur.tepc = s.reg a ∧ t.cur.tvec = s.cur.tvec ∧ (d ≠ 0 → t.reg d = s.cur.tepc)
        ∧ (∀ q : RegNum, q ≠ d → t.reg q = s.reg q) ∧ t.cur.pcc = s.pccNext ∧ ∀ f, t.cur.frame = some f → f.active = true)
    ∧ (r = .tepc ∨ r = .tvec → s.Traps → TakesTrap (.csrs d r a) s ⟨.undef, encodeNat (.csrs d r a)⟩
        ∧ TakesTrap (.csrc d r a) s ⟨.undef, encodeNat (.csrc d r a)⟩)

/-- R29, R31, R229 to R233: the prefixes. RPT captures the words after it and goes on past them, or parks for a bound frame; the sequencer issues the
next word of the only frame of a core (shown for VAND) with its result on its way, which then writes the register; with its last write the frame ends. ELECT outside a gang goes
on to the word it governs; in a gang the leader does, and the others park. -/
def Obligations.Prefixes : Prop :=
  ∀ (s : State) (l : Fin 16) (n : Fin 128) (sd sa sb sc : BitVec 3) (ws : List (BitVec 32)) (w : Nat) (u : Tid) (f : Frame) (d a b : RegNum)
    (p : Nat × Nat) (br : Barrier),
    let h := s.cur
    let at_ := fun (i : Nat) => s.fetchAt s.turn.core (h.pcc.withAddr ((s.cur.pc + 4 * (i + 1)) % 2 ^ 64))
    (s.Plain → h.poisonPend = [] → ws.length = l.val + 1 →
      (∀ i x, ws[i]? = some x → at_ i = .word x.toNat ∧ bodyWord x.toNat = true ∧ decodeFault h x.toNat = none) →
      let fr : Frame := ⟨ws, [sd.toInt, sa.toInt, sb.toInt, sc.toInt], n.val + 1, 0, 0, h.rmode, h.satn, h.pcc, true, ws.any boundWord, [], none, []⟩
      let next := h.pcc.withAddr ((s.cur.pc + 4 * (l.val + 2)) % 2 ^ 64)
      (ws.any boundWord = false → exec (.rpt l n sd sa sb sc) s = .next (s.setCur { h with frame := some fr, status := .running, pcc := next }))
      ∧ (ws.any boundWord = true → h.spec = false →
        exec (.rpt l n sd sa sb sc) s = .next (s.setCur { h with frame := some fr, status := .parked .frame, pcc := next })))
    ∧ (let x := s.thread u
      let c := u.core
      s.ev.t = u → x.frame = some f → x.dup = false → x.trail = none → x.status = .running → x.inFrame = false → x.rx = [] → f.late = none → f.polled = [] →
      (s.ev.k = 0 → f.active = true → f.bound = false → f.words = [ws.headD 0] → f.word = 0 → f.writes = [] → f.replay < f.count →
        decode (stepWord (ws.headD 0).toNat f.steps f.replay) = .instr (.vand d a b) →
        u.slot < 15 → (s.core c).quiescing = false → (s.core c).landing = [] → (s.thread ⟨c, 15⟩).status ≠ .running → (∀ i < 15, i ≠ u.slot → (s.thread ⟨c, i⟩).frame = none) →
        ∃ t v, exec .repeatWordIssue s = .next t ∧ (d ≠ 0 → v = untagged128 ((x.reg a).val &&& (x.reg b).val))
          ∧ t.thread u = { x with frame := some { f with replay := f.replay + 1, writes := [⟨d, v, x.fflags, (f.replay, 0)⟩] } })
      ∧ (∀ v, s.ev.k = 1 → f.writes = [v] → f.count ≤ f.replay →
        ∃ t, exec .repeatWordIssue s = .next t ∧ (v.d ≠ 0 → (t.thread u).reg v.d = v.v) ∧ (∀ q : RegNum, q ≠ v.d → (t.thread u).reg q = x.reg q)
          ∧ (t.thread u).fflags = x.fflags ||| v.fflags ∧ (t.thread u).frame = none ∧ (t.thread u).pcc = x.pcc ∧ (t.thread u).status = .running
          ∧ t.scratch = s.scratch))
    ∧ (s.Plain → at_ 0 = .word w → electable w = true → decodeFault h w = none → h.spec = false →
      let next := h.pcc.withAddr ((s.cur.pc + 4) % 2 ^ 64)
      let dst := Fin.ofNat 32 (w / 2 ^ 21 % 32)
      (s.barrierOf s.turn = none → exec .elect s = .next (s.setCur { h with electing := some h.pcc, electReg := dst, pcc := next }))
      ∧ (s.barrierOf s.turn = some p → Map.find (s.cluster p.1).bars p.2 = some br → br.broken = none →
        (s.leads br = true → br.post = none → h.electRx = none → ∃ t, exec .elect s = .next t ∧ t.cur = { h with electing := some h.pcc, electReg := dst, pcc := next }
            ∧ Map.find (t.cluster p.1).bars p.2 = some { br with lead := some (s.turn, h.electCount) })
        ∧ (s.leads br = false → exec .elect s = .next (s.setCur { h with electReg := dst, status := .parked .elect }))))

/-- R336 to R340, R344, R345: containment and pre-emption. CNTN contains a rectangle of idle cores of the domain and gives its number, or says by its status why not (the lowest that holds, log entry 17); it releases one, clearing its scratchpads, and describes one. PRMT and RSUM reach a core one after the other, a PRMT that finds another one under
way gives 1, and the oldest is performed. PRMT of a core at rest and without redundant pairs: its threads are saved, keeping
registers and PCC, and it is pre-empted; RSUM begins redelivery, and with nothing left to redeliver its threads go on; a core that is not in the
state that the request needs gives 1. A spilled packet enters the landing buffer once it may. -/
def Obligations.ContainmentAndPreemption : Prop :=
  ∀ (s : State) (d a : RegNum) (dk k : Nat) (r : Rect) (u : Tid) (ch : Chunk) (chs : List Chunk),
      let dom := s.domain dk
      let w := s.word a
      let rw : Rect := ⟨w.toNat % 256, w.toNat / 2 ^ 8 % 256, w.toNat / 2 ^ 16 % 256, w.toNat / 2 ^ 24 % 256⟩
      let c := s.ev.core
      let kc := s.core c
      let answered := fun (i : Instr) (v : Word) (p : State → Prop) => ∃ t, exec i s = .next t ∧ (t.thread u).status = .running
        ∧ (d ≠ 0 → (t.thread u).reg d = untagged v) ∧ (∀ q : RegNum, q ≠ d → (t.thread u).reg q = (s.thread u).reg q) ∧ p t
      (s.Plain → s.Drained → s.cur.spec = false → s.cur.status = .running → s.domainOfCore s.turn.core = some dk →
        (Map.firstFree dom.rects 4 = none → Gives (.cntnContain d a) s d 1)
        ∧ (Map.firstFree dom.rects 4 = some k →
          (dom.leaves rw = true → Gives (.cntnContain d a) s d 2)
          ∧ (dom.leaves rw = false → (∃ e ∈ dom.rects, e.2.overlaps rw = true) → Gives (.cntnContain d a) s d 3)
          ∧ (dom.leaves rw = false → (∀ e ∈ dom.rects, e.2.overlaps rw = false) →
            (rw.holds s.turn.core = true → Gives (.cntnContain d a) s d 4)
            ∧ (rw.holds s.turn.core = false → s.turn.slot < 16 → dom.snap = none → (∀ x ∈ rw.cores, s.liveOn x = [] ∧ x ≠ s.turn.core) →
              ((s.setDomain dk { dom with rects := Map.set dom.rects k rw }).contain dk rw.cores).needs = s.needs →
              ∃ t, exec (.cntnContain d a) s = .next t ∧ (∀ x ∈ rw.cores, (t.core x).contained = true) ∧ Map.find (t.domain dk).rects k = some rw
                ∧ (d ≠ 0 → t.reg d = untagged (BitVec.ofNat 64 (k * 2 ^ 8))) ∧ (∀ q : RegNum, q ≠ d → t.reg q = s.reg q) ∧ t.cur.pcc = s.pccNext)))
        ∧ (Map.find dom.rects (w.toNat % 4) = none → Gives (.cntnRelease d a) s d 1 ∧ Gives (.cntnQuery d a) s d 0)
        ∧ (Map.find dom.rects (w.toNat % 4) = some r →
          Gives (.cntnQuery d a) s d (BitVec.ofNat 64 (r.col + r.row * 2 ^ 8 + r.colsM1 * 2 ^ 16 + r.rowsM1 * 2 ^ 24 + 2 ^ 32))
          ∧ ∃ t, exec (.cntnRelease d a) s = .next t ∧ Map.find (t.domain dk).rects (w.toNat % 4) = none
            ∧ (∀ x ∈ r.cores, (t.core x).contained = false ∧ ∀ o, scratchCore o = x → t.scratch.byte o = 0)
            ∧ (d ≠ 0 → t.reg d = {}) ∧ (∀ q : RegNum, q ≠ d → t.reg q = s.reg q) ∧ t.cur.pcc = s.pccNext))
      ∧ (s.domainOfCore c = some dk → (s.thread u).electing = none → (s.thread u).inFrame = false →
        (s.requestOf c true = some (u, d) →
          (kc.requests = [] → exec .prmtArrival s = .next (s.setCore c { kc with requests := [(true, (u, d))] }))
          ∧ (∀ q, kc.requests = [(true, q)] → answered .prmtArrival 1 (fun t => t.cores = s.cores)))
        ∧ (s.requestOf c false = some (u, d) → exec .rsumArrival s = .next (s.setCore c { kc with requests := kc.requests ++ [(false, (u, d))] }))
        ∧ (kc.requests = [(true, (u, d))] → s.requestOf c true = none → (s.thread u).wait = some (.prmt d c) →
          (kc.preempted = true → answered .prmtArrival 1 (fun t => t.core c = { kc with requests := [] }))
          ∧ (kc.preempted = false → kc.resuming = false → kc.running = none → kc.ops = [] → kc.l1 = [] → kc.wbq = [] → kc.late = [] → kc.engine = [] →
            kc.camq = [] → dom.snap = none →
            (∀ x, (s.cluster x).lineQueue = [] ∧ (s.cluster x).hostReqs = [] ∧ (s.cluster x).peerReqs = [] ∧ (s.cluster x).snoop = []
              ∧ (s.cluster x).atsOn = false) → u.core ≠ c → u.slot < 16 →
            (∀ x ∈ s.liveOn c, let h := s.thread x
              h.status = .running ∧ h.spec = false ∧ h.rx = [] ∧ h.dup = false ∧ h.frame = none ∧ h.lihhNow = none ∧ h.getr = none) →
            answered .prmtArrival 0 (fun t => (t.core c).preempted = true ∧ (t.core c).requests = [] ∧ ∀ x ∈ s.liveOn c, (t.thread x).status = .preempted none
              ∧ (t.thread x).regs = (s.thread x).regs ∧ (t.thread x).pcc = (s.thread x).pcc)))
        ∧ (kc.requests = [(false, (u, d))] → s.requestOf c false = none → (s.thread u).wait = some (.rsum d c) →
          (kc.preempted = false → kc.resuming = false → answered .rsumArrival 1 (fun t => t.core c = { kc with requests := [] }))
          ∧ (kc.preempted = true → kc.resuming = false →
            exec .rsumArrival s = .next (s.setCore c { kc with preempted := false, resuming := true }))
          ∧ (kc.resuming = true → kc.diverted = [] → kc.refusals = [] → u.core ≠ c → u.slot < 16 →
            answered .rsumArrival 0 (fun t => (t.core c).resuming = false ∧ (t.core c).requests = []
              ∧ ∀ x ∈ s.liveOn c, (s.thread x).status = .preempted none → (t.thread x).status = .running
                ∧ (t.thread x).regs = (s.thread x).regs ∧ (t.thread x).pcc = (s.thread x).pcc))))
      ∧ (s.ev.k = 0 → kc.incoming = ch :: chs → clusterOf ch.owner.core = clusterOf c → kc.contained = false → ch.sub = none → kc.preempted = false →
        kc.diverted = [] → kc.landing.length + kc.running.toList.length < 32 →
        ∃ t, exec .spillQueueRetry s = .next t ∧ (t.core c).landing = kc.landing ++ [ch] ∧ (t.core c).incoming = chs)

/-- R346 to R348: errors. An error of memory begins the self-test of its word; a corrected one changes nothing else, one that is not poisons the word and
reports it. Delivery takes the oldest machine check of a domain, and the first live detached supervisor gets it when the ring has room (shown where no
line of the module or its ports is the host's, log entry 55, and no word is poisoned). A test that was begun ends: a pass classes the waiting reports of its unit as transient
and lets the threads that waited for it go on; after a failure a spare takes the unit's place, where Table 15-8 leaves one, and a port's lane is marked;
a core without a spare is fenced and contained, and the reports are classed so. A test that was not begun changes nothing. -/
def Obligations.ErrorEvents : Prop :=
  ∀ (s : State) (sp : Space) (x dk p c : Nat) (inbound : Bool) (m : Mchk) (rest : List Mchk) (u : Tid) (w : TestUnit),
      let tested := s.modLodge (fun l => { l with testing := l.testing.erase w })
      let classed := fun (t : State) (cls : Nat) => ∀ k, (t.domain k).mchks
        = (s.domain k).mchks.map (fun m => if m.isOf w = true ∧ m.cls = 0 then { m with cls := cls } else m)
      let ends := fun (q : State → Prop) => ∃ t, exec .selfTestComplete s = .next t ∧ q t
      (s.ev.site = some (.memory sp x) → s.ev.correctable = true → exec .memoryError s = .next (s.beginTest (some (.memory sp x))))
      ∧ (s.ev.site = some (.memory sp x) → s.ev.correctable = false → ∃ t, exec .memoryError s = .next t
          ∧ NatSet.has (t.store sp).poison (x / 8) = true ∧ (t.store sp).bytes = (s.store sp).bytes ∧ t.threads = s.threads
          ∧ TestUnit.memory sp x ∈ t.lodge.testing
          ∧ (sp = .hbm → s.ev.domain = dk → (t.domain dk).mchks = (s.domain dk).mchks ++ [{ kind := 1, addr := x, phys := true }]))
      ∧ (let ring := (s.domain dk).ctxa.toNat
        s.ev.domain = dk → (s.domain dk).mchks = m :: rest → (s.domain dk).snap = none → (s.devNeeds dk (ring + 0x10) 0x18 false).needs = s.needs →
        (∀ x, (s.cluster x).snoop = [] ∧ (s.cluster x).atsOn = false) → (∀ q, (s.store q).poison = []) → ∃ t, exec .mchkDelivery s = .next t ∧ (t.domain dk).mchks = rest
          ∧ (let prod := (s.domRead dk (ring + 0x10) 8).getD 0
            let cons := (s.domRead dk (ring + 0x18) 8).getD 0
            (prod + 2 ^ 64 - cons) % 2 ^ 64 ≠ 256 → (s.domain dk).supervisors = [u] → (s.thread u).status = .running → (s.thread u).trail = none → (s.thread u).detached = true →
              (t.thread u).pendMchk = (s.thread u).pendMchk ++ [ring + 0x3000 + 64 * (prod % 256)]))
      ∧ (s.ev.unit = some w →
        (w ∉ s.lodge.testing → exec .selfTestComplete s = .next s)
        ∧ (w ∈ s.lodge.testing →
          (s.ev.pass = true → (∀ k, w ≠ .macroCell k) → ends (fun t => classed t 1 ∧ t.lodge = tested.lodge
            ∧ (w = .core c → ∀ i < 16, (s.thread ⟨c, i⟩).status = .parked .selfTest → (t.thread ⟨c, i⟩).status = .running)))
          ∧ (s.ev.pass = false →
            let spared := ends (fun t => classed t 2 ∧ t.lodge.spares = s.lodge.spares ++ [w]
              ∧ t.portsSpare = (if w = .link (.faleus p false) then s.portsSpare ||| ((1 : BitVec 16) <<< p) else s.portsSpare)
              ∧ t.portsSpareIn = (if w = .link (.faleus p true) then s.portsSpareIn ||| ((1 : BitVec 16) <<< p) else s.portsSpareIn))
            (w = .core c → w ∉ s.lodge.spares → spared)
            ∧ (w = .link (.faleus p inbound) → (if inbound then s.portsSpareIn else s.portsSpare).getLsbD p = false → spared)
            ∧ (w = .memory .scratch x → (s.lodge.spares.filter w.shares).length < 8 → spared)
            ∧ (w = .core c → w ∈ s.lodge.spares → (((tested.unitTested w).classify w 3).fenceCore c).needs = s.needs →
              ends (fun t => (t.core c).contained = true ∧ NatSet.has t.lodge.fencedCores c = true)))))

/-- R353, R355, R362, R364, R369: the snapshot instructions through a capability with Y. SNAP gives 1 while a snapshot runs, 2 when the area has no room or
is not enabled, and otherwise opens a snapshot with the next SEQ, which d holds above bit 31 (shown for a cluster at rest). SNPW gives the SEQ of a
complete snapshot, raises SNAPABORT for an aborted one, gives 1 for an unknown id, and parks while it is under way. SNPQ gives the
progress word with the clusters recorded and the endpoints done, for an aborted snapshot as many as there were when it was aborted. RBCK without such
a snapshot gives 1 (shown where no snapshot runs); to one it stops every other thread of the domain and restores the scratchpads from the core records,
or from the image that the model keeps where those cannot be read (log entry 50; shown for a snapshot that lists no thread, page, queue or packet). The
first snapshot of a domain is a full one whatever SNAP asks for, and done endpoints are counted as said, by log entry 36.
R356, R357, R359 to R361, R363: the events of a snapshot. A further marker is heard; a segment that is copied is copied once, with its bytes; a
PRE line is written back and is clean; the sweep ends when every leaf holds the snapshot's SNAP value, and the domain is locally complete once every
endpoint is done; a child's report counts; with all of them the initiating domain completes; an abort notice aborts. -/
def Obligations.Snapshots : Prop :=
  (∀ (s : State) (d a : RegNum) (full : Bool) (dk : Nat) (sn : Snap) (dom : Domain),
      let h := s.cur
      let id : BitVec 32 := (s.word a).extractLsb' 0 32
      let wrote := fun (t : State) (v : Nat) => (d ≠ 0 → t.reg d = untagged (BitVec.ofNat 64 v)) ∧ (∀ r : RegNum, r ≠ d → t.reg r = s.reg r)
        ∧ t.cur.pcc = s.pccNext
      -- no line is the host's, and no port asks the host for translations (log entry 55)
      let noHost := ∀ x, (s.cluster x).snoop = [] ∧ (s.cluster x).atsOn = false
      s.Plain → s.Drained → h.spec = false → (s.reg a).tag = true → (s.reg a).otype = 0 → (s.reg a).has permY = true →
      (s.reg a).base ≤ (s.reg a).addr → (s.reg a).addr < (s.reg a).top → s.domainOfCore s.turn.core = some dk →
      ((s.domain dk).snap = some sn → sn.phase = .recording ∨ sn.phase = .sweeping ∨ sn.phase = .loc → Gives (.snap d a full) s d 1)
      ∧ ((s.domain dk).snap = none →
        let used := s.snapHeader dk 16 8
        (s.snapHeader dk 4 4 % 2 = 0 ∨ s.snapHeader dk 8 8 < used + 64 → Gives (.snap d a full) s d 2)
        ∧ (s.snapHeader dk 4 4 % 2 = 1 → used + 64 ≤ s.snapHeader dk 8 8 → (s.cluster (clusterOf s.turn.core)).queue = [] →
          (∀ c, (s.core c).mrun = none) → (∀ u, (s.thread u).rx = [] ∧ (s.thread u).dup = false) → noHost →
          ∃ t x, exec (.snap d a full) s = .next t ∧ wrote t ((s.snapHeader dk 24 8 + 1) % 2 ^ 32 * 2 ^ 32) ∧ (t.domain dk).snap = some x
            ∧ x.id = id ∧ x.seq = s.snapHeader dk 24 8 + 1 ∧ x.full = true)
        ∧ (s.directory dk id (fun _ => true) = none → Gives (.snpw d a) s d 1 ∧ Gives (.snpq d a) s d 0)
        ∧ (s.rollbackTo dk id = none → (∀ k, (s.domain k).snap = none) → Gives (.rbck d a) s d 1)
        ∧ (s.rollbackTo dk id = some sn → s.domains = [(dk, dom)] → s.portsUp = 0 → sn.pages = [] → sn.log = [] → sn.image.threads = [] →
          sn.image.queues = [] → sn.image.scratch.wf → s.turn.slot < 16 → h.dup = false → noHost →
          ∃ t, exec (.rbck d a) s = .next t ∧ wrote t 0
            ∧ (∀ u : Tid, u.slot < 16 → u ≠ s.turn → dom.holds (clusterOf u.core) = true →
                (t.thread u).status = .idle ∨ (t.thread u).status = .disabled)
            ∧ ∀ c ∈ dom.cores, (s.core c).contained = false → (Map.find sn.image.cores c).isSome = true → ∀ o, scratchCore o = c →
                match (s.rollbackFence dk).recordScratch dk sn.man c with
                | none => t.scratch.byte o = sn.image.scratch.byte o
                | some r => r.wf → t.scratch.byte o = r.byte o))
      ∧ ((s.domain dk).snap = some sn → sn.id = id →
        (sn.phase = .complete → Gives (.snpw d a) s d (BitVec.ofNat 64 (sn.seq % 2 ^ 32 * 2 ^ 32)))
        ∧ (sn.phase = .aborted → s.Traps → TakesTrap (.snpw d a) s ⟨.snapabort, id.toNat⟩)
        ∧ (sn.phase ≠ .complete → sn.phase ≠ .aborted → exec (.snpw d a) s = .next (s.setCur { h with status := .parked (.snapDone d id) }))
        ∧ (let done := if sn.phase = .loc ∨ sn.phase = .complete then (s.endpoints dk).length
            else sn.done.getD ((s.endpoints dk).filter (s.endpointDone sn)).length
          Gives (.snpq d a) s d (BitVec.ofNat 64 (id.toNat * 2 ^ 32 + sn.phase.code * 2 ^ 25
            + ((s.domain dk).clusters.filter (NatSet.has sn.armed)).length * 2 ^ 14 + done))))
  ) ∧ (
  ∀ (s : State) (dk job y : Nat) (sn : Snap) (l : L1Line) (loc : Loc) (e : TlbEntry),
      let c := s.ev.core
      let k := s.core c
      let home := s.cluster loc.home
      let becomes := fun (i : Instr) (x : Snap) => ∃ t, exec i s = .next t ∧ (t.domain dk).snap = some x
      (∀ x, (s.cluster x).snoop = [] ∧ (s.cluster x).atsOn = false) →
      ((s.domain dk).snap = some sn → s.ev.domain = dk →
        (sn.runs = true →
          (let ep := s.ev.endpoint
          let ch := s.ev.channel
          ep < 0x4000 → s.jobOf dk = some job → ch ∈ s.channelsTo job ep → (s.markerFrom job s.ev.id (ch / 8)).isSome = true →
            s.aheadOfMarker (ch / 8) ep (ch % 8) = false → s.domainOf ep = some dk → sn.id = s.ev.id → (ep, ch) ∉ sn.heard → NatSet.has sn.armed ep = true →
            becomes .snapshotMarker { sn with heard := sn.heard ++ [(ep, ch)] })
          ∧ (sn.swept = false → NatSet.has sn.armed ((s.domain dk).clusterAt 0) = true → (∀ x ∈ s.leaves dk, pteSnap x.pte = sn.seq % 4) →
            becomes .snapshotSweep { sn with swept := true })
          ∧ (sn.swept = true → NatSet.has sn.armed ((s.domain dk).clusterAt 0) = true → (∀ ep ∈ s.endpoints dk, s.endpointDone sn ep = true) →
            becomes .snapshotSweep { sn with phase := .loc }))
        ∧ (sn.phase = .loc → sn.parent = none → (∀ x ∈ s.childrenOf dk sn, NatSet.has sn.reported x = true) →
          becomes .snapshotCompletionNotice { sn with phase := .complete })
        ∧ (sn.phase ≠ .complete → sn.phase ≠ .aborted → s.ev.own = false →
          becomes .snapshotAbortNotice { sn with phase := .aborted, done := some (s.endpointsDone dk sn) })
        ∧ (sn.phase ≠ .complete → sn.phase ≠ .aborted → s.ev.child ∈ s.childrenOf dk sn → 2 ^ 16 ≤ s.ev.child → NatSet.has sn.reported s.ev.child = false →
          becomes .snapshotCompletionReport { sn with reported := NatSet.ins sn.reported s.ev.child }))
      ∧ (s.domainOfCore c = some dk → (s.domain dk).snap = some sn → sn.runs = true →
        let seg := s.ev.seg
        let a := c * 0x8000 + 512 * seg
        NatSet.has (Map.get [] sn.segs c) seg = true → s.scratch.wf → (∀ i < 512, sn.image.scratch.byte (a + i) = 0) →
        ∃ t x, exec .scratchSegmentCopy s = .next t ∧ (t.domain dk).snap = some x ∧ NatSet.has (Map.get [] x.segs c) seg = false
          ∧ (∀ i < 512, x.image.scratch.byte (a + i) = s.scratch.byte (a + i)) ∧ t.scratch = s.scratch)
      ∧ (k.l1 = [(y, l)] → k.wbq = [] → l.pre = true → l.dirty ≠ 0 → l.poison = 0 → s.domainOfCore c = some dk → (s.domain dk).snap = none →
        s.hbm.wf → s.hbm.poison = [] → locate s (clusterOf c) dk (y * 64) { w := true } true = .at loc e → loc.space = .hbm → loc.flat = false → loc.home = clusterOf c →
        home.lines = [] → home.lineQueue = [] → home.faults = [] → home.retryWbs = [] → e.dom = dk → pteDss (BitVec.ofNat 64 (s.hbm.read e.pteAddr 8)) = true →
        ∃ t, exec .preWriteBack s = .next t ∧ (t.core c).l1 = [(y, l.cleaned)] ∧ (t.core c).wbq = []
          ∧ (∀ j < 64, t.hbm.byte (loc.addr + j) = if l.dirty.getLsbD j then l.data.extractLsb' (8 * j) 8 else s.hbm.byte (loc.addr + j))
          ∧ (∀ a, a < loc.addr ∨ loc.addr + 64 ≤ a → t.hbm.byte a = s.hbm.byte a)))

/-- R373 to R380: the host port. While BOOT reads 1 the registers of BAR0 and the route table address are written and the ingress buffer takes a
record of 64 bytes, or counts it as dropped when 64 wait or as partial when it is not made of aligned units. What the host sends ends K3, and in K4, or
while the module leaves it, is held for the time when BOOT reads 1; in K4 it starts the resume form of bring-up (R388, R394). A write that comes at another
time when BOOT does not read 1 does nothing, which is the model's reading (log entry 38). The buffer's head is too wide, has no tiebreak left, or goes to
its place (R141) with a tiebreak and its timestamp raised to the frontier. A translation that was asked for enters the ATS cache and its threads issue again; an invalidation clears its
range and completes once no access in flight uses it; a page request ends by its PRI response. The host's answer to a request brings the line with the state it
grants; snoops give shared, nothing, or the state as it was. -/
def Obligations.HostPort : Prop :=
  ∀ (s : State) (dk : Nat) (r : TaskRec) (rest : List TaskRec) (a : AtsEntry) (x y : Nat) (f : FaultEntry) (v : BitVec 512) (k : Nat) (w : WriteBack)
      (hreqs : List HostReq) (i : Instr),
      let e := s.ev
      let d := s.domain dk
      let cl := e.cluster
      let c := s.cluster cl
      let becomes := fun (i : Instr) (p : State → Prop) => ∃ t, exec i s = .next t ∧ p t
      let sent := [Instr.translationCompletion, .atsInvalidationRequest, .priSuccess, .priInvalidRequest, .priResponseFailure, .hostCompletion, .snpData,
        .snpInv, .snpCur, .backInvalidateResponse]
      let written := [Instr.barRegisterWrite, .routeWrite, .partialClear, .ingressRecordWrite]
      let held : State := { s with held := s.held ++ [.event i e] }
      let leaves := s.lodge.boot = 0 ∧ (s.lodge.k = 4 ∨ s.lodge.waking = true)
      let awake : State := if s.lodge.k = 3 then { s with lodge := { s.lodge with k := 0 } } else s
      (s.lodge.boot = 1 →
        (e.offset = 0x00 → becomes .barRegisterWrite (fun t => t = { awake with devnum := e.value.extractLsb' 0 13, barWritten := t.barWritten }))
        ∧ (e.offset = 0x08 → becomes .barRegisterWrite (fun t => t = { awake with fabbase := e.value.extractLsb' 52 12, barWritten := t.barWritten }))
        ∧ (e.offset = 0x18 → exec .barRegisterWrite s = .next { awake with fhome := e.value.extractLsb' 12 27 })
        ∧ becomes .routeWrite (fun t => t = { awake with routeT := e.value.extractLsb' 12 27, barWritten := t.barWritten })
        ∧ (s.windowOf e.window = some dk →
          exec .partialClear s = .next (awake.setDomain dk { d with partialSticky := false })
          ∧ (e.offset < 0x800 → e.bytes ≠ [] →
            (e.offset % 64 ≠ 0 ∨ e.bytes.length % 64 ≠ 0 →
              exec .ingressRecordWrite s = .next (awake.setDomain dk { d with partials := d.partials + 1, partialSticky := true }))
            ∧ (e.offset % 64 = 0 → e.bytes.length = 64 →
              (d.ingress.length < 64 → ∃ r, becomes .ingressRecordWrite (fun t => (t.domain dk).ingress = d.ingress ++ [r])
                ∧ r.tags = 0 ∧ ∀ i b, e.bytes[i]? = some b → r.bytes.extractLsb' (8 * i) 8 = b)
              ∧ (64 ≤ d.ingress.length → exec .ingressRecordWrite s = .next (awake.setDomain dk { d with dropped := d.dropped + 1 }))))))
      ∧ (s.lodge.boot ≠ 1 → ¬leaves → i ∈ written → exec i s = .next s)
      ∧ (i ∈ sent ++ written →
        (¬leaves → i ∈ sent ∨ s.lodge.boot = 1 → s.lodge.k = 3 → becomes i (fun t => t.lodge.k = 0))
        ∧ (leaves → (s.lodge.k ≠ 3 → s.lodge.k ≠ 4 ∨ s.lodge.step ≠ 0 → exec i s = .next held)
          ∧ (s.lodge.k = 4 → s.lodge.step = 0 → becomes i (fun t => t.held = held.held ∧ t.lodge.boot = 0 ∧ t.lodge.step = 1 ∧ t.lodge.k = 0
            ∧ t.lodge.resuming = true ∧ t.lodge.waking = true))))
      ∧ (e.domain = dk → d.ingress = r :: rest → d.ingressHead = none →
        let own := d.clusterAt 0
        let up := d.raiseTs (wordOf (r.get 0 8))
        (r.tooWide = true → exec .ingressEnqueue s = .next (s.setDomain dk { d with ingress := rest, wide := d.wide + 1 }))
        ∧ (r.tooWide = false → s.tiebreak dk own 0 = none → becomes .ingressEnqueue (fun t => (t.domain dk).ingress = rest
            ∧ (t.domain dk).exhausted = d.exhausted + 1))
        ∧ (r.tooWide = false → (∀ y, (s.cluster y).snoop = [] ∧ (s.cluster y).atsOn = false) → ∀ n tb, s.tiebreak dk own 0 = some (n, tb) →
          let place := s.place dk own (r.withTs up)
          (r.nohint = false → place = d.clusterAt (r.hint * 40503 % 65536 % d.count))
          ∧ (r.nohint = true → (s.cluster own).queue.length < 1536 → place = own)
          ∧ becomes .ingressEnqueue (fun t => ∃ g,
            (t.cluster place).flying = (s.cluster place).flying ++ [g] ∧ g.rcd = r.withTs up ∧ g.vt = ⟨up, tb⟩ ∧ g.target = place ∧ g.wait = true
            ∧ (t.cluster own).ctr = BitVec.ofNat 54 n ∧ (t.domain dk).ingress = d.ingress)))
      ∧ (s.lodge.k < 3 → s.lodge.waking = false →
        (e.e = some a → a.size ≤ 2 ^ 30 → c.asked = [(a.pasid, x)] → a.va ≤ x → x < a.va + a.size → becomes .translationCompletion (fun t =>
          (t.cluster cl).asked = [] ∧ (∃ l, (t.cluster cl).ats = a :: l ∧ (∀ b ∈ l, b ∈ c.ats) ∧ l.length < 1024)
          ∧ ∀ u : Tid, u.slot < 16 → clusterOf u.core = cl → (s.thread u).status = .parked .ats → (s.thread u).inFrame = false →
            (t.thread u).status = .running ∧ (t.thread u).regs = (s.thread u).regs ∧ (t.thread u).pcc = (s.thread u).pcc))
      ∧ (e.e = some a → c.asked = [] → exec .translationCompletion s = .next s)
      ∧ becomes .atsInvalidationRequest (fun t =>
          (∀ k ∈ s.pasidClusters e.pasid, ∀ b ∈ (t.cluster k).ats, b.pasid = e.pasid → e.va + e.size ≤ b.va ∨ b.va + b.size ≤ e.va)
          ∧ (s.invalidations = [] → (∀ k, (s.cluster k).hostReqs = [] ∧ (s.cluster k).peerReqs = []) →
            ((∀ b ∈ s.threads, b.2.wait.bind Wait.translatedVa = none) → (∀ b ∈ s.cores, b.2.fills = [] ∧ ∀ q ∈ b.2.inflight, q.2.asked = none) →
              t.hostOut = s.hostOut ++ [.invalidationCompletion e.pasid e.va e.size])
            ∧ (∀ u z, u.slot < 16 → (tkey u, s.thread u) ∈ s.threads → (s.thread u).wait.bind Wait.translatedVa = some z → e.va ≤ z → z < e.va + e.size →
                clusterOf u.core ∈ s.pasidClusters e.pasid → t.hostOut = s.hostOut)))
      ∧ (Map.find c.faults e.entry = some f → f.ats = true →
        becomes .priSuccess (fun t => Map.find (t.cluster cl).faults e.entry = none ∧ (t.cluster cl).retryWbs = c.retryWbs ++ f.held)
        ∧ becomes .priInvalidRequest (fun t => ∃ g, Map.find (t.cluster cl).faults e.entry = some g
            ∧ g = { f with ats := false, posted := g.posted, reason := 2 })
        ∧ becomes .priResponseFailure (fun t => (t.cluster cl).priStopped = true ∧ ∃ g, Map.find (t.cluster cl).faults e.entry = some g
            ∧ g = { f with ats := false, posted := g.posted, reason := 2 }))
      ∧ becomes .priEnable (fun t => ∀ k, (t.cluster k).priStopped = false)
      ∧ (s.host.wf → e.data = some v →
        (c.hostReqs = .shared y :: hreqs → becomes .hostCompletion (fun t => (t.cluster cl).hostReqs = hreqs
          ∧ Map.find (t.cluster cl).hostLines y = some (if e.exclusive then .e else .s)
          ∧ (∀ i < 64, t.host.byte (64 * y + i) = v.extractLsb' (8 * i) 8) ∧ ∀ p, p < 64 * y ∨ 64 * y + 64 ≤ p → t.host.byte p = s.host.byte p))
        ∧ (c.hostReqs = .ownLine y :: hreqs → becomes .hostCompletion (fun t => (t.cluster cl).hostReqs = hreqs
          ∧ Map.find (t.cluster cl).hostLines y = some .e ∧ ∀ i < 64, t.host.byte (64 * y + i) = v.extractLsb' (8 * i) 8))
        ∧ (c.hostReqs = .write k w (64 * y) :: hreqs → w.l.dirty = BitVec.allOnes 64 → becomes .hostCompletion (fun t =>
            (t.cluster cl).hostReqs = hreqs ∧ Map.find (t.cluster cl).hostLines y = none
            ∧ ∀ i < 64, t.host.byte (64 * y + i) = w.l.data.extractLsb' (8 * i) 8)))
      ∧ (let snoops := fun (i : Instr) (g : Mesi → Option Mesi) => becomes i (fun t =>
            (∀ k, Map.find (t.cluster k).hostLines e.line = (Map.find (s.cluster k).hostLines e.line).bind g)
            ∧ (∀ k z, z ≠ e.line → Map.find (t.cluster k).hostLines z = Map.find (s.cluster k).hostLines z)
            ∧ t.hostOut = s.hostOut ++ [.snoopAnswer e.line (s.clusters.any (fun b => (Map.find b.2.hostLines e.line).isSome))])
        snoops .snpData (fun _ => some .s) ∧ snoops .snpInv (fun _ => none) ∧ snoops .snpCur some))

/-- R102, R119, R347, R373, R381 to R385, R388: accesses of the host and of other modules to this module's memory, and the Faleus links. Above the memory
they do nothing. What comes while the module leaves K4 is held (R388); before BOOT reads 1 otherwise an access of the host does nothing, which is the
model's event convention (log entries 1 and 38), as is the end of K3 by any of them. A host read gives the line's committed value and enters it in its home's snoop filter; a full filter recalls its oldest
line first. A write changes its own bytes only (shown where no task conflicts). A back-invalidate response frees the line. A peer access needs the
permission of FHOME, and LDE and STF are refused as those of a host page; before DEVNUM, FABBASE and ROUTE are written none is answered. A lane's first
failure takes the spare of its direction, the next one fences the link (shown where the abort of no snapshot lacks a line, log entry 55).
R301: the flow layer. The packet that its flow waits for is delivered, with those that it releases, in the order of their numbers; an
early one waits in the reorder buffer, or is answered with retry when the 32 entries of its plane are taken. A packet whose credits fail moves to the
escape channel, and so does one that is sent again. R384: one for another module goes on, by the port or the escape port of its route byte. -/
def Obligations.FabricAccesses : Prop :=
  (∀ (s : State) (o k : Nat) (os : List Nat) (c : Cluster) (n p : Nat) (bytes : List Byte) (op : PeerOp) (mo : MemOp) (pub : Publish)
      (what : Carried),
      let e := s.ev
      let a := e.addr
      let line := a / 64 * 64
      let home := (s.fhomeOf line).1
      let h := s.cluster home
      let quiet := fun (x : Nat) => ∀ b, s.leafOf x = some b → pteDss (wordOf (s.hbm.read b.pteAddr 8)) = true ∧ (s.domain b.dom).snap = none
      let becomes := fun (i : Instr) (q : State → Prop) => ∃ t, exec i s = .next t ∧ q t
      let leaves := s.lodge.boot = 0 ∧ (s.lodge.k = 4 ∨ s.lodge.waking = true)
      let awake : State := if s.lodge.k = 3 then { s with lodge := { s.lodge with k := 0 } } else s
      let spare := fun (t : State) (inbound : Bool) => if inbound then t.portsSpareIn else t.portsSpare
      let wrote := fun (t : State) (x : Nat) (l : List Byte) => (∀ i b, l[i]? = some b → t.hbm.byte (x + i) = b)
        ∧ (∀ z, z < x ∨ x + l.length ≤ z → t.hbm.byte z = s.hbm.byte z) ∧ t.hbm.full = s.hbm.full
        ∧ (∀ g, x < 16 * g + 16 → 16 * g < x + l.length → NatSet.has t.hbm.tags g = false)
      (s.lodge.boot ≠ 1 ∧ ¬leaves ∨ hbmTop ≤ a → exec .hostMemWrite s = .next s ∧ exec .hostMemRead s = .next s)
      ∧ (leaves → s.lodge.waking = true → s.lodge.k < 3 → a < hbmTop → e.bytes ≠ [] → ∀ i ∈ [Instr.hostMemWrite, .hostMemRead],
          exec i s = .next { s with held := s.held ++ [.event i e] })
      ∧ (s.lodge.boot = 1 → line < hbmTop → NatSet.has h.biWait (line / 64) = false →
        ((Map.find h.snoop (line / 64)).isSome = true ∨ h.snoop.length < 32768 → ∃ po : BitVec 8, becomes .hostMemRead (fun t =>
          t.hostOut = s.hostOut ++ [.memData line (BitVec.ofNat 512 ((s.committed home line).getD (s.hbm.read line 64))) po]
          ∧ Map.find (t.cluster home).snoop (line / 64) = some (if e.exclusive then .e else .s) ∧ t.hbm = s.hbm)
          ∧ ∀ i : Nat, i < 8 → po.getLsbD i = NatSet.has s.hbm.poison (line / 8 + i))
        ∧ (Map.find h.snoop (line / 64) = none → 32768 ≤ h.snoop.length → h.snoopOld = o :: os → NatSet.has h.biWait o = false →
          becomes .hostMemRead (fun t => t.hostOut = s.hostOut ++ [.biSnpInv o] ∧ t.hbm = s.hbm)))
      ∧ (s.lodge.boot = 1 → a < hbmTop → e.bytes ≠ [] → e.bytes.length ≤ 64 - a % 64 →
        let home := (s.fhomeOf a).1
        s.outsideVictims home line = [] → quiet line → s.hbm.wf → s.hbm.poison = [] → becomes .hostMemWrite (fun t => wrote t a e.bytes))
      ∧ (¬leaves → s.clusters.find? (fun b => NatSet.has b.2.biWait e.line) = some (k, c) →
        (e.data = none → becomes .backInvalidateResponse (fun t => t.hbm = s.hbm ∧ Map.find (t.cluster k).snoop e.line = none
          ∧ NatSet.has (t.cluster k).biWait e.line = false ∧ ∀ z, z ≠ e.line → Map.find (t.cluster k).snoop z = Map.find c.snoop z))
        ∧ (∀ v, e.data = some v → c.lines = [] → (s.cluster (s.fhomeOf (64 * e.line)).1).lines = [] → quiet (64 * e.line) → s.hbm.wf → s.hbm.poison = [] →
          becomes .backInvalidateResponse (fun t => Map.find (t.cluster k).snoop e.line = none
            ∧ wrote t (64 * e.line) ((List.range 64).map (fun i => v.extractLsb' (8 * i) 8)))))
      ∧ (¬leaves → s.barWritten ≠ 7 → exec .peerAccess s = .next awake)
      ∧ (¬leaves → s.barWritten = 7 →
        let replies := fun (st v : Nat) => exec .peerAccess s = .next { awake with hostOut := s.hostOut ++ [.peerReply st v 0] }
        (e.op = some op → hbmTop ≤ a ∨ (s.fhomeOf a).2 = false → replies 1 0)
        ∧ (a < hbmTop → (s.fhomeOf a).2 = true →
          (e.op = some (.access mo pub) → mo.needsFullBit = true → replies 2 0)
          ∧ (Map.find (s.cluster (s.fhomeOf a).1).snoop (a / 64) = none → s.hbm.poison = [] →
            (e.op = some (.read n) → a % 64 + n ≤ 64 → s.committed (s.fhomeOf a).1 line = none → replies 0 (s.hbm.read a n))
            ∧ (e.op = some (.write bytes what) → a % 64 + bytes.length ≤ 64 → s.domains = [] → s.outsideVictims (s.fhomeOf a).1 line = [] → s.hbm.wf →
              becomes .peerAccess (fun t => t.hostOut = s.hostOut ++ [.peerReply 0 0 0] ∧ wrote t a bytes)))))
      ∧ (e.port = p → p < 16 →
        ((spare s e.inbound).getLsbD p = false → becomes .linkLaneFailure (fun t =>
          t = { s with portsSpare := t.portsSpare, portsSpareIn := t.portsSpareIn, lodge := t.lodge }
          ∧ (spare t e.inbound).getLsbD p = true ∧ (∀ q : Nat, q ≠ p → (spare t e.inbound).getLsbD q = (spare s e.inbound).getLsbD q)
          ∧ spare t (!e.inbound) = spare s (!e.inbound) ∧ t.lodge.spares = s.lodge.spares ++ [.link (.faleus p e.inbound)]))
        ∧ ((spare s e.inbound).getLsbD p = true → s.portsFenced.getLsbD p = false → (s.fenceLink p).needs = s.needs →
          becomes .linkLaneFailure (fun t => t.portsFenced.getLsbD p = true))
        ∧ ((spare s e.inbound).getLsbD p = true → s.portsFenced.getLsbD p = true → exec .linkLaneFailure s = .next s))
  ) ∧ (
  ∀ (s : State) (p q : FlowPacket) (dev : Nat),
      let n := s.flowNext p
      let route := (s.hbm.byte (s.routeT.toNat * 4096 + dev)).toNat
      s.ev.p = some p → flowPlane p.plane = true →
      (p.dev = some dev → dev ≠ s.devnum.toNat → s.barWritten = 7 → 128 ≤ route →
        let sent := fun (s : State) (port : Nat) (escape : Bool) => { s with hostOut := s.hostOut ++ [.forward port p.src p.dst dev p.plane p.seq escape] }
        (p ∉ s.escaped → s.portsFenced.getLsbD (route % 16) = false → exec .flowPacketArrival s = .next (sent s (route % 16) false))
        ∧ (s.portsFenced.getLsbD (2 * (route / 16 % 8)) = false →
          (p ∈ s.escaped → exec .flowPacketArrival s = .next (sent s (2 * (route / 16 % 8)) true))
          ∧ (p ∉ s.escaped → n ≤ p.seq → exec .escapeTimeout s = .next (sent { s with escaped := s.escaped ++ [p] } (2 * (route / 16 % 8)) true))))
      ∧ (p ∈ s.retries → ∃ t, exec .retryResend s = .next t ∧ t.escaped = s.escaped ++ [p] ∧ p ∉ t.retries)
      ∧ (p.dev = none ∨ p.dev = some (s.devnum.toNat) →
      (p ∉ s.reorder →
        (p.seq = n → (∀ b ∈ s.reorder, b.sameFlow p = true → b.seq ≠ n + 1) → ∃ t, exec .flowPacketArrival s = .next t
          ∧ t.delivered = [p] ∧ t.flowNext p = n + 1 ∧ t.reorder = s.reorder)
        ∧ (p.seq = n → s.reorder = [q] → q.sameFlow p = true → q.seq = n + 1 → ∃ t, exec .flowPacketArrival s = .next t
          ∧ t.delivered = [p, q] ∧ t.flowNext p = n + 2 ∧ t.reorder = [])
        ∧ (n < p.seq → p.seq < n + 32 →
          ((s.reorder.filter (fun b => b.dst == p.dst && b.plane == p.plane)).length < 32 → ∃ t, exec .flowPacketArrival s = .next t
            ∧ t.delivered = [] ∧ t.reorder = s.reorder ++ [p] ∧ t.flowNext p = n)
          ∧ (32 ≤ (s.reorder.filter (fun b => b.dst == p.dst && b.plane == p.plane)).length → ∃ t, exec .flowPacketArrival s = .next t
            ∧ t.delivered = [] ∧ t.reorder = s.reorder ∧ p ∈ t.retries)))
      ∧ (p.seq < n → exec .flowPacketArrival s = .next s)
      ∧ (p ∉ s.escaped → n ≤ p.seq → exec .escapeTimeout s = .next { s with escaped := s.escaped ++ [p] })))

/-- R373, R387 to R389, Table 18-1, Table 18-3: TH, the power states and the limit. TH takes TH1 from 60 to 100 and TH2 from TH1 + 5 to 110. LATTOL and the entry conditions choose
the deepest state: K4 keeps the Lodge and the host port only, K3 leaves everything, K2 power-gates idle clusters of no domain and leaves
the others, K1 gates clocks; how long a cluster has been idle is its own (log entry 38). A wake ends a gating, K3, or K4, whose resume starts at step 1.
LATTOL's write is held while the module leaves K4, and does nothing at another time when BOOT does not read 1 (log entry 38). The limit begins above 2,800 W and ends below 2,700 W.
R163, R390, R391: thermal control. A reading of 115 degrees trips the module and enters the Lodge's log; above TH2 every idle slot of the cluster is disabled; below, the
reading is kept. Between, one slot at a time, none while a task waits for room, which is marked so: an idle one first; a running task that may leave is displaced, its context going to the coolest cluster of its
domain, where it takes a free slot and goes on. The ranking orders all clusters coolest first, equal ones by number. -/
def Obligations.PowerAndThermal : Prop :=
  (∀ (s : State) (g : Nat),
      let e := s.ev
      let l := s.lodge
      let a := e.value.toNat % 256
      let b := e.value.toNat / 256 % 256
      let good := decide (60 ≤ a) && decide (a ≤ 100) && decide (a + 5 ≤ b) && decide (b ≤ 110)
      let tol := s.lattol.toNat % 2 ^ 32
      let deepest := s.domains = [] ∧ 150000000 ≤ tol
      let third := s.mayK3 e.quietUs = true ∧ 2000000 ≤ tol
      (good = true → exec .thWrite s = .next { s with lodge := { l with th := e.value.extractLsb' 0 16 } })
      ∧ (good = false → exec .thWrite s = .next s)
      ∧ (l.boot ≠ 1 ∨ l.k = 4 → exec .powerStateEvaluate s = .next s)
      ∧ (l.boot = 1 → l.k ≠ 4 → ∃ t, exec .powerStateEvaluate s = .next t
        ∧ (deepest → t.lodge.k = 4 ∧ t.lodge.boot = 0 ∧ t.threads = [] ∧ t.cores = [] ∧ t.clusters = [] ∧ t.hbm = {} ∧ t.scratch = {} ∧ t.carved = {}
          ∧ t.host = s.host ∧ t.devnum = s.devnum ∧ t.fabbase = s.fabbase ∧ t.routeT = s.routeT ∧ t.fhome = s.fhome ∧ t.lattol = s.lattol)
        ∧ (¬deepest → third → t = { s with lodge := { l with k := 3 } })
        ∧ (¬deepest → ¬third → 40000 ≤ tol → t.lodge.k = 2 ∧ t.domains = s.domains ∧ t.hbm = s.hbm
          ∧ (∀ c < 1024, 100 ≤ s.idleUs c e.quietUs → s.domainOf c = none → s.clusterIdle c = true → t.cluster c = {}
            ∧ (∀ o, clusterOf (scratchCore o) = c → t.scratch.byte o = 0) ∧ ∀ o, o / carveMax = c → t.carved.byte o = 0)
          ∧ (∀ c, s.domainOf c ≠ none → t.cluster c = s.cluster c ∧ ∀ o, clusterOf (scratchCore o) = c → t.scratch.byte o = s.scratch.byte o))
        ∧ (2000 ≤ tol → tol < 40000 → t = { s with lodge := { l with k := 1, clockGated := t.lodge.clockGated, powerGated := [] } }
          ∧ ∀ c, c ∈ t.lodge.clockGated ↔ c < 1024 ∧ 10 ≤ s.idleUs c e.quietUs ∧ s.clusterIdle c = true)
        ∧ (tol < 2000 → t = { s with lodge := { l with k := 0, clockGated := [], powerGated := [] } }))
      ∧ (e.gated = some g → ∃ t, exec .wakeEvent s = .next t ∧ NatSet.has t.lodge.clockGated g = false ∧ NatSet.has t.lodge.powerGated g = false
          ∧ t.lodge.k = l.k ∧ t.threads = s.threads)
      ∧ (e.gated = none →
        (l.k = 3 → exec .wakeEvent s = .next { s with lodge := { l with k := 0 } })
        ∧ (l.k = 4 → l.boot = 0 → l.step = 0 → ∃ t, exec .wakeEvent s = .next t ∧ t.lodge.on = true ∧ t.lodge.resuming = true ∧ t.lodge.waking = true ∧ t.lodge.step = 1
          ∧ t.lodge.boot = 0 ∧ t.lodge.k = 0 ∧ t.held = s.held)
        ∧ (l.k < 3 → exec .wakeEvent s = .next s))
      ∧ (l.boot ≠ 1 → ¬(l.boot = 0 ∧ (l.k = 4 ∨ l.waking = true)) → exec .lattolWrite s = .next s)
      ∧ (l.boot = 0 → l.waking = true → l.k < 3 → exec .lattolWrite s = .next { s with held := s.held ++ [.event .lattolWrite e] })
      ∧ (l.boot = 0 → l.k = 4 → l.step = 0 → ∃ t, exec .lattolWrite s = .next t ∧ t.held = s.held ++ [.event .lattolWrite e] ∧ t.lodge.step = 1
          ∧ t.lodge.waking = true ∧ t.lattol = s.lattol)
      ∧ (l.boot = 1 → ∃ t, exec .lattolWrite s = .next t ∧ t.lattol = BitVec.ofNat 64 (e.value.toNat % 2 ^ 32)
          ∧ (e.value.toNat % 2 ^ 32 < 2000 → t.lodge.k = 0 ∧ t.threads = s.threads))
      ∧ ∃ t, exec .powerWindow s = .next t ∧ t = { s with lodge := { l with milliwatts := e.milliwatts, limiting := t.lodge.limiting } }
        ∧ (l.limiting = false → (t.lodge.limiting = true ↔ 2800000 < e.milliwatts ∧ 75 ≤ e.dutyPercent ∧ 75 ≤ e.utilPercent))
        ∧ (l.limiting = true → (t.lodge.limiting = false ↔ e.milliwatts < 2700000))
  ) ∧ (
  ∀ (s : State) (c dk : Nat) (x : Int) (u : Tid) (h : Thread) (hs : List Thread),
      let e := s.ev
      let l := s.lodge
      let cl := e.cluster
      let k := s.core u.core
      let hu := s.thread u
      (e.temps = [(c, x)] → 1840 ≤ x → ∃ t, exec .thermalReading s = .next t ∧ t.lodge.boot = 3 ∧ t.lodge.k = 4 ∧ t.threads = [] ∧ t.hbm = {}
        ∧ t.scratch = {} ∧ t.host = s.host ∧ (l.temps = [] → t.lodge.log = l.log ++ [.trip c x]))
      ∧ (e.temps = [(c, x)] → e.rosc = [] → e.vmon = [] → l.temps = [] → x < 1840 → c < 1024 →
        (x ≤ l.th2 → (s.cluster c).queue = [] → exec .thermalReading s = .next { s with lodge := { l with temps := [(c, x)] } })
        ∧ (l.th2 < x → (∀ i < 64, ∀ j < 15, (s.thread ⟨64 * c + i, j⟩).status = .idle) → ∃ t, exec .thermalReading s = .next t
          ∧ (∀ i < 64, ∀ j < 15, (t.thread ⟨64 * c + i, j⟩).status = .disabled) ∧ t.lodge.temp c = x))
      ∧ (l.temp cl ≤ l.th1 → exec .slotDisable s = .next s)
      ∧ (l.th1 < l.temp cl → s.gangWaits cl = true → ∃ t, exec .slotDisable s = .next t ∧ t.threads = s.threads
        ∧ ∀ j y, Map.find (s.cluster cl).queue j = some y →
          Map.find (t.cluster cl).queue j = some (if j ∈ s.roomless cl then { y with roomed := true } else y))
      ∧ (l.th1 < l.temp cl → s.gangWaits cl = false → u.slot < 15 → u.core < 64 * cl + 64 → 64 * cl ≤ u.core →
        (e.t = u → hu.status = .idle → exec .slotDisable s = .next (s.setThread u { status := .disabled }))
        ∧ ((∀ i < 64, ∀ j < 15, (⟨64 * cl + i, j⟩ : Tid) ≠ u → (s.thread ⟨64 * cl + i, j⟩).status = .disabled) → hu.status = .running → hu.spec = false →
          hu.dup = false → hu.trail = none → hu.rx = [] → hu.domain = some dk → s.mayDisable u = true → k.preempted = false → k.quiescing = false → s.owed u.core = [] → k.ops = [] → k.l1 = [] → k.wbq = [] →
          (∀ b ∈ s.clusters, b.2.lineQueue = [] ∧ b.2.hostReqs = [] ∧ b.2.peerReqs = []) →
          hu.cmdsOut = 0 → hu.frame = none → hu.lihhNow = none → hu.getr = none → hu.blockBuf = [] → hu.past = false →
          ∃ t, exec .slotDisable s = .next t ∧ t.thread u = { status := .disabled }
            ∧ (t.cluster (s.coolest dk)).contexts = (s.cluster (s.coolest dk)).contexts ++ [hu]))
      ∧ (l.temp cl < l.th1 - 80 → clusterOf e.t.core = cl → e.t.slot < 16 → (s.thread e.t).status = .disabled →
        exec .slotEnable s = .next (s.setThread e.t {}))
      ∧ (l.th1 - 80 ≤ l.temp cl → exec .slotEnable s = .next s)
      ∧ ((s.cluster cl).contexts = h :: hs →
        ((∀ i < 64, s.freeSlots cl i h.dup = []) → exec .contextMessageArrival s = .next s)
        ∧ ((∃ i < 64, s.freeSlots cl i h.dup ≠ []) → (∀ y, h.domain = some y → s.contextRoom cl y h = true) → h.status = .running → ∃ t v, exec .contextMessageArrival s = .next t ∧ (s.thread v).status = .idle ∧ v.core / 64 = cl
          ∧ (t.thread v).regs = h.regs ∧ (t.thread v).pcc = h.pcc ∧ (t.thread v).vt = h.vt ∧ (t.thread v).status = .running
          ∧ (t.cluster cl).contexts = hs))
      ∧ ∃ t, exec .thermalRankingUpdate s = .next t ∧ t.lodge.ranking.length = 1024 ∧ (∀ i < 1024, i ∈ t.lodge.ranking)
        ∧ t.lodge.ranking.Pairwise (fun i j => l.temp i < l.temp j ∨ (l.temp i = l.temp j ∧ i < j)))

/-- R392 to R394: bring-up. Power without bring-up begins step 1 with a new boot count; each step that passes starts the next, step 6 clears the memories, step 5
by its alternate fences the core, step 8 is skipped when it failed at the last boot, and after the last BOOT reads 1; the resume form leaves out steps 4, 5 and 8. A step that fails by its alternate runs its primary; the optional step
8 is recorded as failed; any other ends bring-up with BOOT = 2; in the resume form a full bring-up follows. A reboot is acted on after a failure or a trip only. That a new bring-up opens fenced ports again follows log entry 40. Power
loss leaves the boot records. -/
def Obligations.BringUp : Prop :=
  ∀ (s : State) (i : Instr),
    let e := s.ev
    let l := s.lodge
    let n := l.step
    let entry : BootStep := Map.get {} l.last.steps n
    let starts := fun (i : Instr) (q : State → Prop) => ∃ t, exec i s = .next t ∧ t.lodge.step = 1 ∧ t.lodge.resuming = false ∧ t.lodge.boot = 0
      ∧ t.lodge.last.count = max l.copyA.count l.copyB.count + 1 ∧ t.portsFenced = 0 ∧ t.portsSpare = 0 ∧ t.portsSpareIn = 0 ∧ q t
    (l.on = false → starts .powerOn (fun t => t.lodge.on = true))
    ∧ (l.on = true → exec .powerOn s = .next s)
    ∧ (∃ t, exec .powerLoss s = .next t ∧ t.lodge = { copyA := l.copyA, copyB := l.copyB } ∧ t.threads = [] ∧ t.cores = [] ∧ t.clusters = []
      ∧ t.domains = [] ∧ t.hbm = {} ∧ t.scratch = {} ∧ t.carved = {} ∧ t.devnum = 0 ∧ t.portsUp = 0 ∧ t.host = s.host)
    ∧ (l.boot = 2 ∨ l.boot = 3 → starts .lcmdReboot (fun t => t.hbm = {} ∧ t.threads = []))
    ∧ (l.boot ≠ 2 → l.boot ≠ 3 → exec .lcmdReboot s = .next s)
    ∧ (e.pass = true → n ≠ 0 → ∃ t, exec .bringUpStepEnd s = .next t
      ∧ (8 ≤ n ∨ (n = 7 ∧ l.resuming = true) → t.lodge.boot = 1 ∧ t.lodge.step = 0)
      ∧ (l.resuming = false → n < 7 → t.lodge.step = n + 1 ∧ t.lodge.boot = l.boot)
      ∧ (l.resuming = false → n = 7 → ((l.before 8).failed = false → t.lodge.step = 8)
        ∧ ((l.before 8).failed = true → t.lodge.boot = 1 ∧ t.lodge.step = 0 ∧ (Map.get {} t.lodge.last.steps 8).outcome = 3))
      ∧ (l.resuming = true → n = 3 → t.lodge.step = 6)
      ∧ (n < 9 → Map.get {} t.lodge.last.steps n = { entry with outcome := if entry.alternate then 2 else 1, us := e.us, detail := e.detail })
      ∧ (n = 6 → t.hbm = {} ∧ t.scratch = {} ∧ t.carved = {})
      ∧ (n ≠ 6 → t.hbm = s.hbm ∧ t.scratch = s.scratch ∧ t.carved = s.carved)
      ∧ (n = 5 → entry.alternate = true → (t.core e.core).contained = true ∧ NatSet.has t.lodge.fencedCores e.core = true))
    ∧ ((i = .bringUpStepEnd ∧ e.pass = false) ∨ i = .bringUpWatchdog →
      (n = 0 → exec i s = .next s)
      ∧ (n ≠ 0 → l.resuming = true → starts i (fun t => t.hbm = {} ∧ t.threads = []))
      ∧ (n ≠ 0 → l.resuming = false → ∃ t, exec i s = .next t ∧ t.threads = s.threads ∧ t.hbm = s.hbm
        ∧ (entry.alternate = true → t.lodge.step = n ∧ t.lodge.boot = l.boot ∧ Map.get {} t.lodge.last.steps n
            = { outcome := 5, attempts := entry.attempts + 1, alternate := false, us := e.us, detail := e.detail })
        ∧ (entry.alternate = false → (Map.get {} t.lodge.last.steps n).outcome = 4 ∧ t.lodge.step = 0
          ∧ (n = 8 → t.lodge.boot = 1) ∧ (n ≠ 8 → t.lodge.boot = 2))))
    ∧ (let bit : BitVec 16 := (1 : BitVec 16) <<< e.port
      let opens := decide (e.port < 16) && (decide (l.boot = 1) || decide (n = 8)) && !s.portsFenced.getLsbD e.port
      let up : State := { s with portsUp := s.portsUp ||| bit }
      let spared := fun (t : State) => ((if e.inbound then t.portsSpareIn else t.portsSpare) &&& bit) ≠ 0
      (opens = true →
        (e.spare = false ∨ spared s → exec .faleusPortUp s = .next up)
        ∧ (e.spare = true → ¬spared s → ∃ t, exec .faleusPortUp s = .next t
          ∧ t = { up with portsSpare := t.portsSpare, portsSpareIn := t.portsSpareIn, lodge := t.lodge } ∧ spared t
          ∧ t.lodge.spares = l.spares ++ [.link (.faleus e.port e.inbound)]))
      ∧ (opens = false → exec .faleusPortUp s = .next s))

/-- R15, R40, R45, R392, R393: the module right after reset. BOOT reads 0 and no domain exists; every slot is idle; TH, OMEGAWINS and LHBASE hold their reset values, the
other registers of a thread, a core, a cluster and the host port are zero, every presence bit is set and the arrival phase is 1; the queues, tables and counters are
empty. Where the spec states no reset value (log entries 3 to 7) the value is the model's choice. -/
def Obligations.ResetState : Prop :=
  let s := State.reset
  s.lodge.boot = 0 ∧ s.lodge.k = 0 ∧ s.lodge.th = 0x695F ∧ s.domains = []
  ∧ (∀ t : Tid, (s.thread t).status = .idle ∧ (∀ r : RegNum, (s.thread t).reg r = {} ∧ (s.thread t).presence.getLsbD r.val = true)
    ∧ (s.thread t).mode = false ∧ (s.thread t).intrap = false ∧ (s.thread t).rmode = 0 ∧ (s.thread t).causeCode = 0 ∧ (s.thread t).tval = 0
    ∧ (s.thread t).fflags = 0 ∧ (s.thread t).instret = 0 ∧ (s.thread t).ap = 1 ∧ (s.thread t).lv = 0 ∧ (s.thread t).own = 0 ∧ (s.thread t).inh = 0
    ∧ (s.thread t).cc = [] ∧ (s.thread t).frame = none)
  ∧ (∀ c, (s.core c).cycle = 0 ∧ (s.core c).omegaWins = 0xFF ∧ (s.core c).lhbase = 0x1F ∧ (s.core c).tilebase = 0 ∧ (s.core c).geom = 0
    ∧ (s.core c).anch = 0 ∧ (s.core c).acc = [] ∧ (s.core c).tiles = [] ∧ (s.core c).fifo = [] ∧ (s.core c).contained = false)
  ∧ (∀ c, (s.cluster c).qos = 0 ∧ (s.cluster c).atsOn = false ∧ (s.cluster c).ctr = 0 ∧ (s.cluster c).queue = [] ∧ (s.cluster c).bars = []
    ∧ (s.cluster c).faults = [])
  ∧ s.lattol = 0 ∧ s.devnum = 0 ∧ s.fabbase = 0 ∧ s.routeT = 0 ∧ s.fhome = 0 ∧ s.portsUp = 0
  ∧ (∀ a, s.hbm.byte a = 0 ∧ s.scratch.byte a = 0 ∧ s.hbm.tag a = false ∧ s.scratch.tag a = false ∧ s.hbm.poison = [] ∧ s.scratch.poison = [])

/-- R8, R14, R15, R36, R45, R61, R337, R348: one step. The schedule's next turn is taken: a slot that does not run, or whose core quiesces, does nothing; a running thread takes a waiting
machine check, or fetches the word that its PCC addresses, and parks on a miss; a word that decodes to an instruction that no fault, hazard or frame
stops and that reads no register with poison pending runs as that instruction's exec, with CYCLE moved on and the word counted in INSTRET; another one traps (for a thread in no redundant pair:
RedundantPairs states how a pair issues). An event happens with what takes part in it. With
nothing scheduled the module makes its own move (log entry 1). -/
def Obligations.StepRunsTheDecodedWord : Prop :=
  ∀ (s : State) (t : Tid) (rest : List Turn) (w a : Nat) (as : List Nat) (i : Instr) (e : TrapVal) (ev : EventArgs) (k : Nat) (tn : Turn),
    let h := s.thread t
    let s1 := { s with schedule := rest, turn := t }
    let s2 := s1.takePosition
    (s.schedule = .thread t :: rest → h.dup = false → h.trail = none →
      (h.status ≠ .running → step s = .next s1)
      ∧ ((s.core t.core).quiescing = true → t.slot ≠ 15 → step s = .next s1)
      ∧ (h.status = .running → (s.core t.core).quiescing = false → h.pendMchk = a :: as → h.intrap = false → h.lihhNow = none → t.slot ≠ 15 →
        step s = .next ((s1.dropReads t).setCur ({ (s1.dropReads t).cur with pendMchk := as }.enter ⟨.mchk, a⟩ true h.pcc)))
      ∧ (h.status = .running → (s.core t.core).quiescing = false ∨ t.slot = 15 → h.pendMchk = [] →
        (s1.fetchAt t.core h.pcc = .trap e → step s = .next (s2.raiseAt h.epc e))
        ∧ (s1.fetchAt t.core h.pcc = .miss w → step s = .next (s1.setCur { h with status := .parked (.fetch w) }))
        ∧ (s1.fetchAt t.core h.pcc = .word w →
          (decode w = .undef → step s = .next (s2.raiseAt h.epc ⟨.undef, w⟩))
          ∧ (decode w = .rsvd → w / 2 ^ 23 ≠ 0x1F9 → step s = .next (s2.raiseAt h.epc ⟨.rsvd, w⟩))
          ∧ (decode w = .rsvd → w / 2 ^ 23 = 0x1F9 → step s = .next (match s1.governed with
            | .miss y => s1.setCur { h with status := .parked (.fetch y) }
            | .trap e => s2.raiseAt h.epc e
            | .word _ => s2.raiseAt h.epc ⟨.rsvd, w⟩))
          ∧ (decode w = .instr i → Instr.formatBad h i = true → step s = .next (s2.raiseAt h.epc ⟨.rsvd, w⟩))
          ∧ (decode w = .instr i → Instr.formatBad h i = false →
            (h.refuses t.slot i w = some e → step s = .next (s2.raiseAt h.epc e))
            ∧ (h.refuses t.slot i w = none →
              (i.names.any h.rxRegs.contains = true → step s = .next s1)
              ∧ (i.names.any h.rxRegs.contains = false → h.frame.any (fun f => f.holds i w || (f.active && !h.spec && Instr.isTabt i)) = true →
                step s = .next (s1.setCur { h with status := .parked .frame }))
              ∧ (i.names.any h.rxRegs.contains = false → h.frame.any (fun f => f.holds i w || (f.active && !h.spec && Instr.isTabt i)) = false →
                (∀ e ∈ h.poisonPend, ∀ r ∈ i.regs.1, r.val ≠ e.1) → step s = exec i s2)))))
      ∧ s2.cur = { h with instret := h.instret + 1, lihhPrev := h.lihhNow, lihhNow := none }
      ∧ (∀ u : Tid, tkey u ≠ tkey t → s2.thread u = s.thread u)
      ∧ (∀ c, ∃ cy, s2.core c = { s.core c with cycle := cy })
      ∧ s2 = { s1 with threads := s2.threads, cores := s2.cores, freeCount := s2.freeCount })
    ∧ (s.schedule = .event i ev :: rest → i.isEvent = true → step s = exec i { s with schedule := rest, ev := ev })
    ∧ (s.schedule = [] → s.due = some (k, tn) → step s = ({ s with pace := k }).take tn)
    ∧ (s.schedule = [] → s.due = none → step s = .next s)

/-- R36, R37, R45: in user mode ERET, PRMT, RSUM, TLBI, PMIG, HALT, CNTN, DUPC, RBCK and an access to a state register that Table 2-7 keeps from users raise PRIV, with
the word in TVAL, and nothing of the instruction takes effect. -/
def Obligations.PrivilegedWords : Prop :=
  ∀ (s : State) (t : Tid) (rest : List Turn) (w : Nat) (i : Instr) (d a b : RegNum) (z : Fin 12) (r : Csr),
    let h := s.thread t
    let s2 := { s with schedule := rest, turn := t }.takePosition
    s.schedule = .thread t :: rest → h.status = .running → h.dup = false → h.trail = none → h.pendMchk = [] → h.mode = false → t.slot ≠ 15 → h.spec = false → h.intrap = false →
    h.electing = none → h.inFrame = false → h.lihhNow = none → h.blockBuf = [] → h.past = false → (s.core t.core).quiescing = false → s.fetchAt t.core h.pcc = .word w → decode w = .instr i →
    (i = .eret ∨ i = .prmt d a ∨ i = .rsum d a ∨ i = .tlbiPg a z ∨ i = .tlbiAll ∨ i = .tlbiWake a ∨ i = .pmig d a b ∨ i = .halt d
      ∨ i = .cntnContain d a ∨ i = .cntnRelease d a ∨ i = .cntnQuery d a ∨ i = .dupc d a ∨ i = .dupcClear d a ∨ i = .rbck d a
      ∨ ((i = .csrr d r ∨ i = .csrw d r a ∨ i = .csrs d r a ∨ i = .csrc d r a)
        ∧ r ∈ [Csr.tepc, .tvec, .portcfg, .spillq, .ddesc, .ptroot, .spilla, .ctxa, .snapa, .thermt, .lattol])) →
    step s = .next (s2.setCur (s2.cur.trapped ⟨.priv, w⟩))

/-- R341, R342: a redundant pair issues. The leading thread runs a word of its own registers as any thread does, and waits with a load while 64 values are queued.
It posts a released action, performing nothing: it goes on behind one that returns nothing and waits at another; while 16 are posted it waits, and behind posted
actions it waits with a load. The trailing thread takes the value of a load from the queue, in order, and loads nothing; at
an action equal to the posted one, with the same traps taken and the same operands, the action is performed once; at another word the mismatch is
counted, nothing is performed, and a speculative task is to be queued again, while another one's pair ends and its domain receives a machine check of
kind 6 with the word. Which words are loads and actions, behind which the leading thread goes on, and that a load waits follow log entry 12. -/
def Obligations.RedundantPairs : Prop :=
  ∀ (s : State) (t : Tid) (rest : List Turn) (q : Trail) (w p dk : Nat) (i : Instr) (d : RegNum) (v : CReg) (e : LoadEntry) (more : List LoadEntry)
      (f : Posted) (after : List Posted) (x : State) (id : RunId) (k : TaskEntry),
    let u := trailTid t
    let h := s.thread t
    let g := s.thread u
    let at_ := fun (y : Tid) => ({ s with schedule := rest, turn := y } : State)
    let untouched := fun (y : State) => y.hbm = s.hbm ∧ y.scratch = s.scratch ∧ y.carved = s.carved ∧ y.host = s.host
    -- the oldest action that is posted
    let oldest := fun (o : Nat) => (q.ahead = [] ∧ q.posted = some o) ∨ (q.ahead = f :: after ∧ f.w = o ∧ h.status = .running)
    s.PairAt t q → decode w = .instr i → (s.core t.core).quiescing = false →
    (s.schedule = .thread t :: rest → h.Clear i w → s.fetchAt t.core h.pcc = .word w →
      (q.posted = none →
        ((at_ t).pairClass i w = .both → q.ahead = [] ∨ ownWord w = true → step s = exec i (at_ t).takePosition)
        ∧ ((at_ t).pairClass i w = .load d → 64 ≤ q.loads.length ∨ q.ahead ≠ [] → step s = .next (at_ t))
        ∧ ((at_ t).pairClass i w = .action → 16 ≤ q.ahead.length → step s = .next (at_ t))
        ∧ ((at_ t).pairClass i w = .action → q.ahead.length < 16 → Instr.silent i = true →
          ∃ y, step s = .next y ∧ (y.thread t).regs = h.regs ∧ (y.thread t).pcc = h.pcc.withAddr ((h.pcc.addr + 4) % 2 ^ 64) ∧ (y.thread t).status = .running
            ∧ y.thread u = { g with trail := some { q with ahead := q.ahead ++ [⟨w, h.operands, h.traps⟩] } } ∧ untouched y)
        ∧ ((at_ t).pairClass i w = .action → q.ahead.length < 16 → Instr.silent i = false →
          ∃ y, step s = .next y ∧ y.thread t = h ∧ y.thread u = { g with trail := some { q with posted := some w } } ∧ untouched y ∧ y.cores = s.cores))
      ∧ (q.posted = some p → step s = .next (at_ t)))
    ∧ (s.schedule = .thread u :: rest → g.Clear i w → s.fetchAt t.core g.pcc = .word w →
      ((at_ u).pairClass i w = .both → exec i (at_ u).takePosition = .next x → x.turn = u → (x.thread u).status = .running → step s = .next x)
      ∧ ((at_ u).pairClass i w = .load d → q.loads = e :: more → e.d = d → e.res = some (.value v none) → (at_ u).loadTrap i = none →
        ∃ y, step s = .next y ∧ (d ≠ 0 → (y.thread u).reg d = v) ∧ (∀ r : RegNum, r ≠ d → (y.thread u).reg r = g.reg r)
          ∧ (y.thread u).pcc = g.pcc.withAddr ((g.pcc.addr + 4) % 2 ^ 64) ∧ (y.thread u).trail = some { q with loads := more } ∧ y.thread t = h ∧ untouched y)
      ∧ ((at_ u).pairClass i w = .action → q.posted = none → q.ahead = [] →
        ∃ y, step s = .next y ∧ y.thread t = h ∧ (y.thread u).pcc = g.pcc ∧ (y.thread u).regs = g.regs ∧ untouched y)
      ∧ ((at_ u).pairClass i w = .action → oldest p → p ≠ w →
        (h.spec = false → s.domainOfCore t.core = some dk →
          ∃ y m, step s = .next y ∧ (y.core t.core).mismatches.toNat = min ((s.core t.core).mismatches.toNat + 1) (2 ^ 32 - 1)
            ∧ (y.thread t).status = .parked (.tendAcks true) ∧ (y.domain dk).mchks = (s.domain dk).mchks ++ [m] ∧ m.kind = 6 ∧ m.detail = BitVec.ofNat 64 w
            ∧ untouched y)
        ∧ (h.spec = true → h.task = some id → s.taskOf id = some k → k.spec = true → (s.cluster id.cluster).aborts = [] →
          ∃ y, step s = .next y ∧ (y.core t.core).mismatches.toNat = min ((s.core t.core).mismatches.toNat + 1) (2 ^ 32 - 1)
            ∧ (y.thread t).status = .parked .aborting ∧ (y.cluster id.cluster).aborts = [(id.entry, .requeue)] ∧ untouched y))
      ∧ ((at_ u).pairClass i w = .action → q.ahead = [] → q.posted = some w → h.sameTraps g = true → h.withOperands g = h →
        exec i (at_ t).takePosition = .next x → x.thread u = g →
        ∃ y, step s = .next y ∧ y.thread t = x.thread t ∧ y.hbm = x.hbm ∧ y.scratch = x.scratch ∧ y.carved = x.carved ∧ y.host = x.host
          ∧ y.cores = x.cores ∧ y.clusters = x.clusters ∧ y.domains = x.domains)
      ∧ ((at_ u).pairClass i w = .action → q.ahead = f :: after → h.status = .running → f = ⟨w, g.operands, g.traps⟩ →
        exec i ({ s.setThread t { h.foldTrail g with status := .running } with schedule := rest, turn := t } : State).takePosition = .next x → x.thread u = g →
        ∃ y, step s = .next y ∧ y.thread t = x.thread t ∧ y.hbm = x.hbm ∧ y.scratch = x.scratch ∧ y.carved = x.carved ∧ y.host = x.host
          ∧ y.cores = x.cores ∧ y.clusters = x.clusters ∧ y.domains = x.domains))

/-- R26 to R34: words written out from the encoding tables decode to the instructions that they stand for; a zero word and a reserved major are undefined. -/
def Obligations.DecodedWords : Prop :=
  decode 0x04A63800 = .instr (.add 5 6 7) ∧ decode 0x04A63A1E = .instr (.sel 5 6 7 8) ∧ decode 0x3FE10001 = .instr (.jlr 31 1)
  ∧ decode 0x41896800 = .instr (.ldS64 12 9 0 true) ∧ decode 0 = .undef ∧ decode 0x5C000000 = .undef

/-- R26 to R34: the decoder reads back every operand of every well-formed word that the encoder writes. -/
def Obligations.EncodedWordsDecode : Prop :=
  ∀ i : Instr, i.isEvent = false → i.wf = true → decode (encode i).toNat = .instr i

/-- R26 to R34: a word that decodes stands for one well-formed instruction, and no bit of it is dropped: encoding the instruction gives the word back. So no two words mean
the same instruction, and a word with a reserved field set decodes to none. -/
def Obligations.DecodedWordsEncode : Prop :=
  ∀ (w : BitVec 32) (i : Instr), decode w.toNat = .instr i → i.isEvent = false ∧ i.wf = true ∧ encode i = w

/-- R8, R36, R47: no state stops the machine: every step answers a next state, whatever word or event comes. -/
def Obligations.EveryStepGoesOn : Prop :=
 ∀ s : State, ∃ t, step s = .next t

/-- R22, R94: every step keeps every memory in its canonical form: addresses strictly rising, no zero byte listed. -/
def Obligations.StepsKeepTheMemoryForm : Prop :=
  ∀ s t : State, s.hbm.wf ∧ s.scratch.wf ∧ s.carved.wf ∧ s.host.wf → step s = .next t → t.hbm.wf ∧ t.scratch.wf ∧ t.carved.wf ∧ t.host.wf

/-- R22: the memories of the module after reset have their canonical form. -/
def Obligations.ResetMemoryForm : Prop :=
  State.reset.hbm.wf ∧ State.reset.scratch.wf ∧ State.reset.carved.wf ∧ State.reset.host.wf
end

