-- ==== Sys2Proof/Laws/State.lean ====
section
/-!
SUPPORT. What each update of the state leaves in each field: one lemma per field and update, so that no proof unfolds a record.
-/
namespace Sys2Proof.Machine

@[simp] theorem State.setThread_cores (s : State) (t : Tid) (h : Thread) : (s.setThread t h).cores = s.cores := rfl
@[simp] theorem State.setThread_clusters (s : State) (t : Tid) (h : Thread) : (s.setThread t h).clusters = s.clusters := rfl
@[simp] theorem State.setThread_domains (s : State) (t : Tid) (h : Thread) : (s.setThread t h).domains = s.domains := rfl
@[simp] theorem State.setThread_hbm (s : State) (t : Tid) (h : Thread) : (s.setThread t h).hbm = s.hbm := rfl
@[simp] theorem State.setThread_scratch (s : State) (t : Tid) (h : Thread) : (s.setThread t h).scratch = s.scratch := rfl
@[simp] theorem State.setThread_carved (s : State) (t : Tid) (h : Thread) : (s.setThread t h).carved = s.carved := rfl
@[simp] theorem State.setThread_host (s : State) (t : Tid) (h : Thread) : (s.setThread t h).host = s.host := rfl
@[simp] theorem State.setThread_lattol (s : State) (t : Tid) (h : Thread) : (s.setThread t h).lattol = s.lattol := rfl
@[simp] theorem State.setThread_devnum (s : State) (t : Tid) (h : Thread) : (s.setThread t h).devnum = s.devnum := rfl
@[simp] theorem State.setThread_fabbase (s : State) (t : Tid) (h : Thread) : (s.setThread t h).fabbase = s.fabbase := rfl
@[simp] theorem State.setThread_routeT (s : State) (t : Tid) (h : Thread) : (s.setThread t h).routeT = s.routeT := rfl
@[simp] theorem State.setThread_fhome (s : State) (t : Tid) (h : Thread) : (s.setThread t h).fhome = s.fhome := rfl
@[simp] theorem State.setThread_portsUp (s : State) (t : Tid) (h : Thread) : (s.setThread t h).portsUp = s.portsUp := rfl
@[simp] theorem State.setThread_portsSpare (s : State) (t : Tid) (h : Thread) : (s.setThread t h).portsSpare = s.portsSpare := rfl
@[simp] theorem State.setThread_portsSpareIn (s : State) (t : Tid) (h : Thread) : (s.setThread t h).portsSpareIn = s.portsSpareIn := rfl
@[simp] theorem State.setThread_portsFenced (s : State) (t : Tid) (h : Thread) : (s.setThread t h).portsFenced = s.portsFenced := rfl
@[simp] theorem State.setThread_barWritten (s : State) (t : Tid) (h : Thread) : (s.setThread t h).barWritten = s.barWritten := rfl
@[simp] theorem State.setThread_portSnaps (s : State) (t : Tid) (h : Thread) : (s.setThread t h).portSnaps = s.portSnaps := rfl
@[simp] theorem State.setThread_invalidations (s : State) (t : Tid) (h : Thread) : (s.setThread t h).invalidations = s.invalidations := rfl
@[simp] theorem State.setThread_flows (s : State) (t : Tid) (h : Thread) : (s.setThread t h).flows = s.flows := rfl
@[simp] theorem State.setThread_reorder (s : State) (t : Tid) (h : Thread) : (s.setThread t h).reorder = s.reorder := rfl
@[simp] theorem State.setThread_retries (s : State) (t : Tid) (h : Thread) : (s.setThread t h).retries = s.retries := rfl
@[simp] theorem State.setThread_escaped (s : State) (t : Tid) (h : Thread) : (s.setThread t h).escaped = s.escaped := rfl
@[simp] theorem State.setThread_delivered (s : State) (t : Tid) (h : Thread) : (s.setThread t h).delivered = s.delivered := rfl
@[simp] theorem State.setThread_needs (s : State) (t : Tid) (h : Thread) : (s.setThread t h).needs = s.needs := rfl
@[simp] theorem State.setThread_lodge (s : State) (t : Tid) (h : Thread) : (s.setThread t h).lodge = s.lodge := rfl
@[simp] theorem State.setThread_hostOut (s : State) (t : Tid) (h : Thread) : (s.setThread t h).hostOut = s.hostOut := rfl
@[simp] theorem State.setThread_held (s : State) (t : Tid) (h : Thread) : (s.setThread t h).held = s.held := rfl
@[simp] theorem State.setThread_turn (s : State) (t : Tid) (h : Thread) : (s.setThread t h).turn = s.turn := rfl
@[simp] theorem State.setThread_ev (s : State) (t : Tid) (h : Thread) : (s.setThread t h).ev = s.ev := rfl
@[simp] theorem State.setThread_schedule (s : State) (t : Tid) (h : Thread) : (s.setThread t h).schedule = s.schedule := rfl
@[simp] theorem State.setThread_pace (s : State) (t : Tid) (h : Thread) : (s.setThread t h).pace = s.pace := rfl
@[simp] theorem State.setThread_freeCount (s : State) (t : Tid) (h : Thread) : (s.setThread t h).freeCount = s.freeCount := rfl
@[simp] theorem State.setCur_cores (s : State) (h : Thread) : (s.setCur h).cores = s.cores := rfl
@[simp] theorem State.setCur_clusters (s : State) (h : Thread) : (s.setCur h).clusters = s.clusters := rfl
@[simp] theorem State.setCur_domains (s : State) (h : Thread) : (s.setCur h).domains = s.domains := rfl
@[simp] theorem State.setCur_hbm (s : State) (h : Thread) : (s.setCur h).hbm = s.hbm := rfl
@[simp] theorem State.setCur_scratch (s : State) (h : Thread) : (s.setCur h).scratch = s.scratch := rfl
@[simp] theorem State.setCur_carved (s : State) (h : Thread) : (s.setCur h).carved = s.carved := rfl
@[simp] theorem State.setCur_host (s : State) (h : Thread) : (s.setCur h).host = s.host := rfl
@[simp] theorem State.setCur_lattol (s : State) (h : Thread) : (s.setCur h).lattol = s.lattol := rfl
@[simp] theorem State.setCur_devnum (s : State) (h : Thread) : (s.setCur h).devnum = s.devnum := rfl
@[simp] theorem State.setCur_fabbase (s : State) (h : Thread) : (s.setCur h).fabbase = s.fabbase := rfl
@[simp] theorem State.setCur_routeT (s : State) (h : Thread) : (s.setCur h).routeT = s.routeT := rfl
@[simp] theorem State.setCur_fhome (s : State) (h : Thread) : (s.setCur h).fhome = s.fhome := rfl
@[simp] theorem State.setCur_portsUp (s : State) (h : Thread) : (s.setCur h).portsUp = s.portsUp := rfl
@[simp] theorem State.setCur_portsSpare (s : State) (h : Thread) : (s.setCur h).portsSpare = s.portsSpare := rfl
@[simp] theorem State.setCur_portsSpareIn (s : State) (h : Thread) : (s.setCur h).portsSpareIn = s.portsSpareIn := rfl
@[simp] theorem State.setCur_portsFenced (s : State) (h : Thread) : (s.setCur h).portsFenced = s.portsFenced := rfl
@[simp] theorem State.setCur_barWritten (s : State) (h : Thread) : (s.setCur h).barWritten = s.barWritten := rfl
@[simp] theorem State.setCur_portSnaps (s : State) (h : Thread) : (s.setCur h).portSnaps = s.portSnaps := rfl
@[simp] theorem State.setCur_invalidations (s : State) (h : Thread) : (s.setCur h).invalidations = s.invalidations := rfl
@[simp] theorem State.setCur_flows (s : State) (h : Thread) : (s.setCur h).flows = s.flows := rfl
@[simp] theorem State.setCur_reorder (s : State) (h : Thread) : (s.setCur h).reorder = s.reorder := rfl
@[simp] theorem State.setCur_retries (s : State) (h : Thread) : (s.setCur h).retries = s.retries := rfl
@[simp] theorem State.setCur_escaped (s : State) (h : Thread) : (s.setCur h).escaped = s.escaped := rfl
@[simp] theorem State.setCur_delivered (s : State) (h : Thread) : (s.setCur h).delivered = s.delivered := rfl
@[simp] theorem State.setCur_needs (s : State) (h : Thread) : (s.setCur h).needs = s.needs := rfl
@[simp] theorem State.setCur_lodge (s : State) (h : Thread) : (s.setCur h).lodge = s.lodge := rfl
@[simp] theorem State.setCur_hostOut (s : State) (h : Thread) : (s.setCur h).hostOut = s.hostOut := rfl
@[simp] theorem State.setCur_held (s : State) (h : Thread) : (s.setCur h).held = s.held := rfl
@[simp] theorem State.setCur_turn (s : State) (h : Thread) : (s.setCur h).turn = s.turn := rfl
@[simp] theorem State.setCur_ev (s : State) (h : Thread) : (s.setCur h).ev = s.ev := rfl
@[simp] theorem State.setCur_schedule (s : State) (h : Thread) : (s.setCur h).schedule = s.schedule := rfl
@[simp] theorem State.setCur_pace (s : State) (h : Thread) : (s.setCur h).pace = s.pace := rfl
@[simp] theorem State.setCur_freeCount (s : State) (h : Thread) : (s.setCur h).freeCount = s.freeCount := rfl
@[simp] theorem State.setCore_threads (s : State) (c : Nat) (h : Core) : (s.setCore c h).threads = s.threads := rfl
@[simp] theorem State.setCore_clusters (s : State) (c : Nat) (h : Core) : (s.setCore c h).clusters = s.clusters := rfl
@[simp] theorem State.setCore_domains (s : State) (c : Nat) (h : Core) : (s.setCore c h).domains = s.domains := rfl
@[simp] theorem State.setCore_hbm (s : State) (c : Nat) (h : Core) : (s.setCore c h).hbm = s.hbm := rfl
@[simp] theorem State.setCore_scratch (s : State) (c : Nat) (h : Core) : (s.setCore c h).scratch = s.scratch := rfl
@[simp] theorem State.setCore_carved (s : State) (c : Nat) (h : Core) : (s.setCore c h).carved = s.carved := rfl
@[simp] theorem State.setCore_host (s : State) (c : Nat) (h : Core) : (s.setCore c h).host = s.host := rfl
@[simp] theorem State.setCore_lattol (s : State) (c : Nat) (h : Core) : (s.setCore c h).lattol = s.lattol := rfl
@[simp] theorem State.setCore_devnum (s : State) (c : Nat) (h : Core) : (s.setCore c h).devnum = s.devnum := rfl
@[simp] theorem State.setCore_fabbase (s : State) (c : Nat) (h : Core) : (s.setCore c h).fabbase = s.fabbase := rfl
@[simp] theorem State.setCore_routeT (s : State) (c : Nat) (h : Core) : (s.setCore c h).routeT = s.routeT := rfl
@[simp] theorem State.setCore_fhome (s : State) (c : Nat) (h : Core) : (s.setCore c h).fhome = s.fhome := rfl
@[simp] theorem State.setCore_portsUp (s : State) (c : Nat) (h : Core) : (s.setCore c h).portsUp = s.portsUp := rfl
@[simp] theorem State.setCore_portsSpare (s : State) (c : Nat) (h : Core) : (s.setCore c h).portsSpare = s.portsSpare := rfl
@[simp] theorem State.setCore_portsSpareIn (s : State) (c : Nat) (h : Core) : (s.setCore c h).portsSpareIn = s.portsSpareIn := rfl
@[simp] theorem State.setCore_portsFenced (s : State) (c : Nat) (h : Core) : (s.setCore c h).portsFenced = s.portsFenced := rfl
@[simp] theorem State.setCore_barWritten (s : State) (c : Nat) (h : Core) : (s.setCore c h).barWritten = s.barWritten := rfl
@[simp] theorem State.setCore_portSnaps (s : State) (c : Nat) (h : Core) : (s.setCore c h).portSnaps = s.portSnaps := rfl
@[simp] theorem State.setCore_invalidations (s : State) (c : Nat) (h : Core) : (s.setCore c h).invalidations = s.invalidations := rfl
@[simp] theorem State.setCore_flows (s : State) (c : Nat) (h : Core) : (s.setCore c h).flows = s.flows := rfl
@[simp] theorem State.setCore_reorder (s : State) (c : Nat) (h : Core) : (s.setCore c h).reorder = s.reorder := rfl
@[simp] theorem State.setCore_retries (s : State) (c : Nat) (h : Core) : (s.setCore c h).retries = s.retries := rfl
@[simp] theorem State.setCore_escaped (s : State) (c : Nat) (h : Core) : (s.setCore c h).escaped = s.escaped := rfl
@[simp] theorem State.setCore_delivered (s : State) (c : Nat) (h : Core) : (s.setCore c h).delivered = s.delivered := rfl
@[simp] theorem State.setCore_needs (s : State) (c : Nat) (h : Core) : (s.setCore c h).needs = s.needs := rfl
@[simp] theorem State.setCore_lodge (s : State) (c : Nat) (h : Core) : (s.setCore c h).lodge = s.lodge := rfl
@[simp] theorem State.setCore_hostOut (s : State) (c : Nat) (h : Core) : (s.setCore c h).hostOut = s.hostOut := rfl
@[simp] theorem State.setCore_held (s : State) (c : Nat) (h : Core) : (s.setCore c h).held = s.held := rfl
@[simp] theorem State.setCore_turn (s : State) (c : Nat) (h : Core) : (s.setCore c h).turn = s.turn := rfl
@[simp] theorem State.setCore_ev (s : State) (c : Nat) (h : Core) : (s.setCore c h).ev = s.ev := rfl
@[simp] theorem State.setCore_schedule (s : State) (c : Nat) (h : Core) : (s.setCore c h).schedule = s.schedule := rfl
@[simp] theorem State.setCore_pace (s : State) (c : Nat) (h : Core) : (s.setCore c h).pace = s.pace := rfl
@[simp] theorem State.setCore_freeCount (s : State) (c : Nat) (h : Core) : (s.setCore c h).freeCount = s.freeCount := rfl
@[simp] theorem State.setCluster_threads (s : State) (c : Nat) (h : Cluster) : (s.setCluster c h).threads = s.threads := rfl
@[simp] theorem State.setCluster_cores (s : State) (c : Nat) (h : Cluster) : (s.setCluster c h).cores = s.cores := rfl
@[simp] theorem State.setCluster_domains (s : State) (c : Nat) (h : Cluster) : (s.setCluster c h).domains = s.domains := rfl
@[simp] theorem State.setCluster_hbm (s : State) (c : Nat) (h : Cluster) : (s.setCluster c h).hbm = s.hbm := rfl
@[simp] theorem State.setCluster_scratch (s : State) (c : Nat) (h : Cluster) : (s.setCluster c h).scratch = s.scratch := rfl
@[simp] theorem State.setCluster_carved (s : State) (c : Nat) (h : Cluster) : (s.setCluster c h).carved = s.carved := rfl
@[simp] theorem State.setCluster_host (s : State) (c : Nat) (h : Cluster) : (s.setCluster c h).host = s.host := rfl
@[simp] theorem State.setCluster_lattol (s : State) (c : Nat) (h : Cluster) : (s.setCluster c h).lattol = s.lattol := rfl
@[simp] theorem State.setCluster_devnum (s : State) (c : Nat) (h : Cluster) : (s.setCluster c h).devnum = s.devnum := rfl
@[simp] theorem State.setCluster_fabbase (s : State) (c : Nat) (h : Cluster) : (s.setCluster c h).fabbase = s.fabbase := rfl
@[simp] theorem State.setCluster_routeT (s : State) (c : Nat) (h : Cluster) : (s.setCluster c h).routeT = s.routeT := rfl
@[simp] theorem State.setCluster_fhome (s : State) (c : Nat) (h : Cluster) : (s.setCluster c h).fhome = s.fhome := rfl
@[simp] theorem State.setCluster_portsUp (s : State) (c : Nat) (h : Cluster) : (s.setCluster c h).portsUp = s.portsUp := rfl
@[simp] theorem State.setCluster_portsSpare (s : State) (c : Nat) (h : Cluster) : (s.setCluster c h).portsSpare = s.portsSpare := rfl
@[simp] theorem State.setCluster_portsSpareIn (s : State) (c : Nat) (h : Cluster) : (s.setCluster c h).portsSpareIn = s.portsSpareIn := rfl
@[simp] theorem State.setCluster_portsFenced (s : State) (c : Nat) (h : Cluster) : (s.setCluster c h).portsFenced = s.portsFenced := rfl
@[simp] theorem State.setCluster_barWritten (s : State) (c : Nat) (h : Cluster) : (s.setCluster c h).barWritten = s.barWritten := rfl
@[simp] theorem State.setCluster_portSnaps (s : State) (c : Nat) (h : Cluster) : (s.setCluster c h).portSnaps = s.portSnaps := rfl
@[simp] theorem State.setCluster_invalidations (s : State) (c : Nat) (h : Cluster) : (s.setCluster c h).invalidations = s.invalidations := rfl
@[simp] theorem State.setCluster_flows (s : State) (c : Nat) (h : Cluster) : (s.setCluster c h).flows = s.flows := rfl
@[simp] theorem State.setCluster_reorder (s : State) (c : Nat) (h : Cluster) : (s.setCluster c h).reorder = s.reorder := rfl
@[simp] theorem State.setCluster_retries (s : State) (c : Nat) (h : Cluster) : (s.setCluster c h).retries = s.retries := rfl
@[simp] theorem State.setCluster_escaped (s : State) (c : Nat) (h : Cluster) : (s.setCluster c h).escaped = s.escaped := rfl
@[simp] theorem State.setCluster_delivered (s : State) (c : Nat) (h : Cluster) : (s.setCluster c h).delivered = s.delivered := rfl
@[simp] theorem State.setCluster_needs (s : State) (c : Nat) (h : Cluster) : (s.setCluster c h).needs = s.needs := rfl
@[simp] theorem State.setCluster_lodge (s : State) (c : Nat) (h : Cluster) : (s.setCluster c h).lodge = s.lodge := rfl
@[simp] theorem State.setCluster_hostOut (s : State) (c : Nat) (h : Cluster) : (s.setCluster c h).hostOut = s.hostOut := rfl
@[simp] theorem State.setCluster_held (s : State) (c : Nat) (h : Cluster) : (s.setCluster c h).held = s.held := rfl
@[simp] theorem State.setCluster_turn (s : State) (c : Nat) (h : Cluster) : (s.setCluster c h).turn = s.turn := rfl
@[simp] theorem State.setCluster_ev (s : State) (c : Nat) (h : Cluster) : (s.setCluster c h).ev = s.ev := rfl
@[simp] theorem State.setCluster_schedule (s : State) (c : Nat) (h : Cluster) : (s.setCluster c h).schedule = s.schedule := rfl
@[simp] theorem State.setCluster_pace (s : State) (c : Nat) (h : Cluster) : (s.setCluster c h).pace = s.pace := rfl
@[simp] theorem State.setCluster_freeCount (s : State) (c : Nat) (h : Cluster) : (s.setCluster c h).freeCount = s.freeCount := rfl
@[simp] theorem State.setDomain_threads (s : State) (d : Nat) (h : Domain) : (s.setDomain d h).threads = s.threads := rfl
@[simp] theorem State.setDomain_cores (s : State) (d : Nat) (h : Domain) : (s.setDomain d h).cores = s.cores := rfl
@[simp] theorem State.setDomain_clusters (s : State) (d : Nat) (h : Domain) : (s.setDomain d h).clusters = s.clusters := rfl
@[simp] theorem State.setDomain_hbm (s : State) (d : Nat) (h : Domain) : (s.setDomain d h).hbm = s.hbm := rfl
@[simp] theorem State.setDomain_scratch (s : State) (d : Nat) (h : Domain) : (s.setDomain d h).scratch = s.scratch := rfl
@[simp] theorem State.setDomain_carved (s : State) (d : Nat) (h : Domain) : (s.setDomain d h).carved = s.carved := rfl
@[simp] theorem State.setDomain_host (s : State) (d : Nat) (h : Domain) : (s.setDomain d h).host = s.host := rfl
@[simp] theorem State.setDomain_lattol (s : State) (d : Nat) (h : Domain) : (s.setDomain d h).lattol = s.lattol := rfl
@[simp] theorem State.setDomain_devnum (s : State) (d : Nat) (h : Domain) : (s.setDomain d h).devnum = s.devnum := rfl
@[simp] theorem State.setDomain_fabbase (s : State) (d : Nat) (h : Domain) : (s.setDomain d h).fabbase = s.fabbase := rfl
@[simp] theorem State.setDomain_routeT (s : State) (d : Nat) (h : Domain) : (s.setDomain d h).routeT = s.routeT := rfl
@[simp] theorem State.setDomain_fhome (s : State) (d : Nat) (h : Domain) : (s.setDomain d h).fhome = s.fhome := rfl
@[simp] theorem State.setDomain_portsUp (s : State) (d : Nat) (h : Domain) : (s.setDomain d h).portsUp = s.portsUp := rfl
@[simp] theorem State.setDomain_portsSpare (s : State) (d : Nat) (h : Domain) : (s.setDomain d h).portsSpare = s.portsSpare := rfl
@[simp] theorem State.setDomain_portsSpareIn (s : State) (d : Nat) (h : Domain) : (s.setDomain d h).portsSpareIn = s.portsSpareIn := rfl
@[simp] theorem State.setDomain_portsFenced (s : State) (d : Nat) (h : Domain) : (s.setDomain d h).portsFenced = s.portsFenced := rfl
@[simp] theorem State.setDomain_barWritten (s : State) (d : Nat) (h : Domain) : (s.setDomain d h).barWritten = s.barWritten := rfl
@[simp] theorem State.setDomain_portSnaps (s : State) (d : Nat) (h : Domain) : (s.setDomain d h).portSnaps = s.portSnaps := rfl
@[simp] theorem State.setDomain_invalidations (s : State) (d : Nat) (h : Domain) : (s.setDomain d h).invalidations = s.invalidations := rfl
@[simp] theorem State.setDomain_flows (s : State) (d : Nat) (h : Domain) : (s.setDomain d h).flows = s.flows := rfl
@[simp] theorem State.setDomain_reorder (s : State) (d : Nat) (h : Domain) : (s.setDomain d h).reorder = s.reorder := rfl
@[simp] theorem State.setDomain_retries (s : State) (d : Nat) (h : Domain) : (s.setDomain d h).retries = s.retries := rfl
@[simp] theorem State.setDomain_escaped (s : State) (d : Nat) (h : Domain) : (s.setDomain d h).escaped = s.escaped := rfl
@[simp] theorem State.setDomain_delivered (s : State) (d : Nat) (h : Domain) : (s.setDomain d h).delivered = s.delivered := rfl
@[simp] theorem State.setDomain_needs (s : State) (d : Nat) (h : Domain) : (s.setDomain d h).needs = s.needs := rfl
@[simp] theorem State.setDomain_lodge (s : State) (d : Nat) (h : Domain) : (s.setDomain d h).lodge = s.lodge := rfl
@[simp] theorem State.setDomain_hostOut (s : State) (d : Nat) (h : Domain) : (s.setDomain d h).hostOut = s.hostOut := rfl
@[simp] theorem State.setDomain_held (s : State) (d : Nat) (h : Domain) : (s.setDomain d h).held = s.held := rfl
@[simp] theorem State.setDomain_turn (s : State) (d : Nat) (h : Domain) : (s.setDomain d h).turn = s.turn := rfl
@[simp] theorem State.setDomain_ev (s : State) (d : Nat) (h : Domain) : (s.setDomain d h).ev = s.ev := rfl
@[simp] theorem State.setDomain_schedule (s : State) (d : Nat) (h : Domain) : (s.setDomain d h).schedule = s.schedule := rfl
@[simp] theorem State.setDomain_pace (s : State) (d : Nat) (h : Domain) : (s.setDomain d h).pace = s.pace := rfl
@[simp] theorem State.setDomain_freeCount (s : State) (d : Nat) (h : Domain) : (s.setDomain d h).freeCount = s.freeCount := rfl
@[simp] theorem State.bumpFree_threads (s : State) : (s.bumpFree).threads = s.threads := rfl
@[simp] theorem State.bumpFree_cores (s : State) : (s.bumpFree).cores = s.cores := rfl
@[simp] theorem State.bumpFree_clusters (s : State) : (s.bumpFree).clusters = s.clusters := rfl
@[simp] theorem State.bumpFree_domains (s : State) : (s.bumpFree).domains = s.domains := rfl
@[simp] theorem State.bumpFree_hbm (s : State) : (s.bumpFree).hbm = s.hbm := rfl
@[simp] theorem State.bumpFree_scratch (s : State) : (s.bumpFree).scratch = s.scratch := rfl
@[simp] theorem State.bumpFree_carved (s : State) : (s.bumpFree).carved = s.carved := rfl
@[simp] theorem State.bumpFree_host (s : State) : (s.bumpFree).host = s.host := rfl
@[simp] theorem State.bumpFree_lattol (s : State) : (s.bumpFree).lattol = s.lattol := rfl
@[simp] theorem State.bumpFree_devnum (s : State) : (s.bumpFree).devnum = s.devnum := rfl
@[simp] theorem State.bumpFree_fabbase (s : State) : (s.bumpFree).fabbase = s.fabbase := rfl
@[simp] theorem State.bumpFree_routeT (s : State) : (s.bumpFree).routeT = s.routeT := rfl
@[simp] theorem State.bumpFree_fhome (s : State) : (s.bumpFree).fhome = s.fhome := rfl
@[simp] theorem State.bumpFree_portsUp (s : State) : (s.bumpFree).portsUp = s.portsUp := rfl
@[simp] theorem State.bumpFree_portsSpare (s : State) : (s.bumpFree).portsSpare = s.portsSpare := rfl
@[simp] theorem State.bumpFree_portsSpareIn (s : State) : (s.bumpFree).portsSpareIn = s.portsSpareIn := rfl
@[simp] theorem State.bumpFree_portsFenced (s : State) : (s.bumpFree).portsFenced = s.portsFenced := rfl
@[simp] theorem State.bumpFree_barWritten (s : State) : (s.bumpFree).barWritten = s.barWritten := rfl
@[simp] theorem State.bumpFree_portSnaps (s : State) : (s.bumpFree).portSnaps = s.portSnaps := rfl
@[simp] theorem State.bumpFree_invalidations (s : State) : (s.bumpFree).invalidations = s.invalidations := rfl
@[simp] theorem State.bumpFree_flows (s : State) : (s.bumpFree).flows = s.flows := rfl
@[simp] theorem State.bumpFree_reorder (s : State) : (s.bumpFree).reorder = s.reorder := rfl
@[simp] theorem State.bumpFree_retries (s : State) : (s.bumpFree).retries = s.retries := rfl
@[simp] theorem State.bumpFree_escaped (s : State) : (s.bumpFree).escaped = s.escaped := rfl
@[simp] theorem State.bumpFree_delivered (s : State) : (s.bumpFree).delivered = s.delivered := rfl
@[simp] theorem State.bumpFree_needs (s : State) : (s.bumpFree).needs = s.needs := rfl
@[simp] theorem State.bumpFree_lodge (s : State) : (s.bumpFree).lodge = s.lodge := rfl
@[simp] theorem State.bumpFree_hostOut (s : State) : (s.bumpFree).hostOut = s.hostOut := rfl
@[simp] theorem State.bumpFree_held (s : State) : (s.bumpFree).held = s.held := rfl
@[simp] theorem State.bumpFree_turn (s : State) : (s.bumpFree).turn = s.turn := rfl
@[simp] theorem State.bumpFree_ev (s : State) : (s.bumpFree).ev = s.ev := rfl
@[simp] theorem State.bumpFree_schedule (s : State) : (s.bumpFree).schedule = s.schedule := rfl
@[simp] theorem State.bumpFree_pace (s : State) : (s.bumpFree).pace = s.pace := rfl
@[simp] theorem State.writeCap_cores (s : State) (r : RegNum) (v : CReg) : (s.writeCap r v).cores = s.cores := rfl
@[simp] theorem State.writeCap_clusters (s : State) (r : RegNum) (v : CReg) : (s.writeCap r v).clusters = s.clusters := rfl
@[simp] theorem State.writeCap_domains (s : State) (r : RegNum) (v : CReg) : (s.writeCap r v).domains = s.domains := rfl
@[simp] theorem State.writeCap_hbm (s : State) (r : RegNum) (v : CReg) : (s.writeCap r v).hbm = s.hbm := rfl
@[simp] theorem State.writeCap_scratch (s : State) (r : RegNum) (v : CReg) : (s.writeCap r v).scratch = s.scratch := rfl
@[simp] theorem State.writeCap_carved (s : State) (r : RegNum) (v : CReg) : (s.writeCap r v).carved = s.carved := rfl
@[simp] theorem State.writeCap_host (s : State) (r : RegNum) (v : CReg) : (s.writeCap r v).host = s.host := rfl
@[simp] theorem State.writeCap_lattol (s : State) (r : RegNum) (v : CReg) : (s.writeCap r v).lattol = s.lattol := rfl
@[simp] theorem State.writeCap_devnum (s : State) (r : RegNum) (v : CReg) : (s.writeCap r v).devnum = s.devnum := rfl
@[simp] theorem State.writeCap_fabbase (s : State) (r : RegNum) (v : CReg) : (s.writeCap r v).fabbase = s.fabbase := rfl
@[simp] theorem State.writeCap_routeT (s : State) (r : RegNum) (v : CReg) : (s.writeCap r v).routeT = s.routeT := rfl
@[simp] theorem State.writeCap_fhome (s : State) (r : RegNum) (v : CReg) : (s.writeCap r v).fhome = s.fhome := rfl
@[simp] theorem State.writeCap_portsUp (s : State) (r : RegNum) (v : CReg) : (s.writeCap r v).portsUp = s.portsUp := rfl
@[simp] theorem State.writeCap_portsSpare (s : State) (r : RegNum) (v : CReg) : (s.writeCap r v).portsSpare = s.portsSpare := rfl
@[simp] theorem State.writeCap_portsSpareIn (s : State) (r : RegNum) (v : CReg) : (s.writeCap r v).portsSpareIn = s.portsSpareIn := rfl
@[simp] theorem State.writeCap_portsFenced (s : State) (r : RegNum) (v : CReg) : (s.writeCap r v).portsFenced = s.portsFenced := rfl
@[simp] theorem State.writeCap_barWritten (s : State) (r : RegNum) (v : CReg) : (s.writeCap r v).barWritten = s.barWritten := rfl
@[simp] theorem State.writeCap_portSnaps (s : State) (r : RegNum) (v : CReg) : (s.writeCap r v).portSnaps = s.portSnaps := rfl
@[simp] theorem State.writeCap_invalidations (s : State) (r : RegNum) (v : CReg) : (s.writeCap r v).invalidations = s.invalidations := rfl
@[simp] theorem State.writeCap_flows (s : State) (r : RegNum) (v : CReg) : (s.writeCap r v).flows = s.flows := rfl
@[simp] theorem State.writeCap_reorder (s : State) (r : RegNum) (v : CReg) : (s.writeCap r v).reorder = s.reorder := rfl
@[simp] theorem State.writeCap_retries (s : State) (r : RegNum) (v : CReg) : (s.writeCap r v).retries = s.retries := rfl
@[simp] theorem State.writeCap_escaped (s : State) (r : RegNum) (v : CReg) : (s.writeCap r v).escaped = s.escaped := rfl
@[simp] theorem State.writeCap_delivered (s : State) (r : RegNum) (v : CReg) : (s.writeCap r v).delivered = s.delivered := rfl
@[simp] theorem State.writeCap_needs (s : State) (r : RegNum) (v : CReg) : (s.writeCap r v).needs = s.needs := rfl
@[simp] theorem State.writeCap_lodge (s : State) (r : RegNum) (v : CReg) : (s.writeCap r v).lodge = s.lodge := rfl
@[simp] theorem State.writeCap_hostOut (s : State) (r : RegNum) (v : CReg) : (s.writeCap r v).hostOut = s.hostOut := rfl
@[simp] theorem State.writeCap_held (s : State) (r : RegNum) (v : CReg) : (s.writeCap r v).held = s.held := rfl
@[simp] theorem State.writeCap_turn (s : State) (r : RegNum) (v : CReg) : (s.writeCap r v).turn = s.turn := rfl
@[simp] theorem State.writeCap_ev (s : State) (r : RegNum) (v : CReg) : (s.writeCap r v).ev = s.ev := rfl
@[simp] theorem State.writeCap_schedule (s : State) (r : RegNum) (v : CReg) : (s.writeCap r v).schedule = s.schedule := rfl
@[simp] theorem State.writeCap_pace (s : State) (r : RegNum) (v : CReg) : (s.writeCap r v).pace = s.pace := rfl
@[simp] theorem State.writeCap_freeCount (s : State) (r : RegNum) (v : CReg) : (s.writeCap r v).freeCount = s.freeCount := rfl
@[simp] theorem State.writeWord_cores (s : State) (r : RegNum) (v : Word) : (s.writeWord r v).cores = s.cores := rfl
@[simp] theorem State.writeWord_clusters (s : State) (r : RegNum) (v : Word) : (s.writeWord r v).clusters = s.clusters := rfl
@[simp] theorem State.writeWord_domains (s : State) (r : RegNum) (v : Word) : (s.writeWord r v).domains = s.domains := rfl
@[simp] theorem State.writeWord_hbm (s : State) (r : RegNum) (v : Word) : (s.writeWord r v).hbm = s.hbm := rfl
@[simp] theorem State.writeWord_scratch (s : State) (r : RegNum) (v : Word) : (s.writeWord r v).scratch = s.scratch := rfl
@[simp] theorem State.writeWord_carved (s : State) (r : RegNum) (v : Word) : (s.writeWord r v).carved = s.carved := rfl
@[simp] theorem State.writeWord_host (s : State) (r : RegNum) (v : Word) : (s.writeWord r v).host = s.host := rfl
@[simp] theorem State.writeWord_lattol (s : State) (r : RegNum) (v : Word) : (s.writeWord r v).lattol = s.lattol := rfl
@[simp] theorem State.writeWord_devnum (s : State) (r : RegNum) (v : Word) : (s.writeWord r v).devnum = s.devnum := rfl
@[simp] theorem State.writeWord_fabbase (s : State) (r : RegNum) (v : Word) : (s.writeWord r v).fabbase = s.fabbase := rfl
@[simp] theorem State.writeWord_routeT (s : State) (r : RegNum) (v : Word) : (s.writeWord r v).routeT = s.routeT := rfl
@[simp] theorem State.writeWord_fhome (s : State) (r : RegNum) (v : Word) : (s.writeWord r v).fhome = s.fhome := rfl
@[simp] theorem State.writeWord_portsUp (s : State) (r : RegNum) (v : Word) : (s.writeWord r v).portsUp = s.portsUp := rfl
@[simp] theorem State.writeWord_portsSpare (s : State) (r : RegNum) (v : Word) : (s.writeWord r v).portsSpare = s.portsSpare := rfl
@[simp] theorem State.writeWord_portsSpareIn (s : State) (r : RegNum) (v : Word) : (s.writeWord r v).portsSpareIn = s.portsSpareIn := rfl
@[simp] theorem State.writeWord_portsFenced (s : State) (r : RegNum) (v : Word) : (s.writeWord r v).portsFenced = s.portsFenced := rfl
@[simp] theorem State.writeWord_barWritten (s : State) (r : RegNum) (v : Word) : (s.writeWord r v).barWritten = s.barWritten := rfl
@[simp] theorem State.writeWord_portSnaps (s : State) (r : RegNum) (v : Word) : (s.writeWord r v).portSnaps = s.portSnaps := rfl
@[simp] theorem State.writeWord_invalidations (s : State) (r : RegNum) (v : Word) : (s.writeWord r v).invalidations = s.invalidations := rfl
@[simp] theorem State.writeWord_flows (s : State) (r : RegNum) (v : Word) : (s.writeWord r v).flows = s.flows := rfl
@[simp] theorem State.writeWord_reorder (s : State) (r : RegNum) (v : Word) : (s.writeWord r v).reorder = s.reorder := rfl
@[simp] theorem State.writeWord_retries (s : State) (r : RegNum) (v : Word) : (s.writeWord r v).retries = s.retries := rfl
@[simp] theorem State.writeWord_escaped (s : State) (r : RegNum) (v : Word) : (s.writeWord r v).escaped = s.escaped := rfl
@[simp] theorem State.writeWord_delivered (s : State) (r : RegNum) (v : Word) : (s.writeWord r v).delivered = s.delivered := rfl
@[simp] theorem State.writeWord_needs (s : State) (r : RegNum) (v : Word) : (s.writeWord r v).needs = s.needs := rfl
@[simp] theorem State.writeWord_lodge (s : State) (r : RegNum) (v : Word) : (s.writeWord r v).lodge = s.lodge := rfl
@[simp] theorem State.writeWord_hostOut (s : State) (r : RegNum) (v : Word) : (s.writeWord r v).hostOut = s.hostOut := rfl
@[simp] theorem State.writeWord_held (s : State) (r : RegNum) (v : Word) : (s.writeWord r v).held = s.held := rfl
@[simp] theorem State.writeWord_turn (s : State) (r : RegNum) (v : Word) : (s.writeWord r v).turn = s.turn := rfl
@[simp] theorem State.writeWord_ev (s : State) (r : RegNum) (v : Word) : (s.writeWord r v).ev = s.ev := rfl
@[simp] theorem State.writeWord_schedule (s : State) (r : RegNum) (v : Word) : (s.writeWord r v).schedule = s.schedule := rfl
@[simp] theorem State.writeWord_pace (s : State) (r : RegNum) (v : Word) : (s.writeWord r v).pace = s.pace := rfl
@[simp] theorem State.writeWord_freeCount (s : State) (r : RegNum) (v : Word) : (s.writeWord r v).freeCount = s.freeCount := rfl
@[simp] theorem State.writeQuad_cores (s : State) (r : RegNum) (v : Quad) : (s.writeQuad r v).cores = s.cores := rfl
@[simp] theorem State.writeQuad_clusters (s : State) (r : RegNum) (v : Quad) : (s.writeQuad r v).clusters = s.clusters := rfl
@[simp] theorem State.writeQuad_domains (s : State) (r : RegNum) (v : Quad) : (s.writeQuad r v).domains = s.domains := rfl
@[simp] theorem State.writeQuad_hbm (s : State) (r : RegNum) (v : Quad) : (s.writeQuad r v).hbm = s.hbm := rfl
@[simp] theorem State.writeQuad_scratch (s : State) (r : RegNum) (v : Quad) : (s.writeQuad r v).scratch = s.scratch := rfl
@[simp] theorem State.writeQuad_carved (s : State) (r : RegNum) (v : Quad) : (s.writeQuad r v).carved = s.carved := rfl
@[simp] theorem State.writeQuad_host (s : State) (r : RegNum) (v : Quad) : (s.writeQuad r v).host = s.host := rfl
@[simp] theorem State.writeQuad_lattol (s : State) (r : RegNum) (v : Quad) : (s.writeQuad r v).lattol = s.lattol := rfl
@[simp] theorem State.writeQuad_devnum (s : State) (r : RegNum) (v : Quad) : (s.writeQuad r v).devnum = s.devnum := rfl
@[simp] theorem State.writeQuad_fabbase (s : State) (r : RegNum) (v : Quad) : (s.writeQuad r v).fabbase = s.fabbase := rfl
@[simp] theorem State.writeQuad_routeT (s : State) (r : RegNum) (v : Quad) : (s.writeQuad r v).routeT = s.routeT := rfl
@[simp] theorem State.writeQuad_fhome (s : State) (r : RegNum) (v : Quad) : (s.writeQuad r v).fhome = s.fhome := rfl
@[simp] theorem State.writeQuad_portsUp (s : State) (r : RegNum) (v : Quad) : (s.writeQuad r v).portsUp = s.portsUp := rfl
@[simp] theorem State.writeQuad_portsSpare (s : State) (r : RegNum) (v : Quad) : (s.writeQuad r v).portsSpare = s.portsSpare := rfl
@[simp] theorem State.writeQuad_portsSpareIn (s : State) (r : RegNum) (v : Quad) : (s.writeQuad r v).portsSpareIn = s.portsSpareIn := rfl
@[simp] theorem State.writeQuad_portsFenced (s : State) (r : RegNum) (v : Quad) : (s.writeQuad r v).portsFenced = s.portsFenced := rfl
@[simp] theorem State.writeQuad_barWritten (s : State) (r : RegNum) (v : Quad) : (s.writeQuad r v).barWritten = s.barWritten := rfl
@[simp] theorem State.writeQuad_portSnaps (s : State) (r : RegNum) (v : Quad) : (s.writeQuad r v).portSnaps = s.portSnaps := rfl
@[simp] theorem State.writeQuad_invalidations (s : State) (r : RegNum) (v : Quad) : (s.writeQuad r v).invalidations = s.invalidations := rfl
@[simp] theorem State.writeQuad_flows (s : State) (r : RegNum) (v : Quad) : (s.writeQuad r v).flows = s.flows := rfl
@[simp] theorem State.writeQuad_reorder (s : State) (r : RegNum) (v : Quad) : (s.writeQuad r v).reorder = s.reorder := rfl
@[simp] theorem State.writeQuad_retries (s : State) (r : RegNum) (v : Quad) : (s.writeQuad r v).retries = s.retries := rfl
@[simp] theorem State.writeQuad_escaped (s : State) (r : RegNum) (v : Quad) : (s.writeQuad r v).escaped = s.escaped := rfl
@[simp] theorem State.writeQuad_delivered (s : State) (r : RegNum) (v : Quad) : (s.writeQuad r v).delivered = s.delivered := rfl
@[simp] theorem State.writeQuad_needs (s : State) (r : RegNum) (v : Quad) : (s.writeQuad r v).needs = s.needs := rfl
@[simp] theorem State.writeQuad_lodge (s : State) (r : RegNum) (v : Quad) : (s.writeQuad r v).lodge = s.lodge := rfl
@[simp] theorem State.writeQuad_hostOut (s : State) (r : RegNum) (v : Quad) : (s.writeQuad r v).hostOut = s.hostOut := rfl
@[simp] theorem State.writeQuad_held (s : State) (r : RegNum) (v : Quad) : (s.writeQuad r v).held = s.held := rfl
@[simp] theorem State.writeQuad_turn (s : State) (r : RegNum) (v : Quad) : (s.writeQuad r v).turn = s.turn := rfl
@[simp] theorem State.writeQuad_ev (s : State) (r : RegNum) (v : Quad) : (s.writeQuad r v).ev = s.ev := rfl
@[simp] theorem State.writeQuad_schedule (s : State) (r : RegNum) (v : Quad) : (s.writeQuad r v).schedule = s.schedule := rfl
@[simp] theorem State.writeQuad_pace (s : State) (r : RegNum) (v : Quad) : (s.writeQuad r v).pace = s.pace := rfl
@[simp] theorem State.writeQuad_freeCount (s : State) (r : RegNum) (v : Quad) : (s.writeQuad r v).freeCount = s.freeCount := rfl
@[simp] theorem State.park_cores (s : State) (w : Wait) : (s.park w).cores = s.cores := rfl
@[simp] theorem State.park_clusters (s : State) (w : Wait) : (s.park w).clusters = s.clusters := rfl
@[simp] theorem State.park_domains (s : State) (w : Wait) : (s.park w).domains = s.domains := rfl
@[simp] theorem State.park_hbm (s : State) (w : Wait) : (s.park w).hbm = s.hbm := rfl
@[simp] theorem State.park_scratch (s : State) (w : Wait) : (s.park w).scratch = s.scratch := rfl
@[simp] theorem State.park_carved (s : State) (w : Wait) : (s.park w).carved = s.carved := rfl
@[simp] theorem State.park_host (s : State) (w : Wait) : (s.park w).host = s.host := rfl
@[simp] theorem State.park_lattol (s : State) (w : Wait) : (s.park w).lattol = s.lattol := rfl
@[simp] theorem State.park_devnum (s : State) (w : Wait) : (s.park w).devnum = s.devnum := rfl
@[simp] theorem State.park_fabbase (s : State) (w : Wait) : (s.park w).fabbase = s.fabbase := rfl
@[simp] theorem State.park_routeT (s : State) (w : Wait) : (s.park w).routeT = s.routeT := rfl
@[simp] theorem State.park_fhome (s : State) (w : Wait) : (s.park w).fhome = s.fhome := rfl
@[simp] theorem State.park_portsUp (s : State) (w : Wait) : (s.park w).portsUp = s.portsUp := rfl
@[simp] theorem State.park_portsSpare (s : State) (w : Wait) : (s.park w).portsSpare = s.portsSpare := rfl
@[simp] theorem State.park_portsSpareIn (s : State) (w : Wait) : (s.park w).portsSpareIn = s.portsSpareIn := rfl
@[simp] theorem State.park_portsFenced (s : State) (w : Wait) : (s.park w).portsFenced = s.portsFenced := rfl
@[simp] theorem State.park_barWritten (s : State) (w : Wait) : (s.park w).barWritten = s.barWritten := rfl
@[simp] theorem State.park_portSnaps (s : State) (w : Wait) : (s.park w).portSnaps = s.portSnaps := rfl
@[simp] theorem State.park_invalidations (s : State) (w : Wait) : (s.park w).invalidations = s.invalidations := rfl
@[simp] theorem State.park_flows (s : State) (w : Wait) : (s.park w).flows = s.flows := rfl
@[simp] theorem State.park_reorder (s : State) (w : Wait) : (s.park w).reorder = s.reorder := rfl
@[simp] theorem State.park_retries (s : State) (w : Wait) : (s.park w).retries = s.retries := rfl
@[simp] theorem State.park_escaped (s : State) (w : Wait) : (s.park w).escaped = s.escaped := rfl
@[simp] theorem State.park_delivered (s : State) (w : Wait) : (s.park w).delivered = s.delivered := rfl
@[simp] theorem State.park_needs (s : State) (w : Wait) : (s.park w).needs = s.needs := rfl
@[simp] theorem State.park_lodge (s : State) (w : Wait) : (s.park w).lodge = s.lodge := rfl
@[simp] theorem State.park_hostOut (s : State) (w : Wait) : (s.park w).hostOut = s.hostOut := rfl
@[simp] theorem State.park_held (s : State) (w : Wait) : (s.park w).held = s.held := rfl
@[simp] theorem State.park_turn (s : State) (w : Wait) : (s.park w).turn = s.turn := rfl
@[simp] theorem State.park_ev (s : State) (w : Wait) : (s.park w).ev = s.ev := rfl
@[simp] theorem State.park_schedule (s : State) (w : Wait) : (s.park w).schedule = s.schedule := rfl
@[simp] theorem State.park_pace (s : State) (w : Wait) : (s.park w).pace = s.pace := rfl
@[simp] theorem State.park_freeCount (s : State) (w : Wait) : (s.park w).freeCount = s.freeCount := rfl
@[simp] theorem State.setStore_threads (s : State) (sp : Space) (m : Store) : (s.setStore sp m).threads = s.threads := by cases sp <;> rfl
@[simp] theorem State.setStore_cores (s : State) (sp : Space) (m : Store) : (s.setStore sp m).cores = s.cores := by cases sp <;> rfl
@[simp] theorem State.setStore_clusters (s : State) (sp : Space) (m : Store) : (s.setStore sp m).clusters = s.clusters := by cases sp <;> rfl
@[simp] theorem State.setStore_domains (s : State) (sp : Space) (m : Store) : (s.setStore sp m).domains = s.domains := by cases sp <;> rfl
@[simp] theorem State.setStore_lattol (s : State) (sp : Space) (m : Store) : (s.setStore sp m).lattol = s.lattol := by cases sp <;> rfl
@[simp] theorem State.setStore_devnum (s : State) (sp : Space) (m : Store) : (s.setStore sp m).devnum = s.devnum := by cases sp <;> rfl
@[simp] theorem State.setStore_fabbase (s : State) (sp : Space) (m : Store) : (s.setStore sp m).fabbase = s.fabbase := by cases sp <;> rfl
@[simp] theorem State.setStore_routeT (s : State) (sp : Space) (m : Store) : (s.setStore sp m).routeT = s.routeT := by cases sp <;> rfl
@[simp] theorem State.setStore_fhome (s : State) (sp : Space) (m : Store) : (s.setStore sp m).fhome = s.fhome := by cases sp <;> rfl
@[simp] theorem State.setStore_portsUp (s : State) (sp : Space) (m : Store) : (s.setStore sp m).portsUp = s.portsUp := by cases sp <;> rfl
@[simp] theorem State.setStore_portsSpare (s : State) (sp : Space) (m : Store) : (s.setStore sp m).portsSpare = s.portsSpare := by cases sp <;> rfl
@[simp] theorem State.setStore_portsSpareIn (s : State) (sp : Space) (m : Store) : (s.setStore sp m).portsSpareIn = s.portsSpareIn := by cases sp <;> rfl
@[simp] theorem State.setStore_portsFenced (s : State) (sp : Space) (m : Store) : (s.setStore sp m).portsFenced = s.portsFenced := by cases sp <;> rfl
@[simp] theorem State.setStore_barWritten (s : State) (sp : Space) (m : Store) : (s.setStore sp m).barWritten = s.barWritten := by cases sp <;> rfl
@[simp] theorem State.setStore_portSnaps (s : State) (sp : Space) (m : Store) : (s.setStore sp m).portSnaps = s.portSnaps := by cases sp <;> rfl
@[simp] theorem State.setStore_invalidations (s : State) (sp : Space) (m : Store) : (s.setStore sp m).invalidations = s.invalidations := by cases sp <;> rfl
@[simp] theorem State.setStore_flows (s : State) (sp : Space) (m : Store) : (s.setStore sp m).flows = s.flows := by cases sp <;> rfl
@[simp] theorem State.setStore_reorder (s : State) (sp : Space) (m : Store) : (s.setStore sp m).reorder = s.reorder := by cases sp <;> rfl
@[simp] theorem State.setStore_retries (s : State) (sp : Space) (m : Store) : (s.setStore sp m).retries = s.retries := by cases sp <;> rfl
@[simp] theorem State.setStore_escaped (s : State) (sp : Space) (m : Store) : (s.setStore sp m).escaped = s.escaped := by cases sp <;> rfl
@[simp] theorem State.setStore_delivered (s : State) (sp : Space) (m : Store) : (s.setStore sp m).delivered = s.delivered := by cases sp <;> rfl
@[simp] theorem State.setStore_needs (s : State) (sp : Space) (m : Store) : (s.setStore sp m).needs = s.needs := by cases sp <;> rfl
@[simp] theorem State.setStore_lodge (s : State) (sp : Space) (m : Store) : (s.setStore sp m).lodge = s.lodge := by cases sp <;> rfl
@[simp] theorem State.setStore_hostOut (s : State) (sp : Space) (m : Store) : (s.setStore sp m).hostOut = s.hostOut := by cases sp <;> rfl
@[simp] theorem State.setStore_held (s : State) (sp : Space) (m : Store) : (s.setStore sp m).held = s.held := by cases sp <;> rfl
@[simp] theorem State.setStore_turn (s : State) (sp : Space) (m : Store) : (s.setStore sp m).turn = s.turn := by cases sp <;> rfl
@[simp] theorem State.setStore_ev (s : State) (sp : Space) (m : Store) : (s.setStore sp m).ev = s.ev := by cases sp <;> rfl
@[simp] theorem State.setStore_schedule (s : State) (sp : Space) (m : Store) : (s.setStore sp m).schedule = s.schedule := by cases sp <;> rfl
@[simp] theorem State.setStore_pace (s : State) (sp : Space) (m : Store) : (s.setStore sp m).pace = s.pace := by cases sp <;> rfl
@[simp] theorem State.setStore_freeCount (s : State) (sp : Space) (m : Store) : (s.setStore sp m).freeCount = s.freeCount := by cases sp <;> rfl
@[simp] theorem Thread.setPc_status (h : Thread) (a : Nat) : (h.setPc a).status = h.status := rfl
@[simp] theorem Thread.setPc_trail (h : Thread) (a : Nat) : (h.setPc a).trail = h.trail := rfl
@[simp] theorem Thread.setPc_traps (h : Thread) (a : Nat) : (h.setPc a).traps = h.traps := rfl
@[simp] theorem Thread.setPc_regs (h : Thread) (a : Nat) : (h.setPc a).regs = h.regs := rfl
@[simp] theorem Thread.setPc_absent (h : Thread) (a : Nat) : (h.setPc a).absent = h.absent := rfl
@[simp] theorem Thread.setPc_poisonPend (h : Thread) (a : Nat) : (h.setPc a).poisonPend = h.poisonPend := rfl
@[simp] theorem Thread.setPc_mode (h : Thread) (a : Nat) : (h.setPc a).mode = h.mode := rfl
@[simp] theorem Thread.setPc_satn (h : Thread) (a : Nat) : (h.setPc a).satn = h.satn := rfl
@[simp] theorem Thread.setPc_spec (h : Thread) (a : Nat) : (h.setPc a).spec = h.spec := rfl
@[simp] theorem Thread.setPc_dup (h : Thread) (a : Nat) : (h.setPc a).dup = h.dup := rfl
@[simp] theorem Thread.setPc_irv (h : Thread) (a : Nat) : (h.setPc a).irv = h.irv := rfl
@[simp] theorem Thread.setPc_intrap (h : Thread) (a : Nat) : (h.setPc a).intrap = h.intrap := rfl
@[simp] theorem Thread.setPc_pmode (h : Thread) (a : Nat) : (h.setPc a).pmode = h.pmode := rfl
@[simp] theorem Thread.setPc_rmode (h : Thread) (a : Nat) : (h.setPc a).rmode = h.rmode := rfl
@[simp] theorem Thread.setPc_causeCode (h : Thread) (a : Nat) : (h.setPc a).causeCode = h.causeCode := rfl
@[simp] theorem Thread.setPc_causeImpr (h : Thread) (a : Nat) : (h.setPc a).causeImpr = h.causeImpr := rfl
@[simp] theorem Thread.setPc_tval (h : Thread) (a : Nat) : (h.setPc a).tval = h.tval := rfl
@[simp] theorem Thread.setPc_tepc (h : Thread) (a : Nat) : (h.setPc a).tepc = h.tepc := rfl
@[simp] theorem Thread.setPc_tvec (h : Thread) (a : Nat) : (h.setPc a).tvec = h.tvec := rfl
@[simp] theorem Thread.setPc_vt (h : Thread) (a : Nat) : (h.setPc a).vt = h.vt := rfl
@[simp] theorem Thread.setPc_thint (h : Thread) (a : Nat) : (h.setPc a).thint = h.thint := rfl
@[simp] theorem Thread.setPc_grnk (h : Thread) (a : Nat) : (h.setPc a).grnk = h.grnk := rfl
@[simp] theorem Thread.setPc_gsiz (h : Thread) (a : Nat) : (h.setPc a).gsiz = h.gsiz := rfl
@[simp] theorem Thread.setPc_fmta (h : Thread) (a : Nat) : (h.setPc a).fmta = h.fmta := rfl
@[simp] theorem Thread.setPc_fmtb (h : Thread) (a : Nat) : (h.setPc a).fmtb = h.fmtb := rfl
@[simp] theorem Thread.setPc_fmto (h : Thread) (a : Nat) : (h.setPc a).fmto = h.fmto := rfl
@[simp] theorem Thread.setPc_sca (h : Thread) (a : Nat) : (h.setPc a).sca = h.sca := rfl
@[simp] theorem Thread.setPc_scb (h : Thread) (a : Nat) : (h.setPc a).scb = h.scb := rfl
@[simp] theorem Thread.setPc_fflags (h : Thread) (a : Nat) : (h.setPc a).fflags = h.fflags := rfl
@[simp] theorem Thread.setPc_instret (h : Thread) (a : Nat) : (h.setPc a).instret = h.instret := rfl
@[simp] theorem Thread.setPc_own (h : Thread) (a : Nat) : (h.setPc a).own = h.own := rfl
@[simp] theorem Thread.setPc_inh (h : Thread) (a : Nat) : (h.setPc a).inh = h.inh := rfl
@[simp] theorem Thread.setPc_isat (h : Thread) (a : Nat) : (h.setPc a).isat = h.isat := rfl
@[simp] theorem Thread.setPc_cnt (h : Thread) (a : Nat) : (h.setPc a).cnt = h.cnt := rfl
@[simp] theorem Thread.setPc_ap (h : Thread) (a : Nat) : (h.setPc a).ap = h.ap := rfl
@[simp] theorem Thread.setPc_lv (h : Thread) (a : Nat) : (h.setPc a).lv = h.lv := rfl
@[simp] theorem Thread.setPc_electCount (h : Thread) (a : Nat) : (h.setPc a).electCount = h.electCount := rfl
@[simp] theorem Thread.setPc_electing (h : Thread) (a : Nat) : (h.setPc a).electing = h.electing := rfl
@[simp] theorem Thread.setPc_electReg (h : Thread) (a : Nat) : (h.setPc a).electReg = h.electReg := rfl
@[simp] theorem Thread.setPc_electRx (h : Thread) (a : Nat) : (h.setPc a).electRx = h.electRx := rfl
@[simp] theorem Thread.setPc_cc (h : Thread) (a : Nat) : (h.setPc a).cc = h.cc := rfl
@[simp] theorem Thread.setPc_rx (h : Thread) (a : Nat) : (h.setPc a).rx = h.rx := rfl
@[simp] theorem Thread.setPc_blockBuf (h : Thread) (a : Nat) : (h.setPc a).blockBuf = h.blockBuf := rfl
@[simp] theorem Thread.setPc_past (h : Thread) (a : Nat) : (h.setPc a).past = h.past := rfl
@[simp] theorem Thread.setPc_getr (h : Thread) (a : Nat) : (h.setPc a).getr = h.getr := rfl
@[simp] theorem Thread.setPc_sysSeq (h : Thread) (a : Nat) : (h.setPc a).sysSeq = h.sysSeq := rfl
@[simp] theorem Thread.setPc_frame (h : Thread) (a : Nat) : (h.setPc a).frame = h.frame := rfl
@[simp] theorem Thread.setPc_lihhNow (h : Thread) (a : Nat) : (h.setPc a).lihhNow = h.lihhNow := rfl
@[simp] theorem Thread.setPc_lihhPrev (h : Thread) (a : Nat) : (h.setPc a).lihhPrev = h.lihhPrev := rfl
@[simp] theorem Thread.setPc_lihhPc (h : Thread) (a : Nat) : (h.setPc a).lihhPc = h.lihhPc := rfl
@[simp] theorem Thread.setPc_tableBound (h : Thread) (a : Nat) : (h.setPc a).tableBound = h.tableBound := rfl
@[simp] theorem Thread.setPc_detached (h : Thread) (a : Nat) : (h.setPc a).detached = h.detached := rfl
@[simp] theorem Thread.setPc_matrixPoison (h : Thread) (a : Nat) : (h.setPc a).matrixPoison = h.matrixPoison := rfl
@[simp] theorem Thread.setPc_matrixGone (h : Thread) (a : Nat) : (h.setPc a).matrixGone = h.matrixGone := rfl
@[simp] theorem Thread.setPc_cmdsOut (h : Thread) (a : Nat) : (h.setPc a).cmdsOut = h.cmdsOut := rfl
@[simp] theorem Thread.setPc_cmdAcks (h : Thread) (a : Nat) : (h.setPc a).cmdAcks = h.cmdAcks := rfl
@[simp] theorem Thread.setPc_inFrame (h : Thread) (a : Nat) : (h.setPc a).inFrame = h.inFrame := rfl
@[simp] theorem Thread.setPc_pendMchk (h : Thread) (a : Nat) : (h.setPc a).pendMchk = h.pendMchk := rfl
@[simp] theorem Thread.setPc_task (h : Thread) (a : Nat) : (h.setPc a).task = h.task := rfl
@[simp] theorem Thread.setPc_domain (h : Thread) (a : Nat) : (h.setPc a).domain = h.domain := rfl
@[simp] theorem Thread.issued_status (h : Thread) : (h.issued).status = h.status := rfl
@[simp] theorem Thread.issued_trail (h : Thread) : (h.issued).trail = h.trail := rfl
@[simp] theorem Thread.issued_traps (h : Thread) : (h.issued).traps = h.traps := rfl
@[simp] theorem Thread.issued_regs (h : Thread) : (h.issued).regs = h.regs := rfl
@[simp] theorem Thread.issued_absent (h : Thread) : (h.issued).absent = h.absent := rfl
@[simp] theorem Thread.issued_poisonPend (h : Thread) : (h.issued).poisonPend = h.poisonPend := rfl
@[simp] theorem Thread.issued_pcc (h : Thread) : (h.issued).pcc = h.pcc := rfl
@[simp] theorem Thread.issued_mode (h : Thread) : (h.issued).mode = h.mode := rfl
@[simp] theorem Thread.issued_satn (h : Thread) : (h.issued).satn = h.satn := rfl
@[simp] theorem Thread.issued_spec (h : Thread) : (h.issued).spec = h.spec := rfl
@[simp] theorem Thread.issued_dup (h : Thread) : (h.issued).dup = h.dup := rfl
@[simp] theorem Thread.issued_irv (h : Thread) : (h.issued).irv = h.irv := rfl
@[simp] theorem Thread.issued_intrap (h : Thread) : (h.issued).intrap = h.intrap := rfl
@[simp] theorem Thread.issued_pmode (h : Thread) : (h.issued).pmode = h.pmode := rfl
@[simp] theorem Thread.issued_rmode (h : Thread) : (h.issued).rmode = h.rmode := rfl
@[simp] theorem Thread.issued_causeCode (h : Thread) : (h.issued).causeCode = h.causeCode := rfl
@[simp] theorem Thread.issued_causeImpr (h : Thread) : (h.issued).causeImpr = h.causeImpr := rfl
@[simp] theorem Thread.issued_tval (h : Thread) : (h.issued).tval = h.tval := rfl
@[simp] theorem Thread.issued_tepc (h : Thread) : (h.issued).tepc = h.tepc := rfl
@[simp] theorem Thread.issued_tvec (h : Thread) : (h.issued).tvec = h.tvec := rfl
@[simp] theorem Thread.issued_vt (h : Thread) : (h.issued).vt = h.vt := rfl
@[simp] theorem Thread.issued_thint (h : Thread) : (h.issued).thint = h.thint := rfl
@[simp] theorem Thread.issued_grnk (h : Thread) : (h.issued).grnk = h.grnk := rfl
@[simp] theorem Thread.issued_gsiz (h : Thread) : (h.issued).gsiz = h.gsiz := rfl
@[simp] theorem Thread.issued_fmta (h : Thread) : (h.issued).fmta = h.fmta := rfl
@[simp] theorem Thread.issued_fmtb (h : Thread) : (h.issued).fmtb = h.fmtb := rfl
@[simp] theorem Thread.issued_fmto (h : Thread) : (h.issued).fmto = h.fmto := rfl
@[simp] theorem Thread.issued_sca (h : Thread) : (h.issued).sca = h.sca := rfl
@[simp] theorem Thread.issued_scb (h : Thread) : (h.issued).scb = h.scb := rfl
@[simp] theorem Thread.issued_fflags (h : Thread) : (h.issued).fflags = h.fflags := rfl
@[simp] theorem Thread.issued_own (h : Thread) : (h.issued).own = h.own := rfl
@[simp] theorem Thread.issued_inh (h : Thread) : (h.issued).inh = h.inh := rfl
@[simp] theorem Thread.issued_isat (h : Thread) : (h.issued).isat = h.isat := rfl
@[simp] theorem Thread.issued_cnt (h : Thread) : (h.issued).cnt = h.cnt := rfl
@[simp] theorem Thread.issued_ap (h : Thread) : (h.issued).ap = h.ap := rfl
@[simp] theorem Thread.issued_lv (h : Thread) : (h.issued).lv = h.lv := rfl
@[simp] theorem Thread.issued_electCount (h : Thread) : (h.issued).electCount = h.electCount := rfl
@[simp] theorem Thread.issued_electing (h : Thread) : (h.issued).electing = h.electing := rfl
@[simp] theorem Thread.issued_electReg (h : Thread) : (h.issued).electReg = h.electReg := rfl
@[simp] theorem Thread.issued_electRx (h : Thread) : (h.issued).electRx = h.electRx := rfl
@[simp] theorem Thread.issued_cc (h : Thread) : (h.issued).cc = h.cc := rfl
@[simp] theorem Thread.issued_rx (h : Thread) : (h.issued).rx = h.rx := rfl
@[simp] theorem Thread.issued_blockBuf (h : Thread) : (h.issued).blockBuf = h.blockBuf := rfl
@[simp] theorem Thread.issued_past (h : Thread) : (h.issued).past = h.past := rfl
@[simp] theorem Thread.issued_getr (h : Thread) : (h.issued).getr = h.getr := rfl
@[simp] theorem Thread.issued_sysSeq (h : Thread) : (h.issued).sysSeq = h.sysSeq := rfl
@[simp] theorem Thread.issued_frame (h : Thread) : (h.issued).frame = h.frame := rfl
@[simp] theorem Thread.issued_lihhPc (h : Thread) : (h.issued).lihhPc = h.lihhPc := rfl
@[simp] theorem Thread.issued_tableBound (h : Thread) : (h.issued).tableBound = h.tableBound := rfl
@[simp] theorem Thread.issued_detached (h : Thread) : (h.issued).detached = h.detached := rfl
@[simp] theorem Thread.issued_matrixPoison (h : Thread) : (h.issued).matrixPoison = h.matrixPoison := rfl
@[simp] theorem Thread.issued_matrixGone (h : Thread) : (h.issued).matrixGone = h.matrixGone := rfl
@[simp] theorem Thread.issued_cmdsOut (h : Thread) : (h.issued).cmdsOut = h.cmdsOut := rfl
@[simp] theorem Thread.issued_cmdAcks (h : Thread) : (h.issued).cmdAcks = h.cmdAcks := rfl
@[simp] theorem Thread.issued_inFrame (h : Thread) : (h.issued).inFrame = h.inFrame := rfl
@[simp] theorem Thread.issued_pendMchk (h : Thread) : (h.issued).pendMchk = h.pendMchk := rfl
@[simp] theorem Thread.issued_task (h : Thread) : (h.issued).task = h.task := rfl
@[simp] theorem Thread.issued_domain (h : Thread) : (h.issued).domain = h.domain := rfl
@[simp] theorem Thread.clearSig_status (h : Thread) : (h.clearSig).status = h.status := rfl
@[simp] theorem Thread.clearSig_trail (h : Thread) : (h.clearSig).trail = h.trail := rfl
@[simp] theorem Thread.clearSig_traps (h : Thread) : (h.clearSig).traps = h.traps := rfl
@[simp] theorem Thread.clearSig_regs (h : Thread) : (h.clearSig).regs = h.regs := rfl
@[simp] theorem Thread.clearSig_absent (h : Thread) : (h.clearSig).absent = h.absent := rfl
@[simp] theorem Thread.clearSig_poisonPend (h : Thread) : (h.clearSig).poisonPend = h.poisonPend := rfl
@[simp] theorem Thread.clearSig_pcc (h : Thread) : (h.clearSig).pcc = h.pcc := rfl
@[simp] theorem Thread.clearSig_mode (h : Thread) : (h.clearSig).mode = h.mode := rfl
@[simp] theorem Thread.clearSig_satn (h : Thread) : (h.clearSig).satn = h.satn := rfl
@[simp] theorem Thread.clearSig_spec (h : Thread) : (h.clearSig).spec = h.spec := rfl
@[simp] theorem Thread.clearSig_dup (h : Thread) : (h.clearSig).dup = h.dup := rfl
@[simp] theorem Thread.clearSig_irv (h : Thread) : (h.clearSig).irv = h.irv := rfl
@[simp] theorem Thread.clearSig_intrap (h : Thread) : (h.clearSig).intrap = h.intrap := rfl
@[simp] theorem Thread.clearSig_pmode (h : Thread) : (h.clearSig).pmode = h.pmode := rfl
@[simp] theorem Thread.clearSig_rmode (h : Thread) : (h.clearSig).rmode = h.rmode := rfl
@[simp] theorem Thread.clearSig_causeCode (h : Thread) : (h.clearSig).causeCode = h.causeCode := rfl
@[simp] theorem Thread.clearSig_causeImpr (h : Thread) : (h.clearSig).causeImpr = h.causeImpr := rfl
@[simp] theorem Thread.clearSig_tval (h : Thread) : (h.clearSig).tval = h.tval := rfl
@[simp] theorem Thread.clearSig_tepc (h : Thread) : (h.clearSig).tepc = h.tepc := rfl
@[simp] theorem Thread.clearSig_tvec (h : Thread) : (h.clearSig).tvec = h.tvec := rfl
@[simp] theorem Thread.clearSig_vt (h : Thread) : (h.clearSig).vt = h.vt := rfl
@[simp] theorem Thread.clearSig_thint (h : Thread) : (h.clearSig).thint = h.thint := rfl
@[simp] theorem Thread.clearSig_grnk (h : Thread) : (h.clearSig).grnk = h.grnk := rfl
@[simp] theorem Thread.clearSig_gsiz (h : Thread) : (h.clearSig).gsiz = h.gsiz := rfl
@[simp] theorem Thread.clearSig_fmta (h : Thread) : (h.clearSig).fmta = h.fmta := rfl
@[simp] theorem Thread.clearSig_fmtb (h : Thread) : (h.clearSig).fmtb = h.fmtb := rfl
@[simp] theorem Thread.clearSig_fmto (h : Thread) : (h.clearSig).fmto = h.fmto := rfl
@[simp] theorem Thread.clearSig_sca (h : Thread) : (h.clearSig).sca = h.sca := rfl
@[simp] theorem Thread.clearSig_scb (h : Thread) : (h.clearSig).scb = h.scb := rfl
@[simp] theorem Thread.clearSig_fflags (h : Thread) : (h.clearSig).fflags = h.fflags := rfl
@[simp] theorem Thread.clearSig_instret (h : Thread) : (h.clearSig).instret = h.instret := rfl
@[simp] theorem Thread.clearSig_ap (h : Thread) : (h.clearSig).ap = h.ap := rfl
@[simp] theorem Thread.clearSig_lv (h : Thread) : (h.clearSig).lv = h.lv := rfl
@[simp] theorem Thread.clearSig_electCount (h : Thread) : (h.clearSig).electCount = h.electCount := rfl
@[simp] theorem Thread.clearSig_electing (h : Thread) : (h.clearSig).electing = h.electing := rfl
@[simp] theorem Thread.clearSig_electReg (h : Thread) : (h.clearSig).electReg = h.electReg := rfl
@[simp] theorem Thread.clearSig_electRx (h : Thread) : (h.clearSig).electRx = h.electRx := rfl
@[simp] theorem Thread.clearSig_cc (h : Thread) : (h.clearSig).cc = h.cc := rfl
@[simp] theorem Thread.clearSig_rx (h : Thread) : (h.clearSig).rx = h.rx := rfl
@[simp] theorem Thread.clearSig_blockBuf (h : Thread) : (h.clearSig).blockBuf = h.blockBuf := rfl
@[simp] theorem Thread.clearSig_past (h : Thread) : (h.clearSig).past = h.past := rfl
@[simp] theorem Thread.clearSig_getr (h : Thread) : (h.clearSig).getr = h.getr := rfl
@[simp] theorem Thread.clearSig_sysSeq (h : Thread) : (h.clearSig).sysSeq = h.sysSeq := rfl
@[simp] theorem Thread.clearSig_frame (h : Thread) : (h.clearSig).frame = h.frame := rfl
@[simp] theorem Thread.clearSig_lihhNow (h : Thread) : (h.clearSig).lihhNow = h.lihhNow := rfl
@[simp] theorem Thread.clearSig_lihhPrev (h : Thread) : (h.clearSig).lihhPrev = h.lihhPrev := rfl
@[simp] theorem Thread.clearSig_lihhPc (h : Thread) : (h.clearSig).lihhPc = h.lihhPc := rfl
@[simp] theorem Thread.clearSig_tableBound (h : Thread) : (h.clearSig).tableBound = h.tableBound := rfl
@[simp] theorem Thread.clearSig_detached (h : Thread) : (h.clearSig).detached = h.detached := rfl
@[simp] theorem Thread.clearSig_matrixPoison (h : Thread) : (h.clearSig).matrixPoison = h.matrixPoison := rfl
@[simp] theorem Thread.clearSig_matrixGone (h : Thread) : (h.clearSig).matrixGone = h.matrixGone := rfl
@[simp] theorem Thread.clearSig_cmdsOut (h : Thread) : (h.clearSig).cmdsOut = h.cmdsOut := rfl
@[simp] theorem Thread.clearSig_cmdAcks (h : Thread) : (h.clearSig).cmdAcks = h.cmdAcks := rfl
@[simp] theorem Thread.clearSig_inFrame (h : Thread) : (h.clearSig).inFrame = h.inFrame := rfl
@[simp] theorem Thread.clearSig_pendMchk (h : Thread) : (h.clearSig).pendMchk = h.pendMchk := rfl
@[simp] theorem Thread.clearSig_task (h : Thread) : (h.clearSig).task = h.task := rfl
@[simp] theorem Thread.clearSig_domain (h : Thread) : (h.clearSig).domain = h.domain := rfl
@[simp] theorem Thread.setReg_status (h : Thread) (r : RegNum) (v : CReg) : (h.setReg r v).status = h.status := by unfold Thread.setReg; split <;> rfl
@[simp] theorem Thread.setReg_trail (h : Thread) (r : RegNum) (v : CReg) : (h.setReg r v).trail = h.trail := by unfold Thread.setReg; split <;> rfl
@[simp] theorem Thread.setReg_traps (h : Thread) (r : RegNum) (v : CReg) : (h.setReg r v).traps = h.traps := by unfold Thread.setReg; split <;> rfl
@[simp] theorem Thread.setReg_pcc (h : Thread) (r : RegNum) (v : CReg) : (h.setReg r v).pcc = h.pcc := by unfold Thread.setReg; split <;> rfl
@[simp] theorem Thread.setReg_mode (h : Thread) (r : RegNum) (v : CReg) : (h.setReg r v).mode = h.mode := by unfold Thread.setReg; split <;> rfl
@[simp] theorem Thread.setReg_satn (h : Thread) (r : RegNum) (v : CReg) : (h.setReg r v).satn = h.satn := by unfold Thread.setReg; split <;> rfl
@[simp] theorem Thread.setReg_spec (h : Thread) (r : RegNum) (v : CReg) : (h.setReg r v).spec = h.spec := by unfold Thread.setReg; split <;> rfl
@[simp] theorem Thread.setReg_dup (h : Thread) (r : RegNum) (v : CReg) : (h.setReg r v).dup = h.dup := by unfold Thread.setReg; split <;> rfl
@[simp] theorem Thread.setReg_irv (h : Thread) (r : RegNum) (v : CReg) : (h.setReg r v).irv = h.irv := by unfold Thread.setReg; split <;> rfl
@[simp] theorem Thread.setReg_intrap (h : Thread) (r : RegNum) (v : CReg) : (h.setReg r v).intrap = h.intrap := by unfold Thread.setReg; split <;> rfl
@[simp] theorem Thread.setReg_pmode (h : Thread) (r : RegNum) (v : CReg) : (h.setReg r v).pmode = h.pmode := by unfold Thread.setReg; split <;> rfl
@[simp] theorem Thread.setReg_rmode (h : Thread) (r : RegNum) (v : CReg) : (h.setReg r v).rmode = h.rmode := by unfold Thread.setReg; split <;> rfl
@[simp] theorem Thread.setReg_causeCode (h : Thread) (r : RegNum) (v : CReg) : (h.setReg r v).causeCode = h.causeCode := by unfold Thread.setReg; split <;> rfl
@[simp] theorem Thread.setReg_causeImpr (h : Thread) (r : RegNum) (v : CReg) : (h.setReg r v).causeImpr = h.causeImpr := by unfold Thread.setReg; split <;> rfl
@[simp] theorem Thread.setReg_tval (h : Thread) (r : RegNum) (v : CReg) : (h.setReg r v).tval = h.tval := by unfold Thread.setReg; split <;> rfl
@[simp] theorem Thread.setReg_tepc (h : Thread) (r : RegNum) (v : CReg) : (h.setReg r v).tepc = h.tepc := by unfold Thread.setReg; split <;> rfl
@[simp] theorem Thread.setReg_tvec (h : Thread) (r : RegNum) (v : CReg) : (h.setReg r v).tvec = h.tvec := by unfold Thread.setReg; split <;> rfl
@[simp] theorem Thread.setReg_vt (h : Thread) (r : RegNum) (v : CReg) : (h.setReg r v).vt = h.vt := by unfold Thread.setReg; split <;> rfl
@[simp] theorem Thread.setReg_thint (h : Thread) (r : RegNum) (v : CReg) : (h.setReg r v).thint = h.thint := by unfold Thread.setReg; split <;> rfl
@[simp] theorem Thread.setReg_grnk (h : Thread) (r : RegNum) (v : CReg) : (h.setReg r v).grnk = h.grnk := by unfold Thread.setReg; split <;> rfl
@[simp] theorem Thread.setReg_gsiz (h : Thread) (r : RegNum) (v : CReg) : (h.setReg r v).gsiz = h.gsiz := by unfold Thread.setReg; split <;> rfl
@[simp] theorem Thread.setReg_fmta (h : Thread) (r : RegNum) (v : CReg) : (h.setReg r v).fmta = h.fmta := by unfold Thread.setReg; split <;> rfl
@[simp] theorem Thread.setReg_fmtb (h : Thread) (r : RegNum) (v : CReg) : (h.setReg r v).fmtb = h.fmtb := by unfold Thread.setReg; split <;> rfl
@[simp] theorem Thread.setReg_fmto (h : Thread) (r : RegNum) (v : CReg) : (h.setReg r v).fmto = h.fmto := by unfold Thread.setReg; split <;> rfl
@[simp] theorem Thread.setReg_sca (h : Thread) (r : RegNum) (v : CReg) : (h.setReg r v).sca = h.sca := by unfold Thread.setReg; split <;> rfl
@[simp] theorem Thread.setReg_scb (h : Thread) (r : RegNum) (v : CReg) : (h.setReg r v).scb = h.scb := by unfold Thread.setReg; split <;> rfl
@[simp] theorem Thread.setReg_fflags (h : Thread) (r : RegNum) (v : CReg) : (h.setReg r v).fflags = h.fflags := by unfold Thread.setReg; split <;> rfl
@[simp] theorem Thread.setReg_instret (h : Thread) (r : RegNum) (v : CReg) : (h.setReg r v).instret = h.instret := by unfold Thread.setReg; split <;> rfl
@[simp] theorem Thread.setReg_own (h : Thread) (r : RegNum) (v : CReg) : (h.setReg r v).own = h.own := by unfold Thread.setReg; split <;> rfl
@[simp] theorem Thread.setReg_inh (h : Thread) (r : RegNum) (v : CReg) : (h.setReg r v).inh = h.inh := by unfold Thread.setReg; split <;> rfl
@[simp] theorem Thread.setReg_isat (h : Thread) (r : RegNum) (v : CReg) : (h.setReg r v).isat = h.isat := by unfold Thread.setReg; split <;> rfl
@[simp] theorem Thread.setReg_cnt (h : Thread) (r : RegNum) (v : CReg) : (h.setReg r v).cnt = h.cnt := by unfold Thread.setReg; split <;> rfl
@[simp] theorem Thread.setReg_ap (h : Thread) (r : RegNum) (v : CReg) : (h.setReg r v).ap = h.ap := by unfold Thread.setReg; split <;> rfl
@[simp] theorem Thread.setReg_lv (h : Thread) (r : RegNum) (v : CReg) : (h.setReg r v).lv = h.lv := by unfold Thread.setReg; split <;> rfl
@[simp] theorem Thread.setReg_electCount (h : Thread) (r : RegNum) (v : CReg) : (h.setReg r v).electCount = h.electCount := by unfold Thread.setReg; split <;> rfl
@[simp] theorem Thread.setReg_electing (h : Thread) (r : RegNum) (v : CReg) : (h.setReg r v).electing = h.electing := by unfold Thread.setReg; split <;> rfl
@[simp] theorem Thread.setReg_electReg (h : Thread) (r : RegNum) (v : CReg) : (h.setReg r v).electReg = h.electReg := by unfold Thread.setReg; split <;> rfl
@[simp] theorem Thread.setReg_electRx (h : Thread) (r : RegNum) (v : CReg) : (h.setReg r v).electRx = h.electRx := by unfold Thread.setReg; split <;> rfl
@[simp] theorem Thread.setReg_cc (h : Thread) (r : RegNum) (v : CReg) : (h.setReg r v).cc = h.cc := by unfold Thread.setReg; split <;> rfl
@[simp] theorem Thread.setReg_rx (h : Thread) (r : RegNum) (v : CReg) : (h.setReg r v).rx = h.rx := by unfold Thread.setReg; split <;> rfl
@[simp] theorem Thread.setReg_blockBuf (h : Thread) (r : RegNum) (v : CReg) : (h.setReg r v).blockBuf = h.blockBuf := by unfold Thread.setReg; split <;> rfl
@[simp] theorem Thread.setReg_past (h : Thread) (r : RegNum) (v : CReg) : (h.setReg r v).past = h.past := by unfold Thread.setReg; split <;> rfl
@[simp] theorem Thread.setReg_getr (h : Thread) (r : RegNum) (v : CReg) : (h.setReg r v).getr = h.getr := by unfold Thread.setReg; split <;> rfl
@[simp] theorem Thread.setReg_sysSeq (h : Thread) (r : RegNum) (v : CReg) : (h.setReg r v).sysSeq = h.sysSeq := by unfold Thread.setReg; split <;> rfl
@[simp] theorem Thread.setReg_frame (h : Thread) (r : RegNum) (v : CReg) : (h.setReg r v).frame = h.frame := by unfold Thread.setReg; split <;> rfl
@[simp] theorem Thread.setReg_lihhNow (h : Thread) (r : RegNum) (v : CReg) : (h.setReg r v).lihhNow = h.lihhNow := by unfold Thread.setReg; split <;> rfl
@[simp] theorem Thread.setReg_lihhPrev (h : Thread) (r : RegNum) (v : CReg) : (h.setReg r v).lihhPrev = h.lihhPrev := by unfold Thread.setReg; split <;> rfl
@[simp] theorem Thread.setReg_lihhPc (h : Thread) (r : RegNum) (v : CReg) : (h.setReg r v).lihhPc = h.lihhPc := by unfold Thread.setReg; split <;> rfl
@[simp] theorem Thread.setReg_tableBound (h : Thread) (r : RegNum) (v : CReg) : (h.setReg r v).tableBound = h.tableBound := by unfold Thread.setReg; split <;> rfl
@[simp] theorem Thread.setReg_detached (h : Thread) (r : RegNum) (v : CReg) : (h.setReg r v).detached = h.detached := by unfold Thread.setReg; split <;> rfl
@[simp] theorem Thread.setReg_matrixPoison (h : Thread) (r : RegNum) (v : CReg) : (h.setReg r v).matrixPoison = h.matrixPoison := by unfold Thread.setReg; split <;> rfl
@[simp] theorem Thread.setReg_matrixGone (h : Thread) (r : RegNum) (v : CReg) : (h.setReg r v).matrixGone = h.matrixGone := by unfold Thread.setReg; split <;> rfl
@[simp] theorem Thread.setReg_cmdsOut (h : Thread) (r : RegNum) (v : CReg) : (h.setReg r v).cmdsOut = h.cmdsOut := by unfold Thread.setReg; split <;> rfl
@[simp] theorem Thread.setReg_cmdAcks (h : Thread) (r : RegNum) (v : CReg) : (h.setReg r v).cmdAcks = h.cmdAcks := by unfold Thread.setReg; split <;> rfl
@[simp] theorem Thread.setReg_inFrame (h : Thread) (r : RegNum) (v : CReg) : (h.setReg r v).inFrame = h.inFrame := by unfold Thread.setReg; split <;> rfl
@[simp] theorem Thread.setReg_pendMchk (h : Thread) (r : RegNum) (v : CReg) : (h.setReg r v).pendMchk = h.pendMchk := by unfold Thread.setReg; split <;> rfl
@[simp] theorem Thread.setReg_task (h : Thread) (r : RegNum) (v : CReg) : (h.setReg r v).task = h.task := by unfold Thread.setReg; split <;> rfl
@[simp] theorem Thread.setReg_domain (h : Thread) (r : RegNum) (v : CReg) : (h.setReg r v).domain = h.domain := by unfold Thread.setReg; split <;> rfl

end Sys2Proof.Machine
end

