-- ==== Sys2Proof/Laws/Memory.lean ====
section
/-!
SUPPORT. Maps, sets and memories: read after write, that a write leaves every other place alone, and that every memory operation keeps
the canonical form.
-/
namespace Sys2Proof.Machine

@[simp] theorem Map.find_set_self {α : Type} (m : Map α) (k : Nat) (v : α) : Map.find (Map.set m k v) k = some v := by
  induction m with
  | nil => simp [Map.set, Map.find]
  | cons e r ih =>
    obtain ⟨j, x⟩ := e
    unfold Map.set
    split
    · simp [Map.find]
    · split
      · simp [Map.find]
      · rw [Map.find, if_neg ‹_›, ih]
theorem Map.find_set_ne {α : Type} (m : Map α) {k j : Nat} (v : α) (h : j ≠ k) : Map.find (Map.set m k v) j = Map.find m j := by
  induction m with
  | nil => simp [Map.set, Map.find, h]
  | cons e r ih =>
    obtain ⟨i, x⟩ := e
    unfold Map.set
    split
    · subst i; simp [Map.find, h]
    · split
      · rw [Map.find, if_neg h]
      · rw [Map.find, ih, Map.find]
theorem Map.get_eq_find {α : Type} (d : α) (m : Map α) (k : Nat) : Map.get d m k = (Map.find m k).getD d := by
  induction m with
  | nil => rfl
  | cons e r ih =>
    obtain ⟨j, x⟩ := e
    unfold Map.get Map.find
    split
    · rfl
    · exact ih
@[simp] theorem Map.get_set_self {α : Type} (d : α) (m : Map α) (k : Nat) (v : α) : Map.get d (Map.set m k v) k = v := by
  rw [Map.get_eq_find, Map.find_set_self]; rfl
theorem Map.get_set_ne {α : Type} (d : α) (m : Map α) {k j : Nat} (v : α) (h : j ≠ k) : Map.get d (Map.set m k v) j = Map.get d m j := by
  rw [Map.get_eq_find, Map.find_set_ne m v h, ← Map.get_eq_find]

@[simp] theorem State.thread_setThread (s : State) (t : Tid) (h : Thread) : (s.setThread t h).thread t = h := Map.get_set_self _ _ _ _
theorem State.thread_setThread_ne (s : State) {t u : Tid} (h : Thread) (hn : tkey u ≠ tkey t) : (s.setThread t h).thread u = s.thread u :=
  Map.get_set_ne _ _ _ hn
@[simp] theorem State.cur_setCur (s : State) (h : Thread) : (s.setCur h).cur = h := State.thread_setThread s s.turn h
@[simp] theorem State.thread_setCore (s : State) (t : Tid) (c : Nat) (h : Core) : (s.setCore c h).thread t = s.thread t := rfl
@[simp] theorem State.cur_setCore (s : State) (c : Nat) (h : Core) : (s.setCore c h).cur = s.cur := rfl
@[simp] theorem State.cur_setCluster (s : State) (c : Nat) (h : Cluster) : (s.setCluster c h).cur = s.cur := rfl
@[simp] theorem State.cur_setDomain (s : State) (c : Nat) (h : Domain) : (s.setDomain c h).cur = s.cur := rfl
@[simp] theorem State.cur_setStore (s : State) (sp : Space) (m : Store) : (s.setStore sp m).cur = s.cur := by cases sp <;> rfl
@[simp] theorem State.cur_bumpFree (s : State) : s.bumpFree.cur = s.cur := rfl
@[simp] theorem State.core_setCore (s : State) (c : Nat) (h : Core) : (s.setCore c h).core c = h := Map.get_set_self _ _ _ _
theorem State.core_setCore_ne (s : State) {c d : Nat} (h : Core) (hn : d ≠ c) : (s.setCore c h).core d = s.core d := Map.get_set_ne _ _ _ hn
@[simp] theorem State.core_setCur (s : State) (c : Nat) (h : Thread) : (s.setCur h).core c = s.core c := rfl
@[simp] theorem State.cluster_setCluster (s : State) (c : Nat) (h : Cluster) : (s.setCluster c h).cluster c = h := Map.get_set_self _ _ _ _
@[simp] theorem State.domain_setDomain (s : State) (c : Nat) (h : Domain) : (s.setDomain c h).domain c = h := Map.get_set_self _ _ _ _
@[simp] theorem State.store_setStore (s : State) (sp : Space) (m : Store) : (s.setStore sp m).store sp = m := by cases sp <;> rfl

/-- g0 reads as an untagged zero (R38). -/
@[simp] theorem Thread.reg_zero (h : Thread) : h.reg 0 = {} := rfl
/-- A write to g0 is discarded (R38). -/
@[simp] theorem Thread.setReg_zero (h : Thread) (v : CReg) : h.setReg 0 v = h := rfl
theorem Thread.reg_setReg (h : Thread) {r : RegNum} (v : CReg) (hr : r ≠ 0) : (h.setReg r v).reg r = v := by
  simp [Thread.setReg, Thread.reg, hr]
theorem Thread.reg_setReg_ne (h : Thread) {r q : RegNum} (v : CReg) (hq : q ≠ r) : (h.setReg r v).reg q = h.reg q := by
  unfold Thread.setReg
  split
  · rfl
  · unfold Thread.reg
    split
    · rfl
    · exact Map.get_set_ne _ _ _ (fun e => hq (Fin.ext e))

theorem NatSet.has_ins (l : NatSet) (x y : Nat) : NatSet.has (NatSet.ins l x) y = (decide (y = x) || NatSet.has l y) := by
  induction l with
  | nil => by_cases h : y = x <;> simp [NatSet.ins, NatSet.has, h, Ne.symm]
  | cons z r ih =>
    unfold NatSet.ins
    simp only [NatSet.has] at ih ⊢
    split
    · subst z
      by_cases h : y = x
      · subst y; simp
      · simp [h]
    · split
      · by_cases h : y = x
        · subst h; simp
        · simp [h, Ne.symm h]
      · rw [List.any_cons, ih, List.any_cons]; cases (z == y) <;> simp
theorem NatSet.has_del (l : NatSet) (x y : Nat) : NatSet.has (NatSet.del l x) y = (decide (y ≠ x) && NatSet.has l y) := by
  induction l with
  | nil => simp [NatSet.del, NatSet.has]
  | cons z r ih =>
    simp only [NatSet.del, NatSet.has] at ih ⊢
    rw [List.filter_cons]
    by_cases h : z = x
    · subst z
      by_cases hy : y = x
      · subst y; simp
      · simp [hy, ih, Ne.symm hy]
    · simp only [bne_iff_ne, ne_eq, h, not_false_eq_true, if_true, List.any_cons, ih]
      by_cases hy : z = y
      · subst z; simp [h]
      · simp [show (z == y) = false by simpa using hy]

/-- Whether an address lies above the last one. -/
def above (lo : Option Nat) (k : Nat) : Bool := match lo with | none => true | some l => decide (l < k)
theorem cellsWfFrom_cons (lo : Option Nat) (k : Nat) (b : Byte) (r : List Host.Cell) :
    cellsWfFrom lo ((k, b) :: r) = (above lo k && b != 0 && cellsWfFrom (some k) r) := rfl
theorem cellsWfFrom_mono {lo lo' : Option Nat} {l : List Host.Cell} (h : ∀ k, above lo k = true → above lo' k = true)
    (w : cellsWfFrom lo l = true) : cellsWfFrom lo' l = true := by
  cases l with
  | nil => rfl
  | cons e r =>
    obtain ⟨k, b⟩ := e
    simp only [cellsWfFrom_cons, Bool.and_eq_true] at w ⊢
    exact ⟨⟨h k w.1.1, w.1.2⟩, w.2⟩
theorem cellsWfFrom_cellSet (l : List Host.Cell) (a : Nat) (b : Byte) (lo : Option Nat)
    (ha : above lo a = true) (h : cellsWfFrom lo l = true) : cellsWfFrom lo (cellSet l a b) = true := by
  induction l generalizing lo with
  | nil =>
    unfold cellSet
    split
    · rfl
    · simp only [cellsWfFrom_cons, Bool.and_eq_true]
      exact ⟨⟨ha, by simpa using ‹¬ b = 0›⟩, rfl⟩
  | cons e r ih =>
    obtain ⟨k, x⟩ := e
    simp only [cellsWfFrom_cons, Bool.and_eq_true] at h
    unfold cellSet
    split
    · subst a
      split
      · exact cellsWfFrom_mono (fun j hj => by
          cases lo with
          | none => rfl
          | some y => simp only [above, decide_eq_true_eq] at ha hj ⊢; omega) h.2
      · simp only [cellsWfFrom_cons, Bool.and_eq_true]
        exact ⟨⟨ha, by simpa using ‹¬ b = 0›⟩, h.2⟩
    · split
      · split
        · simp only [cellsWfFrom_cons, Bool.and_eq_true]; exact h
        · simp only [cellsWfFrom_cons, Bool.and_eq_true]
          exact ⟨⟨ha, by simpa using ‹¬ b = 0›⟩, ⟨by simpa [above] using ‹a < k›, h.1.2⟩, h.2⟩
      · simp only [cellsWfFrom_cons, Bool.and_eq_true]
        exact ⟨h.1, ih _ (by simp only [above, decide_eq_true_eq]; omega) h.2⟩
theorem cellGet_above {l : List Host.Cell} {lo a : Nat} (h : cellsWfFrom (some lo) l = true) (ha : a ≤ lo) : cellGet l a = 0 := by
  induction l generalizing lo with
  | nil => rfl
  | cons e r ih =>
    obtain ⟨k, x⟩ := e
    simp only [cellsWfFrom_cons, above, Bool.and_eq_true, decide_eq_true_eq] at h
    rw [cellGet, if_neg (by omega)]
    exact ih h.2 (by omega)
/-- Reading a byte after a write (R4). -/
theorem cellGet_cellSet (l : List Host.Cell) (a j : Nat) (b : Byte) (lo : Option Nat) (h : cellsWfFrom lo l = true) :
    cellGet (cellSet l a b) j = if j = a then b else cellGet l j := by
  induction l generalizing lo with
  | nil =>
    unfold cellSet
    split
    · rename_i hb; subst hb; split <;> rfl
    · simp [cellGet]
  | cons e r ih =>
    obtain ⟨k, x⟩ := e
    simp only [cellsWfFrom_cons, Bool.and_eq_true] at h
    unfold cellSet
    split
    · subst a
      split
      · rename_i hb
        by_cases hj : j = k
        · subst hb; subst hj; rw [if_pos rfl]; exact cellGet_above h.2 (Nat.le_refl _)
        · rw [if_neg hj, cellGet, if_neg hj]
      · by_cases hj : j = k <;> simp [cellGet, hj]
    · split
      · split
        · rename_i hb
          by_cases hj : j = a
          · subst hb; subst hj
            rw [if_pos rfl, cellGet, if_neg ‹_›]; exact cellGet_above h.2 (by omega)
          · rw [if_neg hj]
        · by_cases hj : j = a <;> simp [cellGet, hj]
      · rw [cellGet]
        by_cases hj : j = k
        · subst hj; rw [if_pos rfl, if_neg (fun e => ‹¬ a = j› e.symm), cellGet, if_pos rfl]
        · rw [if_neg hj, ih _ h.2]
          split
          · rfl
          · rw [cellGet, if_neg hj]

/-- Writing a byte keeps the canonical form. -/
theorem Store.wf_setByte {m : Store} (a : Nat) (b : Byte) (h : m.wf) : (m.setByte a b).wf := cellsWfFrom_cellSet _ _ _ _ rfl h
/-- The byte written, and every other byte as before. -/
theorem Store.byte_setByte {m : Store} (a j : Nat) (b : Byte) (h : m.wf) : (m.setByte a b).byte j = if j = a then b else m.byte j :=
  cellGet_cellSet _ _ _ _ _ h
/-- Writing bytes keeps the canonical form. -/
theorem Store.wf_write {m : Store} (a n v : Nat) (h : m.wf) : (m.write a n v).wf := by
  induction n generalizing m a v with
  | zero => exact h
  | succ n ih => exact ih _ _ (Store.wf_setByte _ _ h)
/-- Writing the bytes that a mask names keeps the canonical form. -/
theorem Store.wf_writeMasked {m : Store} (a n v k : Nat) (h : m.wf) : (m.writeMasked a n v k).wf := by
  induction n generalizing m a v k with
  | zero => exact h
  | succ n ih =>
    unfold Store.writeMasked
    split
    · exact ih _ _ _ (Store.wf_setByte _ _ h)
    · exact ih _ _ _ h
theorem Store.wf_clearTags {m : Store} (a n : Nat) (h : m.wf) : (m.clearTags a n).wf := h
theorem Store.wf_setTag {m : Store} (a : Nat) (t : Bool) (h : m.wf) : (m.setTag a t).wf := h
theorem Store.wf_setFull {m : Store} (a : Nat) (t : Bool) (h : m.wf) : (m.setFull a t).wf := h
theorem Store.wf_setPoison {m : Store} (a : Nat) (t : Bool) (h : m.wf) : (m.setPoison a t).wf := h
/-- What holds of the start of a fold and is kept by each step holds of its end. -/
theorem foldl_keeps {α β : Type} (P : α → Prop) (f : α → β → α) (l : List β) (a : α) (h : P a) (hf : ∀ a b, P a → P (f a b)) : P (l.foldl f a) := by
  induction l generalizing a with
  | nil => exact h
  | cons b r ih => exact ih _ (hf _ _ h)
/-- Writing data by the poison rule keeps the canonical form (R106). -/
theorem Store.wf_writeData {m : Store} (a n v : Nat) (h : m.wf) : (m.writeData a n v).1.wf := by
  unfold Store.writeData
  refine foldl_keeps (fun acc : Store × Bool => acc.1.wf) _ _ _ h ?_
  intro acc w hacc
  dsimp only
  generalize (if 8 * w < a then a else 8 * w) = lo
  generalize (if a + n < 8 * w + 8 then a + n else 8 * w + 8) = hi
  split
  · exact hacc
  · split
    · exact Store.wf_write _ _ _ hacc
    · exact Store.wf_write _ _ _ hacc
/-- A byte outside those written reads as before. -/
theorem Store.byte_write {m : Store} (a n v j : Nat) (h : m.wf) (hj : j < a ∨ a + n ≤ j) : (m.write a n v).byte j = m.byte j := by
  induction n generalizing m a v with
  | zero => rfl
  | succ n ih =>
    rw [Store.write, ih _ _ (Store.wf_setByte _ _ h) (by omega), Store.byte_setByte _ _ _ h, if_neg (by omega)]
@[simp] theorem Store.byte_clearTags (m : Store) (a n j : Nat) : (m.clearTags a n).byte j = m.byte j := rfl
@[simp] theorem Store.byte_setTag (m : Store) (a j : Nat) (t : Bool) : (m.setTag a t).byte j = m.byte j := rfl
@[simp] theorem Store.byte_setFull (m : Store) (a j : Nat) (t : Bool) : (m.setFull a t).byte j = m.byte j := rfl
@[simp] theorem Store.byte_setPoison (m : Store) (a j : Nat) (t : Bool) : (m.setPoison a t).byte j = m.byte j := rfl
/-- Reading what was written (R4). -/
theorem Store.read_write {m : Store} (a n v : Nat) (h : m.wf) : (m.write a n v).read a n = v % 256 ^ n := by
  induction n generalizing m a v with
  | zero => simp [Store.read, Nat.mod_one]
  | succ n ih =>
    rw [Store.read, Store.write, ih _ _ (Store.wf_setByte _ _ h), Store.byte_write _ _ _ _ (Store.wf_setByte _ _ h) (by omega),
      Store.byte_setByte _ _ _ h, if_pos rfl, BitVec.toNat_ofNat,
      show 256 ^ (n + 1) = 256 * 256 ^ n from by rw [Nat.pow_succ, Nat.mul_comm], Nat.mod_mul]

end Sys2Proof.Machine
end

