-- ==== Sys2Proof/Laws/Ops.lean ====
section
/-!
SUPPORT. One lemma for each shared operation, saying once what it leaves: finishing with or without a register result, and taking a trap.
-/
namespace Sys2Proof.Machine

theorem Map.set_set {α : Type} (m : Map α) (k : Nat) (v w : α) : Map.set (Map.set m k v) k w = Map.set m k w := by
  induction m with
  | nil => simp [Map.set]
  | cons e r ih =>
    obtain ⟨j, x⟩ := e
    by_cases h : k = j
    · simp [Map.set, h]
    · by_cases h2 : k < j
      · simp [Map.set, h, h2]
      · simp [Map.set, h, h2, ih]
@[simp] theorem State.setCur_setCur (s : State) (h g : Thread) : (s.setCur h).setCur g = s.setCur g := by
  simp [State.setCur, State.setThread, Map.set_set]
theorem State.cur_eq_thread (s : State) : s.cur = s.thread s.turn := rfl

/-- Finishing an ordinary word moves the PCC on, and does nothing else. -/
theorem State.finish_plain {s : State} (h : s.Plain) : s.finish = s.setCur { s.cur with pcc := s.pccNext } := by
  obtain ⟨h1, h2, h3, h4⟩ := h
  unfold State.finish
  simp [h1, h2, Thread.setPc, Thread.pc, State.pccNext]
  rw [← h3, ← h4]
/-- A register result of an ordinary word. -/
theorem State.finish_writeCap {s : State} (h : s.Plain) (d : RegNum) (v : CReg) :
    (s.writeCap d v).finish = s.setCur { s.cur.setReg d v with pcc := s.pccNext } := by
  have hp : (s.writeCap d v).Plain := by simpa [State.writeCap, State.Plain] using h
  rw [State.finish_plain hp]
  simp [State.writeCap, State.pccNext]
/-- Only the issuing thread's slot differs after it is replaced. -/
theorem SameElse.setCur (s : State) (h : Thread) : SameElse s (s.setCur h) :=
  ⟨rfl, fun _ hu => State.thread_setThread_ne s h hu⟩
/-- What a register result leaves. -/
theorem Wrote.setCur (s : State) (d : RegNum) (v p : CReg) : Wrote s (s.setCur { s.cur.setReg d v with pcc := p }) d v p where
  result := by
    show (s.setCur _).cur.reg d = _
    simp only [State.cur_setCur]
    show (s.cur.setReg d v).reg d = _
    split
    · subst d; simp [Thread.reg]
    · exact Thread.reg_setReg _ v ‹_›
  others r hr := by
    show (s.setCur _).cur.reg r = _
    simp only [State.cur_setCur]
    exact Thread.reg_setReg_ne s.cur v hr
  present r := by
    simp only [State.cur_setCur]
    show (~~~(s.cur.setReg d v).absent).getLsbD r.val = _
    unfold Thread.presence Thread.setReg
    split
    · subst d; simp
    · rename_i hd
      have h32 : r.val < 32 := r.isLt
      by_cases hrd : r = d
      · subst hrd; simp [hd]
      · have : r.val ≠ d.val := fun e => hrd (Fin.ext e)
        by_cases hlt : r.val < d.val
        · simp [hrd, hlt]
        · have : r.val - d.val ≠ 0 := by omega
          simp [hrd, hlt, this]
  thread := by
    simp only [State.cur_setCur]
    unfold Thread.setReg
    split <;> rfl
  else_ := SameElse.setCur s _
theorem Wrote.result_cap {s : State} (h : s.Plain) (d : RegNum) (v : CReg) : Wrote s (s.writeCap d v).finish d v s.pccNext := by
  rw [State.finish_writeCap h]; exact Wrote.setCur s d v _
/-- A scalar result. -/
theorem gives_of {i : Instr} {s : State} {d : RegNum} {v : Word} (h : s.Plain) (he : exec i s = .next (s.writeWord d v).finish) :
    Gives i s d v := ⟨_, he, Wrote.result_cap h d _⟩
/-- A capability result. -/
theorem givesCap_of {i : Instr} {s : State} {d : RegNum} {v : CReg} (h : s.Plain) (he : exec i s = .next (s.writeCap d v).finish) :
    GivesCap i s d v := ⟨_, he, Wrote.result_cap h d _⟩
/-- A vector result. -/
theorem givesQuad_of {i : Instr} {s : State} {d : RegNum} {v : Quad} (h : s.Plain) (he : exec i s = .next (s.writeQuad d v).finish) :
    GivesQuad i s d v := ⟨_, he, Wrote.result_cap h d _⟩

/-- A trap that a thread takes itself. -/
theorem State.raise_traps {s : State} (h : s.Traps) (e : TrapVal) : s.raise e = s.setCur (s.cur.trapped e) := by
  obtain ⟨h1, h2, h3, h4, h5, h6, h7⟩ := h
  unfold State.raise State.raiseAt
  simp only [if_neg h1, h2, h3, Bool.false_eq_true, ↓reduceIte]
  congr 1
  simp [Thread.enter, Thread.trapped, Thread.stopFrame, Thread.faultPcc, h4, h5, h6, h7, wordOf, CReg.unsealed]

end Sys2Proof.Machine
end

