-- ==== Sys2Proof/Tests/Slice0.lean ====
section
/-!
SUPPORT. Tests of the model: decoding of words written out from the encoding tables, the restrictions of WellFormed, one-step tests of
meanings with results taken from the spec, and for each obligation states that meet the hypotheses of its clauses.
-/
namespace Sys2Proof.Tests
open Sys2Proof Sys2Proof.Machine
set_option Elab.async false

/-! Decoding: each word is composed by hand from the rows of Tables 2-1 to 2-4. -/
theorem test_decode_integer : decode 0x04A63800 = .instr (.add 5 6 7) ∧ decode 0x04A63A1E = .instr (.sel 5 6 7 8) := by decide
theorem test_decode_immediate : decode 0x0822FFFF = .instr (.addi 1 2 0xFFFF) ∧ decode 0x1C2200BF = .instr (.shai 1 2 63)
    ∧ decode 0x20217F12 = .instr (.lihh 1 0x7F12) ∧ decode 0x10214A10 = .instr (.ori 1 1 0x4A10) := by decide
theorem test_decode_capability : decode 0x25484803 = .instr (.cbnd 10 8 9) ∧ decode 0x2864FFF0 = .instr (.cinci 3 4 0xFFF0) := by decide
theorem test_decode_branch : decode 0x2D001FFD = .instr (.bne 8 0 (-3)) ∧ decode 0x3137FFFE = .instr (.bgez 9 (-2))
    ∧ decode 0x37FFFFFF = .instr (.j (-1)) ∧ decode 0x38000005 = .instr (.jl 5) ∧ decode 0x3FE10001 = .instr (.jlr 31 1) := by decide
theorem test_decode_memory : decode 0x41896800 = .instr (.ldS64 12 9 0 true) ∧ decode 0x44E6E7FF = .instr (.stQ128 7 6 (-1) false)
    ∧ decode 0x48E62002 = .instr (.stc 7 6 2) ∧ decode 0x4C83A7FC = .instr (.feq 4 3 (-4)) := by decide
theorem test_decode_atomic : decode 0x50A63870 = .instr (.aadd 5 6 7 true .device .rlx)
    ∧ decode 0x50A63B79 = .instr (.acas 5 6 7 true .device .acqrel) := by decide
theorem test_decode_ordering : decode 0x540003D8 = .instr (.fence 15 .device) ∧ decode 0x54AA0019 = .instr (.strel 5 10 .device)
    ∧ decode 0x54CA001A = .instr (.ldacq 6 10 .device) ∧ decode 0x540A001B = .instr (.sigrst 10 .device)
    ∧ decode 0x54CA001C = .instr (.sigmrg 6 10 .device) := by decide
theorem test_decode_cache : decode 0x58C74005 = .instr (.lulk 6 7 8) := by decide
theorem test_decode_task : decode 0x60A63800 = .instr (.tenq 5 6 7) ∧ decode 0x60A10005 = .instr (.tvt 5 1) := by decide
theorem test_decode_gang : decode 0x64A30004 = .instr (.grank 5 3) ∧ decode 0x68A63826 = .instr (.rput 5 6 7 9 .s) := by decide
theorem test_decode_vector : decode 0x80A638A8 = .instr (.vadd 5 6 7 .i16 .satN) ∧ decode 0x80A63A36 = .instr (.vmin 5 6 7 .i32 true)
    ∧ decode 0x80A63A0B = .instr (.vfma 5 6 7 8 .f16) ∧ decode 0x80A63987 = .instr (.vcmp 5 6 7 .f32 .un false)
    ∧ decode 0x84A63A04 = .instr (.vperm 5 6 7 8) ∧ decode 0x84A600F7 = .instr (.vins 5 6 .i32 3) := by decide
theorem test_decode_conversion : decode 0x88A60940 = .instr (.vcvt 5 6 .f16 .s32) ∧ decode 0x88A60189 = .instr (.vdec 5 6 .f16 2 true)
    ∧ decode 0x8CA40042 = .instr (.tbcf 5 4 2) := by decide
theorem test_decode_matrix : decode 0xA06678C9 = .instr (.mmv 3 6 15 9) ∧ decode 0xA0607969 = .instr (.mrd 9 3 15 true)
    ∧ decode 0xA0607980 = .instr (.mclr 3 15) := by decide
theorem test_decode_trellis : decode 0xA4663852 = .instr (.asnd 3 2 6 7 true) := by decide
theorem test_decode_transfer : decode 0xB0A63808 = .instr (.xfer 5 6 7 8) ∧ decode 0xB0A60107 = .instr (.cwait 5 7 6)
    ∧ decode 0xB0060187 = .instr (.lhnd 6 6) ∧ decode 0xB4063829 = .instr (.tldef 9 6 7 true) := by decide
theorem test_decode_sparse : decode 0xB8A63848 = .instr (.camp 5 8 6 7) := by decide
theorem test_decode_stream : decode 0xBCA638C1 = .instr (.ssnd 5 true 6 7) := by decide
theorem test_decode_system : decode 0xC000ABC0 = .instr (.sysc 0xABC) ∧ decode 0xC0A63FF7 = .instr (.pmig 5 6 0x3FF)
    ∧ decode 0xC4A03000 = .instr (.csrr 5 .ddesc) := by decide
theorem test_decode_snapshot : decode 0xC8A60010 = .instr (.snap 5 6 true) := by decide
theorem test_decode_prefix : decode 0xFC19F240 = .instr (.rpt 3 31 1 1 0 0) ∧ decode 0xFC800000 = .instr .elect := by decide
/-- R32, R36: reserved majors, unassigned selectors and reserved fields. -/
theorem test_decode_refused : decode 0 = .undef ∧ decode 0x5C000000 = .undef ∧ decode 0x04000022 = .undef ∧ decode 0x04000040 = .rsvd
    ∧ decode 0x5000001A = .undef ∧ decode 0x800000C0 = .undef ∧ decode 0xFC800001 = .rsvd ∧ decode 0xFD000000 = .undef := by decide

/-! WellFormed: one ill-formed term for each check, with a well-formed one beside it. -/
theorem test_wf_saturation : (Instr.vadd 1 2 3 .f32 .satS).wf = false ∧ (Instr.vadd 1 2 3 .i8 .satS).wf = true := by decide
theorem test_wf_dot : (Instr.vdot 1 2 3 4 .f32).wf = false ∧ (Instr.vdot 1 2 3 4 .i8).wf = true := by decide
theorem test_wf_natural : (Instr.vmin 1 2 3 .f16 true).wf = false ∧ (Instr.vmin 1 2 3 .i16 true).wf = true := by decide
theorem test_wf_predicate : (Instr.vcmp 1 2 3 .i8 .un false).wf = false ∧ (Instr.vcmp 1 2 3 .f32 .eq true).wf = false
    ∧ (Instr.vcmp 1 2 3 .f32 .un false).wf = true := by decide
theorem test_wf_lane : (Instr.vins 1 2 .i64 2).wf = false ∧ (Instr.vins 1 2 .i64 1).wf = true := by decide
theorem test_wf_extract : (Instr.vextSigned 1 2 .f32 0).wf = false ∧ (Instr.vextSigned 1 2 .i32 0).wf = true := by decide
theorem test_wf_mask : (Instr.csrs 1 .tepc 2).wf = false ∧ (Instr.csrs 1 .fflags 2).wf = true := by decide

/-! The states of the tests: a thread in slot 0 of core 0, in a domain of cluster 0 whose local window starts at 0. -/
def thr (rs : Map CReg := []) : Thread := { status := .running, regs := rs, pcc := (capFor 0 4096 [permX]).withAddr 64 }
def one (h : Thread) (c : Core := {}) (k : Cluster := {}) (d : Domain := {}) : State :=
  { threads := [(0, h)], cores := [(0, c)], clusters := [(0, k)], domains := [(0, d)] }
/-- A register value of 64 bits. -/
def num (n : Nat) : CReg := untagged (BitVec.ofNat 64 n)
/-- A capability for the first 4,096 bytes of the core's scratchpad, at an address. -/
def cap (a : Nat) (ps : List Nat) : CReg := (capFor 0 4096 ps).withAddr a
def allPerms : List Nat := List.range 12
/-- What a step leaves, as the value of a function of its state. -/
def left {α : Type} (o : Host.Outcome State Fault Refusal) (f : State → α) : Option α := match o with
  | .next t => some (f t)
  | .fault _ => none
  | .refused _ => none
/-- Words of bytes for a memory, from an address. -/
def mem (a n v : Nat) : Store := ({} : Store).write a n v

/-! IntegerResults, IntegerProperties, BitFields, Immediates, CapabilityFields, AddressMoves: any plain state; results from Table 4-1. -/
def sInt : State := one (thr [(1, num (2 ^ 64 - 1)), (2, num 1), (3, num (2 ^ 63))])
theorem hyps_plain : sInt.Plain ∧ sInt.Traps ∧ sInt.Drained := by decide
theorem test_add_wraps : left (exec (.add 4 1 2) sInt) (fun t => (t.reg 4, t.cur.pc)) = some (num 0, 68) := by decide
theorem test_sub_source_is_destination : left (exec (.sub 2 2 1) sInt) (fun t => t.reg 2) = some (num 2) := by decide
theorem test_mulh_signed : left (exec (.mulh 4 1 3) sInt) (fun t => t.reg 4) = some (num 0)
    ∧ left (exec (.mulhn 4 1 3) sInt) (fun t => t.reg 4) = some (num (2 ^ 63 - 1)) := by decide
theorem test_sha_of_sign : left (exec (.sha 4 3 2) sInt) (fun t => t.reg 4) = some (num (3 * 2 ^ 62)) := by decide
theorem test_slt_signed : left (exec (.slt 4 1 2) sInt) (fun t => t.reg 4) = some (num 1)
    ∧ left (exec (.sltn 4 1 2) sInt) (fun t => t.reg 4) = some (num 0) := by decide
theorem test_g0_stays_zero : left (exec (.add 0 1 2) sInt) (fun t => (t.reg 0, t.cur.pc)) = some ({}, 68) := by decide
theorem test_extb_field : left (exec (.extb 4 1 5) (one (thr [(1, num 0x80), (5, num 0x0007)]))) (fun t => t.reg 4) = some (num (2 ^ 64 - 1)) := by
  decide

/-! Division (R65). -/
theorem hyps_division : sInt.Plain ∧ sInt.Traps ∧ sInt.word 0 = 0 ∧ sInt.word 1 ≠ 0 ∧ (sInt.word 3).toInt = -2 ^ 63 ∧ (sInt.word 1).toInt = -1 := by
  decide
theorem test_div_overflow : left (exec (.div 4 3 1) sInt) (fun t => t.reg 4) = some (num (2 ^ 63))
    ∧ left (exec (.rem 4 3 1) sInt) (fun t => t.reg 4) = some (num 0) := by decide
theorem test_div_by_zero : left (exec (.div 4 3 0) sInt) (fun t => (t.reg 4, t.cur.causeCode, t.cur.tval, t.cur.mode, t.cur.pcc.tag))
    = some ({}, 9, 0x04830005, true, false) := by decide

/-! LIH after LIHH, and alone (R69). -/
def sLih : State := one { thr [(1, num (0x7F12 * 2 ^ 32))] with lihhPrev := some 1 }
theorem hyps_lih : sLih.Plain ∧ sLih.cur.lihhPrev = some 1 ∧ ¬sInt.cur.lihhPrev = some 1 := by decide
theorem test_lih_after_lihh : left (exec (.lih 1 0x8000) sLih) (fun t => t.reg 1) = some (num 0x00007F1280000000)
    ∧ left (exec (.lih 1 0x8000) sInt) (fun t => t.reg 1) = some (num 0xFFFFFFFF80000000) := by decide

/-! BranchesAndJumps (R72 to R75): taken inside the bounds, taken outside them, not taken. -/
theorem hyps_branches : sInt.Plain ∧ sInt.Traps ∧ sInt.cur.pc % 4 = 0 ∧ sInt.cur.pcc.base ≤ 56 ∧ 60 ≤ sInt.cur.pcc.top
    ∧ ((sInt.cur.pc + 4 * (-2 : BitVec 12).toInt) % 2 ^ 64).toNat = 56
    ∧ ¬(((sInt.cur.pc + 4 * (-17 : BitVec 12).toInt) % 2 ^ 64).toNat + 4 ≤ sInt.cur.pcc.top)
    ∧ sInt.word 1 = sInt.word 1 ∧ sInt.word 1 ≠ sInt.word 2 := by decide
theorem hyps_jumps : let s := one (thr [(1, num 64), (2, num 4096), (3, num 6)])
    s.Plain ∧ s.Traps ∧ s.cur.pcc.base = 0 ∧ s.cur.pcc.top = 4096 ∧ s.word 1 = 64 ∧ s.word 2 = 4096 ∧ (s.word 3).toNat % 4 ≠ 0
    ∧ ((s.cur.pc + 4 * (1 : BitVec 26).toInt) % 2 ^ 64).toNat = 68 ∧ ¬((s.cur.pc + 4 * (1008 : BitVec 26).toInt) % 2 ^ 64).toNat + 4 ≤ 4096 := by
  decide
theorem test_branch_taken : left (exec (.blt 1 2 (-2)) sInt) (fun t => t.cur.pc) = some 56 ∧ left (exec (.bltn 1 2 (-2)) sInt) (fun t => t.cur.pc) = some 68
    := by decide
theorem test_branch_outside : left (exec (.bne 1 2 (-17)) sInt) (fun t => (t.cur.causeCode, t.cur.tval)) = some (5, 0xFFFFFFFFFFFFFFFC) := by decide
theorem test_jlr_reads_before_linking : left (exec (.jlr 1 1) (one (thr [(1, num 128)]))) (fun t => (t.reg 1, t.cur.pc)) = some (num 68, 128) := by
  decide

/-! Capabilities (R76 to R81). -/
def sCap : State := one (thr [(1, cap 16 allPerms), (2, num 8), (3, cap 0 [permL]), (4, cap 5 [permY]), (5, (cap 16 allPerms).withOtype 5),
  (6, (cap 16 allPerms).withOtype 15), (7, num 7), (8, cap 18 [permX]), (9, cap 4096 [permX]), (10, cap 16 [permX]), (11, cap 15 [permY])])
theorem hyps_capabilities : sCap.Plain ∧ sCap.Traps ∧ (sCap.reg 1).tag = true ∧ (sCap.reg 1).otype = 0 ∧ (sCap.reg 2).tag = false
    ∧ (sCap.reg 5).otype = 5 := by decide
/-- SettingBounds: exact bounds at exponent 0, bounds outside the source, bounds that need rounding. -/
theorem hyps_bounds : let c := sCap.reg 1
    c.tag = true ∧ c.otype = 0 ∧ (c.addr + 8 + (2 ^ 0 - 1)) / 2 ^ 0 - c.addr / 2 ^ 0 < 2 ^ 21 ∧ c.base ≤ 16 ∧ 24 ≤ c.top ∧ ¬(c.addr + 2 ^ 20 ≤ c.top)
    ∧ ¬((c.addr + (2 ^ 21 + 1)) - c.addr < 2 ^ 21) ∧ ¬((c.addr + (2 ^ 21 + 1) + 1) / 2 * 2 = c.addr + (2 ^ 21 + 1)) := by decide
theorem test_cbnd : left (exec (.cbnd 12 1 2) sCap) (fun t => ((t.reg 12).tag, (t.reg 12).base, (t.reg 12).top, (t.reg 12).addr)) = some (true, 16, 24, 16) := by
  decide
theorem test_cbnd_outside : left (exec (.cbnd 12 9 2) sCap) (fun t => (t.cur.causeCode, t.cur.tval, t.reg 12)) = some (5, 4096, {}) := by decide
theorem hyps_derivation : sCap.Plain ∧ sCap.Traps ∧ (12 : RegNum) ≠ 0 ∧ left (exec (.cbnd 12 1 2) sCap) (fun t => t.cur.intrap) = some false
    ∧ left (exec (.cbnd 12 1 2) sCap) (fun t => (t.reg 12).tag) = some true := by decide
theorem hyps_sealing : (sCap.reg 1).tag = true ∧ (sCap.reg 4).tag = true ∧ (sCap.reg 4).otype = 0 ∧ (sCap.reg 4).has permY = true
    ∧ (sCap.reg 4).base ≤ (sCap.reg 4).addr ∧ (sCap.reg 4).addr < (sCap.reg 4).top ∧ (sCap.reg 4).addr = 5 ∧ (sCap.reg 5).otype = 5
    ∧ ¬(1 ≤ (sCap.reg 11).addr ∧ (sCap.reg 11).addr ≤ 14) ∧ (sCap.reg 11).has permY = true ∧ (sCap.reg 11).addr ≠ (sCap.reg 5).otype := by decide
theorem test_cseal_cunsl : left (exec (.cseal 12 1 4) sCap) (fun t => t.reg 12) = some (sCap.reg 5)
    ∧ left (exec (.cunsl 12 5 4) sCap) (fun t => t.reg 12) = some (sCap.reg 1) := by decide
theorem test_csadr_of_sealed : left (exec (.csadr 12 5 2) sCap) (fun t => ((t.reg 12).tag, (t.reg 12).addr)) = some (false, 8) := by decide
theorem test_ctsub : left (exec (.ctsub 12 1 3) sCap) (fun t => t.reg 12) = some (num 1) ∧ left (exec (.ctsub 12 3 1) sCap) (fun t => t.reg 12) = some (num 0)
    := by decide
/-- CapabilityJumps: a jump, and each check that fails. -/
theorem hyps_capability_jumps : (sCap.reg 1).has permX = true ∧ (sCap.reg 1).addr % 4 = 0 ∧ (sCap.reg 6).otype = 15 ∧ (sCap.reg 2).tag = false
    ∧ (sCap.reg 5).otype ≠ 0 ∧ (sCap.reg 5).otype ≠ 15 ∧ (sCap.reg 3).has permX = false ∧ (sCap.reg 8).addr % 4 ≠ 0 ∧ (sCap.reg 9).addr + 4 > (sCap.reg 9).top
    := by decide
theorem test_cjr_sentry : left (exec (.cjr 6) sCap) (fun t => (t.cur.pcc.otype, t.cur.pc)) = some (0, 16) := by decide
theorem test_cjr_checks : left (exec (.cjr 3) sCap) (fun t => (t.cur.causeCode, t.cur.tval)) = some (6, 3)
    ∧ left (exec (.cjr 8) sCap) (fun t => (t.cur.causeCode, t.cur.tval)) = some (8, 18) := by decide

/-! AccessChecks and the scratch accesses: register 1 is a capability at 64 with every permission, others fail one check each. -/
def sMem : State := { one (thr [(1, cap 64 allPerms), (2, num 64), (3, (cap 64 allPerms).withOtype 3), (4, cap 64 [permL]), (5, cap 4090 allPerms),
  (6, cap 65 allPerms), (7, num 0x1122334455667788)]) with scratch := mem 64 8 0xFFEEDDCCBBAA9988 }
theorem hyps_access_checks : sMem.wants (.st64 7 1 0 false) = some (1, 64, 8, [permS]) ∧ sMem.Traps ∧ sMem.Drained
    ∧ sMem.wants (.st64 7 2 0 false) = some (2, 64, 8, [permS]) ∧ (sMem.reg 2).tag = false
    ∧ (sMem.reg 3).tag = true ∧ (sMem.reg 3).otype ≠ 0
    ∧ (sMem.reg 4).otype = 0 ∧ (sMem.reg 4).has permS = false := by decide
theorem hyps_access_bounds : sMem.wants (.st64 7 5 0 false) = some (5, 4090, 8, [permS]) ∧ ¬(4090 + 8 ≤ (sMem.reg 5).top)
    ∧ sMem.wants (.st64 7 6 0 false) = some (6, 65, 8, [permS]) ∧ 65 + 8 ≤ (sMem.reg 6).top ∧ 65 % 8 ≠ 0 := by decide
theorem test_checks_in_order : left (exec (.st64 7 2 0 false) sMem) (fun t => (t.cur.causeCode, t.cur.tval)) = some (4, 2)
    ∧ left (exec (.st64 7 3 0 false) sMem) (fun t => (t.cur.causeCode, t.cur.tval)) = some (7, 3)
    ∧ left (exec (.st64 7 4 0 false) sMem) (fun t => (t.cur.causeCode, t.cur.tval)) = some (6, 4)
    ∧ left (exec (.st64 7 5 0 false) sMem) (fun t => (t.cur.causeCode, t.cur.tval)) = some (5, 4090)
    ∧ left (exec (.st64 7 6 0 false) sMem) (fun t => (t.cur.causeCode, t.cur.tval)) = some (8, 65) := by decide
/-- Loads, Stores, CapabilityMoves, FullEmpty, Atomics: what they have in common. -/
theorem hyps_scratch : sMem.formatM 1 0 8 = 64 ∧ sMem.Reaches 64 64 ∧ sMem.Passes 1 64 8 [permL, permS, permA] ∧ sMem.Passes 1 64 16 [permL]
    ∧ sMem.Passes 1 64 4 [permL, permS, permA] ∧ sMem.Passes 1 64 1 [permL] ∧ sMem.Passes 1 64 2 [permS]
    ∧ sMem.Passes 1 64 16 [permS] ∧ sMem.Passes 1 64 16 [permS, permSC]
    ∧ sMem.released sMem.turn = true ∧ (sMem.cluster (clusterOf sMem.turn.core)).waiters = [] ∧ (sMem.word 1).toNat = 64 := by decide
theorem hyps_sound : sMem.Sound 64 8 ∧ sMem.Sound 64 16 ∧ sMem.Sound 64 128 ∧ sMem.Sound 64 64 :=
  have h : sMem.scratch.wf := by decide
  ⟨⟨h, fun _ _ _ => rfl⟩, ⟨h, fun _ _ _ => rfl⟩, ⟨h, fun _ _ _ => rfl⟩, ⟨h, fun _ _ _ => rfl⟩⟩
theorem test_load_signs : left (exec (.ldS32 9 1 0 false) sMem) (fun t => t.reg 9) = some (num 0xFFFFFFFFBBAA9988)
    ∧ left (exec (.ldN32 9 1 0 false) sMem) (fun t => t.reg 9) = some (num 0xBBAA9988) := by decide
theorem test_load_offset_scales : left (exec (.ldN16 9 1 1 false) sMem) (fun t => t.reg 9) = some (num 0xBBAA)
    ∧ left (exec (.ldN8 9 1 7 false) sMem) (fun t => t.reg 9) = some (num 0xFF) := by decide
theorem test_store_little_endian : left (exec (.st16 7 1 1 false) sMem) (fun t => t.scratch.read 64 8) = some 0xFFEEDDCC77889988 := by decide
theorem test_store_clears_tag : left (exec (.st8 7 1 0 false) { sMem with scratch := sMem.scratch.setTag 64 true }) (fun t => t.scratch.tag 64)
    = some false := by decide
theorem test_stc_ldc : left (exec (.stc 1 1 0) sMem) (fun t => (t.scratch.tag 64, left (exec (.ldc 9 1 0) t) (fun u => u.reg 9)))
    = some (true, some (cap 64 allPerms)) := by decide
/-- FullEmpty: an empty word and a full one. -/
theorem hyps_full_empty : sMem.scratch.isFull 64 = false ∧ ({ sMem with scratch := sMem.scratch.setFull 64 true } : State).scratch.isFull 64 = true
    ∧ (sMem.cluster 0).waiters = [] ∧ sMem.released sMem.turn = true := by decide +kernel
theorem test_stf_fills : left (exec (.stf 7 1 0) sMem) (fun t => (t.scratch.isFull 64, t.scratch.read 64 8)) = some (true, 0x1122334455667788) := by decide
theorem test_lde_waits : left (exec (.lde 9 1 0) sMem) (fun t => (t.cur.status == .running, t.cur.pc)) = some (false, 64) := by decide
theorem test_lde_empties : left (exec (.lde 9 1 0) { sMem with scratch := sMem.scratch.setFull 64 true }) (fun t => (t.scratch.isFull 64, t.reg 9))
    = some (false, num 0xFFEEDDCCBBAA9988) := by decide
theorem test_aadd_32 : left (exec (.aadd 9 1 7 false .device .rlx) sMem) (fun t => (t.reg 9, t.scratch.read 64 8))
    = some (num 0xBBAA9988, 0xFFEEDDCC11111110) := by decide
theorem test_acas : left (exec (.acas 9 1 7 true .device .rlx) sMem) (fun t => t.scratch.read 64 8) = some 0xFFEEDDCCBBAA9988
    ∧ left (exec (.acas 9 1 7 true .device .rlx) (sMem.setCur (sMem.cur.setReg 9 (num 0xFFEEDDCCBBAA9988)))) (fun t => t.scratch.read 64 8)
      = some 0x1122334455667788 := by decide
theorem test_amin_signed : left (exec (.amin 9 1 7 true .device .rlx) sMem) (fun t => t.scratch.read 64 8) = some 0xFFEEDDCCBBAA9988
    ∧ left (exec (.aminn 9 1 7 true .device .rlx) sMem) (fun t => t.scratch.read 64 8) = some 0x1122334455667788 := by decide
theorem test_afadd : left (exec (.afadd 9 1 8 .device .rlx) { one (thr [(1, cap 64 allPerms), (8, num 0x3F800000)]) with scratch := mem 64 4 0x40000000 })
    (fun t => (t.reg 9, t.scratch.read 64 4)) = some (num 0x40000000, 0x40400000) := by decide

/-! CapabilityChecksOfScratch: a cluster outside the domain, a contained core, a poisoned word. -/
def sOut : State := one (thr [(1, (capFor 0x200000 4096 allPerms).withAddr 0x200000), (2, (capFor 0x8000 4096 allPerms).withAddr 0x8000)])
theorem hyps_scratch_refusals : sOut.wants (.ldS64 3 1 0 false) = some (1, 0x200000, 8, [permL]) ∧ sOut.Traps ∧ sOut.Drained
    ∧ sOut.Passes 1 0x200000 8 [permL] ∧ sOut.released sOut.turn = true ∧ scratchOf (sOut.domainAt 0) 0x200000 = some 0x200000
    ∧ (sOut.domainAt 0).holds (clusterOf (scratchCore 0x200000)) = false
    ∧ (sOut.domainAt 0).holds (clusterOf (scratchCore 0x8000)) = true
    ∧ ((sOut.setCore 1 { contained := true }).core (scratchCore 0x8000)).contained = true
    ∧ (sOut.setCore 1 { contained := true }).Passes 2 0x8000 8 [permL] := by decide
theorem test_scratch_refusals : left (exec (.ldS64 3 1 0 false) sOut) (fun t => (t.cur.causeCode, t.cur.tval)) = some (6, 1)
    ∧ left (exec (.ldS64 3 2 0 false) (sOut.setCore 1 { contained := true })) (fun t => (t.cur.causeCode, t.cur.tval)) = some (0x12, 0x8000) := by decide
def sPoison : State := { sMem with scratch := sMem.scratch.setPoison 72 true }
theorem hyps_poison : sPoison.wants (.ldQ128 9 1 0 false) = some (1, 64, 16, [permL]) ∧ sPoison.Traps ∧ sPoison.Reaches 64 64
    ∧ sPoison.Passes 1 64 16 [permL] ∧ sPoison.released sPoison.turn = true ∧ NatSet.has sPoison.scratch.poison 9 = true
    ∧ (∀ v < 9, 64 < 8 * v + 8 → NatSet.has sPoison.scratch.poison v = false) := by decide
theorem test_poison : left (exec (.ldQ128 9 1 0 false) sPoison) (fun t => (t.cur.causeCode, t.cur.tval)) = some (0x11, 72) := by decide

/-! RelaxedIssue. -/
theorem hyps_relaxed : sMem.Plain ∧ sMem.cur.spec = false ∧ sMem.cur.rx.length < 4 ∧ scratchOf (sMem.domainAt 0) 64 = some 64
    ∧ (sMem.domainAt 0).holds (clusterOf (scratchCore 64)) = true ∧ (sMem.core (scratchCore 64)).contained = false
    ∧ (Instr.ldS32 9 1 0 true, 4, true) ∈ [(Instr.ldS8 9 1 0 true, 1, true), (.ldS32 9 1 0 true, 4, true)] := by decide
theorem test_rx_clears_presence : left (exec (.ldS64 9 1 0 true) sMem) (fun t => (t.cur.presence.getLsbD 9, t.cur.rx.length, t.cur.pc)) = some (false, 1, 68)
    := by decide

/-- A port that holds the leaf of the page at 2^31, whose entry at 0 of the HBM has DSS set. -/
def leaf : TlbEntry := { va := 2 ^ 31, size := 4096, pte := 0x8000703, pteAddr := 0, dom := 0 }
def page0 : TlbEntry := { leaf with va := 0, pte := 0x703, size := 4096 }

/-! CachedAccesses: a line of the global path held in the L1. -/
def sL1 : State := one (thr [(1, (capFor (2 ^ 31) 4096 allPerms).withAddr (2 ^ 31)), (7, num 5)])
  { l1 := [(2 ^ 25, { data := 0x1234, valid := BitVec.allOnes 64 })] }
theorem hyps_cached : sL1.formatM 1 0 8 = 2 ^ 31 ∧ sL1.Plain ∧ sL1.Drained ∧ scratchOf (sL1.domainAt 0) (2 ^ 31) = none ∧ sL1.domainOfCore 0 = some 0
    ∧ (sL1.reg 1).has permD = true ∧ sL1.Passes 1 (2 ^ 31) 8 [permL] ∧ sL1.Passes 1 (2 ^ 31) 8 [permS]
    ∧ (Map.find (sL1.core 0).l1 (2 ^ 31 / 64)).isSome = true
    ∧ sL1.cur.status = .running ∧ sL1.cur.spec = false ∧ sL1.turn.slot < 15
    ∧ (Map.find (sL1.core 0).l1 (2 ^ 31 / 64)).map (fun l => (l.pre, l.poison, l.valid)) = some (false, 0, BitVec.allOnes 64) := by decide +kernel
/-- Through a capability without D on a page of HBM; the other sizes. -/
def sNoD : State := { sL1 with threads := [(0, thr [(1, (capFor (2 ^ 31) 4096 [permL, permS]).withAddr (2 ^ 31)), (7, num 5)])], clusters := [(0, { tlb := [leaf] })] }
theorem hyps_cached_no_d : (sNoD.reg 1).has permD = false ∧ (match translate sNoD 0 0 (2 ^ 31) with
      | .ok e => pteType e.pte != 2
      | .error _ => true) = true
    ∧ (List.map (fun n => sNoD.formatM 1 0 n) [1, 2, 4, 8, 16]) = List.replicate 5 (2 ^ 31) ∧ sNoD.Passes 1 (2 ^ 31) 16 [permL, permS] := by decide +kernel
theorem test_l1_no_d : left (exec (.ldN16 9 1 0 false) sNoD) (fun t => t.reg 9) = some (num 0x1234) := by decide +kernel
theorem test_l1_store : left (exec (.st64 7 1 0 false) sL1) (fun t => ((Map.find (t.core 0).l1 (2 ^ 25)).map (fun l => (l.data, l.dirty)), sigHit t.cur.own (2 ^ 25)))
    = some (some (5, 0xFF), true) := by decide +kernel
theorem test_l1_load : left (exec (.ldS64 9 1 0 false) sL1) (fun t => t.reg 9) = some (num 0x1234) := by decide +kernel

/-! Blocks and Fences. -/
def sBlock : State := one { thr [(1, cap 128 allPerms), (7, num 5)] with own := 1, inh := 2 }
theorem hyps_blocks : (sBlock.word 1).toNat = 128 ∧ sBlock.Reaches 128 128 ∧ sBlock.Passes 1 128 128 [permL, permS] ∧ sBlock.released sBlock.turn = true
    ∧ sBlock.turn.core < 2 ^ 16 ∧ sBlock.scratch.wf := by decide
theorem test_strel : left (exec (.strel 7 1 .device) sBlock) (fun t => (t.scratch.read 128 8, t.scratch.read 160 96, t.cur.own, t.scratch.read 136 8 / 2 ^ 32 % 8))
    = some (5, 3, 0, 3) := by decide +kernel
def sOwes : State := one (thr []) { l1 := [(2 ^ 25, { valid := 1, dirty := 1, writers := 1 })] }
theorem hyps_fences : sBlock.Plain ∧ sBlock.Drained ∧ sBlock.released sBlock.turn = true ∧ sOwes.Plain ∧ sOwes.Drained ∧ sOwes.released sOwes.turn = false
    ∧ (15 : BitVec 4).getLsbD 2 = true ∧ (1 : BitVec 4).getLsbD 0 = true := by decide
theorem test_fence_ss_parks : left (exec (.fence 4 .device) sOwes) (fun t => t.cur.status == .parked (.release (.fence 4 .device))) = some true := by decide

/-! CacheInstructions (R103 to R105): checks, scratch ranges, ranges of the global path that owe nothing or owe a write-back, pins. -/
def sRange : State := { one (thr [(1, (capFor (2 ^ 31) 4096 allPerms).withAddr (2 ^ 31)), (2, num 128), (3, num 5000), (4, num 0), (5, cap 64 allPerms),
  (6, (capFor (2 ^ 31) 4096 [permL]).withAddr (2 ^ 31)), (7, (cap 64 allPerms).withOtype 3)]) { l1 := [(2 ^ 25, { valid := 1 })] } with
  hbm := (mem 1 1 0x20).write 92 4 1 }
theorem hyps_cache_checks : sRange.Traps ∧ sRange.Drained ∧ (sRange.reg 2).tag = false ∧ (sRange.reg 7).otype ≠ 0 ∧ (sRange.reg 6).has permS = false
    ∧ ¬((sRange.reg 1).addr + (sRange.word 3).toNat ≤ (sRange.reg 1).top) := by decide
theorem hyps_cache_ranges : sRange.Plain ∧ (sRange.reg 1).tag = true ∧ (sRange.reg 1).otype = 0 ∧ (sRange.reg 1).has permS = true
    ∧ (sRange.reg 1).addr + 128 ≤ (sRange.reg 1).top ∧ scratchOf (sRange.domainAt 0) (2 ^ 31) = none
    ∧ (scratchOf (sRange.domainAt 0) 64).isSome = true ∧ sRange.rangeClean 0 (2 ^ 25) (2 ^ 25 + 2) = true
    ∧ (∀ e ∈ (sRange.core 0).l1, Map.find (sRange.core 0).l1 e.1 = some e.2) := by decide +kernel
theorem hyps_cache_owed : sOwes.rangeClean 0 (2 ^ 25) (2 ^ 25 + 1) = false ∧ (sRange.reg 1).addr % 64 = 0 ∧ (sRange.word 2).toNat % 64 = 0
    ∧ sRange.rangeClean 0 (2 ^ 25) (2 ^ 25 + 2) = true := by decide
theorem test_cinv_drops : left (exec (.cinv 1 2) sRange) (fun t => ((t.core 0).l1, t.cur.pc)) = some ([], 68) := by decide
theorem test_cache_perm : left (exec (.cinv 6 2) sRange) (fun t => (t.cur.causeCode, t.cur.tval)) = some (6, 6)
    ∧ left (exec (.cflu 1 3) sRange) (fun t => (t.cur.causeCode, t.cur.tval)) = some (5, 0x80000000) := by decide
/-- LineLocks: two lines of HBM that no cluster has pinned, under a quota, past it, and in a set that has 12 pinned ways. -/
def lockLines (s : State) : List (Nat × Nat) := (linesIn (2 ^ 31) 128).flatMap (fun y => match translate s 0 0 (64 * y) with
  | .ok e => if pteType e.pte = 0 then [(pteHome e.pte, (pteFrame e.pte + (64 * y - e.va)) / 64)] else []
  | .error _ => [])
def sLocks (quota : Nat) (pins : NatSet := []) : State :=
  { sRange with clusters := [(0, { tlb := [leaf], pinned := pins })], domains := [(0, { descr := BitVec.ofNat 1024 (quota * 256 ^ 92) })] }
def fullSet : NatSet := (List.range 12).map (fun i => 128 + 2048 * (i + 1))
theorem hyps_pins : let s := sLocks 9
    s.Plain ∧ s.Drained ∧ s.cur.spec = false ∧ (s.reg 1).tag = true ∧ (s.reg 1).otype = 0 ∧ (s.reg 1).addr + 128 ≤ (s.reg 1).top ∧ s.domainOfCore 0 = some 0
    ∧ (s.domain 0).clusters = [0] ∧ lockLines s = [(0, 128), (0, 129)] ∧ (s.domain 0).descr.toNat / 256 ^ 92 % 256 ^ 4 = 9
    ∧ ((sLocks 1).domain 0).descr.toNat / 256 ^ 92 % 256 ^ 4 = 1 ∧ (NatSet.ins (NatSet.ins fullSet 128) 129).filter (fun y => y % 2048 = 128) = 128 :: fullSet
    ∧ fullSet.length = 12 := by decide +kernel
theorem hyps_pins_mapped : ∀ y ∈ linesIn (2 ^ 31) 128, ∃ e, translate (sLocks 9) 0 0 (64 * y) = .ok e := by
  have h : ∀ y ∈ linesIn (2 ^ 31) 128, (match translate (sLocks 9) 0 0 (64 * y) with
    | .ok _ => true
    | .error _ => false) = true := by decide +kernel
  intro y hy
  have := h y hy
  split at this
  · exact ⟨_, ‹_›⟩
  · exact absurd this (by decide)
theorem test_llck : left (exec (.llck 9 1 2) (sLocks 9)) (fun t => (t.reg 9, (t.cluster 0).pinned)) = some (num 0, [128, 129])
    ∧ left (exec (.llck 9 1 2) (sLocks 1)) (fun t => (t.reg 9, (t.cluster 0).pinned)) = some (num 1, [])
    ∧ left (exec (.llck 9 1 2) (sLocks 20 fullSet)) (fun t => (t.reg 9, (t.cluster 0).pinned.length)) = some (num 2, 12)
    ∧ left (exec (.lulk 9 1 2) (sLocks 9 [7, 128])) (fun t => (t.reg 9, (t.cluster 0).pinned)) = some (num 0, [7]) := by decide +kernel

/-! TaskEnqueue (R137 to R141): a record at 64 with timestamp and hint; its width in bits 9:0 of bytes 14 and 15. -/
def sTask (flags : Nat) : State := { one { thr [(1, cap 64 allPerms), (2, num 10), (3, num 1)] with vt := ⟨5, 3 * 2 ^ 10⟩ } with
  scratch := mem 64 64 (flags * 2 ^ 112 + 77 * 2 ^ 96) }
theorem hyps_tenq : (sTask 0).Reaches 64 64 ∧ (sTask 0).Passes 1 64 64 [permL, permQ] ∧ (sTask 0).released (sTask 0).turn = true
    ∧ (sTask 0).domainOfCore 0 = some 0 ∧ (sTask 0).Traps ∧ ((sTask 0).word 3).toNat < (sTask 0).cur.vt.ts.toNat
    ∧ (sTask 0).cur.vt.ts.toNat ≤ ((sTask 0).word 2).toNat ∧ ¬(960 < (sTask 0).scratch.read 78 2 % 1024 + 1)
    ∧ max ((sTask 0).cluster 0).ctr.toNat ((sTask 0).cur.vt.tb.toNat / 2 ^ 10) + 1 < 2 ^ 54 ∧ (5 : RegNum) ≠ 0 := by decide +kernel
theorem hyps_tenq_wide : 960 < (sTask 960).scratch.read 78 2 % 1024 + 1 ∧ (sTask 0x9C0).scratch.read 78 2 / 2 ^ 11 % 2 = 1
    ∧ 448 < (sTask 0x9C0).scratch.read 78 2 % 1024 + 1 := by decide +kernel
/-- NOHINT in a cluster whose queue holds 1,536 entries goes to the least occupied cluster of the last round. -/
def sCrowd : State := { sTask 0x1000 with
  clusters := [(0, { queue := (List.range 1536).map (fun i => (i, { rcd := {}, vt := {}, spec := true, dup := false, width := 1 })) })]
  domains := [(0, { cols := 2, round := some ⟨none, none, 0, [7, 3], [], false, false⟩ })] }
theorem hyps_tenq_place : (sCrowd.scratch.read 78 2) / 2 ^ 12 % 2 = 1 ∧ 1536 ≤ (sCrowd.cluster 0).queue.length ∧ (sCrowd.domain 0).round.map (fun r => r.occ) = some [7, 3]
    ∧ (sTask 0).scratch.read 78 2 / 2 ^ 12 % 2 ≠ 1 ∧ (sTask 0x1000).scratch.read 78 2 / 2 ^ 12 % 2 = 1 ∧ ((sTask 0x1000).cluster 0).queue.length < 1536
    ∧ (sTask 0).domainOf 0 = some 0 ∧ ((sTask 0).cluster 0).flying = [] ∧ (sTask 0).scratch.wf ∧ (sTask 0).scratch.poison = [] := by decide +kernel
theorem test_tenq_places : left (exec (.tenqw 5 1 2) sCrowd) (fun t => (t.cluster 1).flying.map (fun f => (f.target, f.wait))) = some [(1, true)] := by decide +kernel
theorem test_tenq_tsback : left (exec (.tenq 5 1 3) (sTask 0)) (fun t => (t.cur.causeCode, t.cur.tval)) = some (10, 1) := by decide +kernel
theorem test_tenq_too_wide : left (exec (.tenq 5 1 2) (sTask 960)) (fun t => t.reg 5) = some (num 2)
    ∧ left (exec (.tenq 0 1 2) (sTask 960)) (fun t => (t.cur.causeCode, t.cur.tval)) = some (15, 77) := by decide +kernel
theorem test_tenq_sends : left (exec (.tenq 5 1 2) (sTask 0)) (fun t => (t.cluster 0).flying.map (fun f => (f.vt, f.rcd.get 0 8)))
    = some [(⟨10, 4 * 2 ^ 10⟩, 10)] := by decide +kernel

/-! TaskControl (R159, R169 to R173). -/
def entry : TaskEntry := { rcd := {}, vt := ⟨5, 0⟩, spec := true, dup := false, width := 1, st := .running, threads := [⟨0, 0⟩] }
def sSpec : State := one { thr [(1, num 1)] with spec := true, task := some ⟨0, 3, 0⟩, domain := some 0, vt := ⟨5, 0⟩ } {} { queue := [(3, entry)] }
  { round := some ⟨some ⟨5, 0⟩, none, 0, [], [], false, false⟩ }
theorem hyps_task_control : sInt.refusedRows sInt.turn = [] ∧ sSpec.Plain ∧ sSpec.Drained ∧ sSpec.cur.spec = true ∧ sSpec.cur.task = some ⟨0, 3, 0⟩
    ∧ sSpec.taskOf ⟨0, 3, 0⟩ = some entry ∧ entry.spec = true ∧ (sSpec.cluster 0).aborts = [] ∧ (sSpec.domainAt 0).round.isSome = true
    ∧ (sMem.domainAt 0).round = none ∧ sMem.quiet sMem.turn = true := by decide +kernel
/-- The irrevocable words of a speculative task: a capability that passes, and a word behind an ELECT. -/
def sIrv : State := { sSpec with
  threads := [(0, { sSpec.cur with regs := [(1, cap 64 allPerms)] })], cores := [(0, { icache := [(1, { data := BitVec.ofNat 512 (0x04A63800 * 2 ^ 32) })] })] }
theorem hyps_irrevocable_words : sIrv.Plain ∧ sIrv.Drained ∧ sIrv.cur.spec = true ∧ sIrv.taskOf ⟨0, 3, 0⟩ = some entry ∧ sIrv.refusedRows sIrv.turn = []
    ∧ sIrv.Passes 1 (sIrv.word 1).toNat 8 [permL, permS, permA] ∧ sIrv.wants (.lde 9 1 0) = some (1, 64, 8, [permL]) ∧ sIrv.wants (.stx 9 1 0) = some (1, 64, 8, [permS])
    ∧ sIrv.Passes 1 64 8 [permL, permS] ∧ (sIrv.reg 1).otype = 0 ∧ (match sIrv.governed with
      | .word w => w == 0x04A63800 && (decodeFault sIrv.cur w).isNone
      | _ => false) = true := by decide +kernel
def row : OutRow := ⟨0, 0, 0, [], ⟨0, 0⟩, .refused 3 true false, 0, false, false⟩
def sRefused : State := one (thr [(1, cap 0 allPerms)]) { outbox := [(0, row)] }
theorem hyps_tend_refused : sRefused.Traps ∧ sRefused.refusedRows sRefused.turn ≠ [] := by decide
theorem test_tend_accabs : left (exec .tend sRefused) (fun t => (t.cur.causeCode, t.cur.tval)) = some (12, 1) := by decide
theorem test_tvt : left (exec (.tvt 9 0) (sTask 0)) (fun t => t.reg 9) = some (untagged128 (3 * 2 ^ 74 + 5)) := by decide +kernel
theorem test_tabt_discards : left (exec (.tabt 1) sSpec) (fun t => (t.cluster 0).aborts) = some [(3, .discard)] := by decide
theorem test_irrevocable_parks : left (exec (.garr 5) sSpec) (fun t => (t.cur.status == .parked .irrevocable, (t.taskOf ⟨0, 3, 0⟩).map (fun e => e.st)))
    = some (true, some .waiting) := by decide
theorem test_csig_adds : left (exec (.csig 9 1 2) sMem) (fun t => (t.reg 9, t.scratch.read 64 8)) = some (num 0xFFEEDDCCBBAA9988, 0xFFEEDDCCBBAA99C8) := by
  decide +kernel

/-! GangInstructions, NeighbourRegisters, GangEvents (R177 to R189): slots 0 and 1 of core 0 in one gang with barrier entry 2. -/
def gang : Barrier := { width := 2, live := [⟨0, 0⟩, ⟨0, 1⟩] }
def mate : Thread := { thr [(1, num 9)] with task := some ⟨0, 3, 0⟩, domain := some 0, gsiz := 2, ap := 1, lv := 0 }
def sGang : State := { one mate {} { queue := [(3, { entry with spec := false, width := 2, bar := some 2, threads := [⟨0, 0⟩, ⟨0, 1⟩] })], bars := [(2, gang)] } with
  threads := [(0, mate), (1, { mate with grnk := 1 }), (16, { mate with grnk := 1 })] }
theorem hyps_gang : sGang.Plain ∧ sGang.Drained ∧ sGang.cur.spec = false ∧ sGang.barrierOf sGang.turn = some (0, 2)
    ∧ Map.find (sGang.cluster 0).bars 2 = some gang ∧ gang.broken = none ∧ sGang.refusedRows sGang.turn = []
    ∧ sGang.cur.lv + 1 = sGang.cur.ap ∧ sGang.released sGang.turn = true
    ∧ (sGang.setCur { sGang.cur with ap := 2 }).cur.lv + 1 ≠ 2 := by decide +kernel
theorem test_garr : left (exec (.garr 5) sGang) (fun t => (t.reg 5, t.cur.ap, (t.cluster 0).bars.map (fun e => e.2.msgs.length))) = some (num 1, 2, [1]) := by
  decide +kernel
theorem hyps_neighbours : neighbour 0 .e = some 1 ∧ neighbour 0 .w = none ∧ (sGang.core 1).contained = false ∧ (sGang.thread ⟨1, 0⟩).live = true
    ∧ (sGang.thread ⟨1, 0⟩).task = sGang.cur.task ∧ sGang.cur.task.isSome = true ∧ (sGang.thread ⟨1, 5⟩).live = false
    ∧ ((sGang.setCore 1 { contained := true }).core 1).contained = true ∧ sGang.Traps
    ∧ sGang.cur.presence.getLsbD 5 = true ∧ (sGang.setCur { sGang.cur with absent := 32 }).cur.presence.getLsbD 5 = false := by decide +kernel
theorem test_rput : left (exec (.rput 5 1 7 0 .e) sGang) (fun t => (t.reg 5, (t.core 1).puts)) = some (num 0, [⟨0, 7, num 9, 0, false⟩])
    ∧ left (exec (.rput 5 1 7 0 .w) sGang) (fun t => t.reg 5) = some (num 1) := by decide +kernel
/-- The open phase counts the arrivals and the ended threads that had not arrived at it; a thread that ended after its arrival counts once. -/
def here (e : Barrier) : Nat := e.p1.arr + (e.gone.filter (fun ap => decide ((e.lc + 1 - ap).toNat < 2 ^ 31))).length
theorem hyps_barrier_cycle : here { gang with p1 := { arr := 2 } } = gang.width ∧ here { gang with p1 := { arr := 1 }, gone := [1] } = gang.width
    ∧ here { gang with p1 := { arr := 1 }, gone := [2] } ≠ gang.width ∧ here gang ≠ gang.width ∧ gang.msgs = [] := by decide
theorem test_barrier_cycle : left (exec .barrierCycle { sGang with clusters := [(0, { bars := [(2, { gang with p1 := { arr := 1 }, gone := [2] })] })], ev := { entry := 2 } })
      (fun t => (t.cluster 0).bars.map (fun e => e.2.lc)) = some [0]
    ∧ left (exec .barrierCycle { sGang with clusters := [(0, { bars := [(2, { gang with p1 := { arr := 1 }, gone := [1] })] })], ev := { entry := 2 } })
      (fun t => (t.cluster 0).bars.map (fun e => e.2.lc)) = some [1] := by decide +kernel
def sWait : State := { sGang with threads := [(0, { mate with status := .parked (.gwait 5), ap := 2 })]
                                  clusters := [(0, { bars := [(2, { gang with live := [⟨0, 0⟩], lc := 1, wake := [1] })] })], ev := { entry := 2 } }
theorem hyps_barrier_wake : (sWait.thread ⟨0, 0⟩).wait = some (.gwait 5) ∧ (1 : BitVec 32) + 1 = (sWait.thread ⟨0, 0⟩).ap
    ∧ (sWait.thread ⟨0, 0⟩).electing = none ∧ (sWait.thread ⟨0, 0⟩).inFrame = false := by decide
theorem test_barrier_wake : left (exec .barrierWake sWait) (fun t => ((t.thread ⟨0, 0⟩).reg 5, (t.thread ⟨0, 0⟩).lv, (t.thread ⟨0, 0⟩).pc)) = some (num 1, 1, 68) := by
  decide +kernel
def sPost : State := { sGang with threads := [(0, { mate with status := .parked .elect, electReg := 5 })]
                                  clusters := [(0, { queue := (sGang.cluster 0).queue, bars := [(2, { gang with post := some ⟨0, some (num 7), [⟨0, 0⟩]⟩ })] })], ev := { entry := 2 } }
theorem hyps_elect_post : (sPost.thread ⟨0, 0⟩).wait = some .elect ∧ sPost.barrierOf ⟨0, 0⟩ = some (0, 2) ∧ (0 : BitVec 32) = (sPost.thread ⟨0, 0⟩).electCount
    ∧ (⟨0, 0⟩ : Tid) ∈ [(⟨0, 0⟩ : Tid)] := by decide +kernel
theorem test_elect_post : left (exec .electPostArrival sPost) (fun t => ((t.thread ⟨0, 0⟩).reg 5, (t.thread ⟨0, 0⟩).pc)) = some (num 7, 72) := by decide +kernel
def sPut : State := one mate { puts := [⟨0, 7, cap 4 [permL], 1, false⟩] }
theorem hyps_put : clusterOf 1 = clusterOf 0 ∧ (sPut.core 0).preempted = false ∧ (sPut.core 0).resuming = false ∧ (sPut.thread ⟨0, 0⟩).status = .running
    ∧ (7 : RegNum) ≠ 0
    ∧ (sPut.thread ⟨0, 0⟩).trail = none := by decide +kernel
theorem test_put_delivery : left (exec .rputDelivery sPut) (fun t => ((t.thread ⟨0, 0⟩).reg 7, (t.core 0).puts)) = some (cap 4 [permL], []) := by decide +kernel
def sPutPair : State := { sPut with threads := [(0, { mate with dup := true }), (7, { mate with dup := true, trail := some {} })] }
theorem hyps_put_pair : (sPutPair.thread ⟨0, 0⟩).dup = true ∧ (sPutPair.thread ⟨0, 0 + 7⟩).trail.isSome = true
    ∧ left (exec .rputDelivery sPutPair) (fun t => (t.thread ⟨0, 7⟩).reg 7) = some (cap 4 [permL]) := by decide +kernel

/-! TaskUnitEvents (R143 to R159). -/
def flight : FlyRec := { rcd := {}, vt := ⟨5, 1024⟩, parent := none, target := 0, issuer := some ⟨0, 0⟩, d := 5, wait := false }
def sArrive : State := one { thr [] with status := .parked (.tenqSent 5 false 0) } {} { flying := [flight] }
theorem hyps_record_arrival : (sArrive.cluster 0).flying = [flight] ∧ sArrive.domainOf 0 = some 0 ∧ flight.issuer = some ⟨0, 0⟩
    ∧ Map.firstFree (sArrive.cluster 0).queue 2048 = some 0 ∧ (sArrive.thread ⟨0, 0⟩).wait = some (.tenqSent 5 false 0)
    ∧ clusterOf 0 = 0 ∧ (sArrive.thread ⟨0, 0⟩).electing = none ∧ (sArrive.thread ⟨0, 0⟩).inFrame = false := by decide +kernel
theorem test_record_arrival : left (exec .taskRecordArrival sArrive) (fun t => ((Map.find (t.cluster 0).queue 0).map (fun e => e.vt), (t.thread ⟨0, 0⟩).pcc.addr))
    = some (some ⟨5, 1024⟩, 68) := by decide +kernel
def sBlocks : State := { one (thr []) {} { blocks := [⟨4096, [({}, ⟨7, 0⟩, none)]⟩], tlb := [{ leaf with va := 4096, pte := 0x4000703 }] } with
  hbm := mem (0x1000 + 512) 8 7 }
theorem hyps_refill : (sBlocks.cluster 0).blocks = [⟨4096, [({}, ⟨7, 0⟩, none)]⟩] ∧ (sBlocks.cluster 0).cancel = []
    ∧ (sBlocks.cluster 0).queue.length < 1024 ∧ Map.firstFree (sBlocks.cluster 0).queue 2048 = some 0
    ∧ ((sBlocks.domRead 0 4096 4096).map (fun v => v / 256 ^ 512)) = some 7 ∧ sBlocks.domainOf 0 = some 0
    ∧ sBlocks.devNeeds 0 4096 4096 false = sBlocks ∧ (sBlocks.cluster 0).aborts = [] := by decide +kernel
theorem test_refill : left (exec .taskRefill sBlocks) (fun t => (t.cluster 0).queue.map (fun e => e.2.vt)) = some [⟨7, 0⟩] := by decide +kernel
def sDispatch : State := { one {} {} { queue := [(3, { entry with spec := false, st := .queued, threads := [], rcd := { bytes := 9 * 2 ^ 128, tags := 1 } })] }
  { round := some ⟨some ⟨5, 0⟩, none, 0, [], [], false, false⟩ } with threads := [] }
theorem hyps_dispatch : sDispatch.domainOf 0 = some 0 ∧ sDispatch.eligible 0 ⟨5, 0⟩ = true ∧ sDispatch.isLowest 0 ⟨5, 0⟩ = true
    ∧ sDispatch.pickSlots 0 1 false = some [⟨0, 0⟩]
    ∧ sDispatch.devNeeds 0 (sDispatch.domain 0).ddesc.toNat 128 false = sDispatch ∧ (sDispatch.loadDesc 0).devNeeds 0 ((sDispatch.loadDesc 0).formatVa 0 { bytes := 9 * 2 ^ 128, tags := 1 }) 16 false = sDispatch.loadDesc 0
    ∧ (∀ e ∈ sDispatch.clusters, e.2.cancel = []) := by decide +kernel
theorem test_dispatch : left (exec .taskDispatch sDispatch) (fun t => let h := t.thread ⟨0, 0⟩; (h.status == .running, h.mode, (h.reg 2), h.reg 5, h.isat))
    = some (true, false, ⟨9, true⟩, {}, true) := by decide +kernel
def commit : CommitEntry := { entry := 3, readSig := BitVec.allOnes 1024 }
def probed : LineRec := { va := 640, probe := some (⟨0, 9, 0⟩, ⟨1, 2⟩, [0]) }
def sProbe : State := { one (thr []) {} { lines := [(1, probed)], queue := [(3, { entry with commit := some 4 })], commits := [(4, commit)] } with
  ev := { line := 10, ts := 1, tb := 2 } }
theorem hyps_probe : probed.va / 64 = 10 ∧ VT.lt ⟨1, 2⟩ entry.vt = true ∧ commit.reads 10 = true ∧ (0 : Nat) ∈ [0]
    ∧ sProbe.clusters = [(0, sProbe.cluster 0)] ∧ (sProbe.cluster 0).aborts = [] := by decide +kernel
theorem test_probe_aborts : left (exec .ovfProbe sProbe) (fun t => (t.cluster 0).aborts) = some [(3, .requeue)] := by decide +kernel
def sAbort : State := { sSpec.setCluster 0 { queue := [(3, entry)], aborts := [(3, .requeue)] } with ev := { entry := 3 } }
theorem hyps_abort : sAbort.domainOf 0 = some 0 ∧ (sAbort.cluster 0).aborts = [(3, .requeue)] ∧ entry.threads = [⟨0, 0⟩] ∧ entry.commit = none
    ∧ entry.parent = none ∧ (sAbort.thread ⟨0, 0⟩).dup = false
    ∧ ∀ x ∈ sAbort.clusters, x.2.lineQueue = [] := by decide +kernel
theorem hyps_abort_lines : ∀ x, (sAbort.cluster x).lines = [] := by
  intro x
  show (Map.get ({} : Cluster) [(0, { queue := [(3, entry)], aborts := [(3, .requeue)] })] x).lines = []
  unfold Map.get Map.get
  split <;> rfl
theorem test_abort_requeues : left (exec .taskAbort sAbort) (fun t => ((t.thread ⟨0, 0⟩).status == .idle, (t.cluster 0).queue.map (fun e => (e.2.st, e.2.run))))
    = some (true, [(.queued, 1)]) := by decide +kernel
theorem hyps_sample : (Map.find sSpec.domains 0).isSome = true ∧ sSpec.unfinished 0 = [⟨5, 0⟩] := by decide +kernel
def sRound : State := { one (thr []) {} { queue := [(3, { entry with st := .finished })] } { sample := some ⟨some ⟨6, 0⟩, none, 0, [1], [true], false, false⟩ } with ev := {} }
theorem hyps_round : (sRound.domain 0).sample = some ⟨some ⟨6, 0⟩, none, 0, [1], [true], false, false⟩ ∧ (sRound.domain 0).clusters = [0]
    ∧ (sRound.domain 0).ingressHead = none ∧ VT.lt entry.vt ⟨6, 0⟩ = true ∧ (sRound.cluster 0).faults = [] ∧ (sRound.thread ⟨0, 0⟩).wait = none
    ∧ (sRound.cluster 0).aborts = [] ∧ (sRound.cluster 0).lines = [] ∧ (sRound.cluster 0).queue = [(3, { entry with st := .finished })] := by decide +kernel
theorem hyps_round_held : ∀ x ∈ sRound.threads, ∀ f, x.2.wait ≠ some (.tenqHeld f) := by
  intro x hx f h
  simp only [sRound, one, List.mem_singleton] at hx
  subst hx
  cases h
theorem test_round_commits : left (exec .roundResult sRound) (fun t => ((t.cluster 0).queue, (t.domain 0).round.isSome)) = some ([], true) := by decide +kernel
theorem hyps_irrevocable : sSpec.isLowest 0 ⟨5, 0⟩ = true ∧ (sSpec.setCur { sSpec.cur with status := .parked .irrevocable }).cur.wait = some .irrevocable
    ∧ (sSpec.setCur { sSpec.cur with status := .parked (.heldTrap ⟨.divz, 0⟩ (cap 64 [permX])) }).cur.wait = some (.heldTrap ⟨.divz, 0⟩ (cap 64 [permX]))
    ∧ sSpec.hasPosted ⟨0, 0⟩ = false ∧ (sSpec.cluster 0).aborts = [] ∧ sSpec.cur.electing = none ∧ sSpec.cur.inFrame = false := by decide +kernel
theorem test_irrevocable_pass : left (exec .irrevocablePass (sSpec.setCur { sSpec.cur with status := .parked .irrevocable }))
    (fun t => (t.cur.status == .running, t.cur.spec, t.cur.irv)) = some (true, false, true) := by decide +kernel
theorem test_held_trap : left (exec .irrevocablePass (sSpec.setCur { sSpec.cur with status := .parked (.heldTrap ⟨.divz, 0⟩ (cap 68 [permX])) }))
    (fun t => (t.cur.causeCode, t.cur.tepc.addr, t.cur.spec)) = some (9, 68, false) := by decide +kernel

/-! CacheAndBankEvents (R61, R86 to R95, R100, R109, R169, R330). -/
def sFetch : State := { one { thr [] with status := .parked (.fetch 1) } with scratch := mem 64 4 0x04A63800 }
theorem hyps_instruction_fill : (sFetch.thread ⟨0, 0⟩).wait = some (.fetch 1) ∧ scratchOf (sFetch.domainAt 0) 64 = some 64
    ∧ (sFetch.domainAt 0).holds (clusterOf (scratchCore 64)) = true ∧ (sFetch.core (scratchCore 64)).contained = false := by decide
theorem test_instruction_fill : left (exec .instructionFill sFetch) (fun t => ((t.core 0).fetched 64, (t.thread ⟨0, 0⟩).status == .running))
    = some (some (0x04A63800, false), true) := by decide +kernel
def sFill : State := { one (thr []) { fills := [2 ^ 25] } { tlb := [leaf] } with hbm := (mem 1 1 0x20).write 0x2000 8 0x77, ev := { line := 2 ^ 25 } }
theorem hyps_line_fill : NatSet.has (sFill.core 0).fills (2 ^ 25) = true ∧ sFill.domainOfCore 0 = some 0
    ∧ locate sFill 0 0 (2 ^ 25 * 64) { r := true } true = .at { space := .hbm, addr := 0x2000, home := 0 } leaf
    ∧ (sFill.cluster 0).snoop = [] ∧ (sFill.cluster 0).lines = []
    ∧ sFill.owes 0 (2 ^ 25) = false ∧ (sFill.core 0).l1 = [] ∧ (sFill.cluster 0).lineQueue = []
    ∧ sFill.withHome 0 0 = true ∧ sFill.invalidations = [] := by decide +kernel
theorem test_line_fill : left (exec .lineFill sFill) (fun t => ((Map.find (t.core 0).l1 (2 ^ 25)).map (fun l => l.data), (t.core 0).fills)) = some (some 0x77, []) := by
  decide +kernel
def sWb : State := { sFill with cores := [(0, { wbq := [⟨2 ^ 25, { data := 0xAABB, valid := 1, dirty := 1, writers := 1 }⟩] })] }
theorem hyps_write_back : locate sWb 0 0 (2 ^ 25 * 64) { w := true } true = .at { space := .hbm, addr := 0x2000, home := 0 } leaf
    ∧ (sWb.domain leaf.dom).snap = none ∧ pteDss (BitVec.ofNat 64 (sWb.hbm.read leaf.pteAddr 8)) = true ∧ sWb.hbm.wf ∧ sWb.hbm.poison = []
    ∧ sWb.owed 0 = (sWb.core 0).wbq ∧ (sWb.core 0).wbq.map (fun w => (w.l.pre, w.l.bad)) = [(false, 0)] ∧ (sWb.cluster 0).lineQueue = [] := by decide +kernel
theorem test_write_back : left (exec .writeBack sWb) (fun t => (t.hbm.read 0x2000 2, (t.core 0).wbq)) = some (0xBB, []) := by decide +kernel
theorem hyps_banks : ({} : Core).omegaWins &&& ((1 : BitVec 8) <<< 3) ≠ 0 ∧ ({ omegaWins := 0 } : Core).omegaWins &&& ((1 : BitVec 8) <<< 3) = 0 := by decide
def farLoad : Req := ⟨.load 9 8 true, 0x8000, 1, false⟩
def sMesh : State := { one { thr [] with status := .parked (.mesh farLoad) } with scratch := mem 0x8000 8 7 }
theorem hyps_mesh : (sMesh.thread ⟨0, 0⟩).wait = some (.mesh farLoad) ∧ scratchOf (sMesh.domainAt 0) 0x8000 = some 0x8000
    ∧ clusterOf (scratchCore 0x8000) = clusterOf 0 ∧ (sMesh.core (scratchCore 0x8000)).ownLost = 0 ∧ (sMesh.core (scratchCore 0x8000)).omegaLost = 0 := by decide
theorem test_mesh_load : left (exec .meshScratchRequest sMesh) (fun t => ((t.thread ⟨0, 0⟩).reg 9, (t.thread ⟨0, 0⟩).pcc.addr)) = some (num 7, 68) := by decide +kernel
def sRx : State := { one { thr [] with rx := [⟨farLoad, 0⟩], absent := 2 ^ 9 } with scratch := mem 0x8000 8 7 }
theorem hyps_rx : (sRx.thread ⟨0, 0⟩).rx = [⟨farLoad, 0⟩] ∧ farLoad.op = .load 9 8 true
    ∧ (sRx.thread ⟨0, 0⟩).electRx = none ∧ (sRx.thread ⟨0, 0⟩).wait = none ∧ sRx.scratch.poison = [] ∧ sMesh.scratch.poison = [] := by decide +kernel
theorem test_rx_performs : left (exec .rxAccessPerform sRx) (fun t => (t.cur.reg 9, t.cur.presence.getLsbD 9, t.cur.rx)) = some (num 7, true, []) := by
  decide +kernel
def nearLoad : Req := ⟨.load 9 8 true, 2 ^ 31, 1, true⟩
def sLine : State := one { thr [] with status := .parked (.load nearLoad) } { l1 := [(2 ^ 25, { data := 9, valid := BitVec.allOnes 64 })] }
theorem hyps_data_arrival : (sLine.thread ⟨0, 0⟩).wait = some (.load nearLoad) ∧ (Map.find (sLine.core 0).l1 (nearLoad.x / 64)).isSome = true
    ∧ nearLoad.x % 8 = 0
    ∧ (Map.find (sLine.core 0).l1 (nearLoad.x / 64)).map (fun m => (m.valid, m.poison)) = some (BitVec.allOnes 64, 0) := by decide +kernel
theorem test_data_arrival : left (exec .dataArrival sLine) (fun t => t.cur.reg 9) = some (num 9) := by decide +kernel
def sHome : State := { sFill with threads := [(0, { thr [] with status := .parked (.home nearLoad) })], cores := [] }
theorem hyps_home : (sHome.thread ⟨0, 0⟩).wait = some (.home nearLoad) ∧ (sHome.core 0).l1 = []
    ∧ locate sHome 0 0 nearLoad.x { r := true } true = .at { space := .hbm, addr := 0x2000, home := 0 } leaf
    ∧ sHome.owed 0 = [] ∧ sHome.hasPosted ⟨0, 0⟩ = false ∧ (sHome.cluster 0).lineQueue = [] ∧ sHome.hbm.poison = [] ∧ (sHome.thread ⟨0, 0⟩).spec = false := by decide +kernel
theorem test_home_access : left (exec .homeSpeculativeAccess sHome) (fun t => t.cur.reg 9) = some (num 0x77) := by decide +kernel
def sFe : State := { sHome with threads := [(0, { thr [] with status := .parked (.waiterFull { nearLoad with op := .ldf 9 }) })], hbm := sHome.hbm.setFull 0x2000 true }
theorem hyps_resend : (sFe.thread ⟨0, 0⟩).wait = some (.waiterFull { nearLoad with op := .ldf 9 }) ∧ sFe.hbm.isFull 0x2000 = true := by decide +kernel
theorem test_resend : left (exec .feWaiterResend sFe) (fun t => t.cur.reg 9) = some (num 0x77) := by decide +kernel
theorem hyps_wakes : Map.find (sInt.cluster 0).faults 3 = none ∧ (Map.firstFree (sInt.cluster 0).faults 64).isSome = true ∧ sInt.released ⟨0, 0⟩ = true
    ∧ sInt.invalidations = [] := by decide +kernel
theorem test_wake : left (exec .wakeMessage (one { thr [] with status := .parked (.fault 0 3) })) (fun t => t.cur.status == .running) = some true := by decide +kernel
def sEnd : State := one { thr [] with status := .parked (.tendAcks false), task := some ⟨0, 3, 0⟩, domain := some 0 } {} { queue := [(3, { entry with spec := false })] }
theorem hyps_end : sEnd.streaming ⟨0, 0⟩ = false ∧ sEnd.quiet ⟨0, 0⟩ = true ∧ (sEnd.core 0).joins = [] ∧ sEnd.refusedRows ⟨0, 0⟩ = []
    ∧ sEnd.taskOf ⟨0, 3, 0⟩ = some { entry with spec := false }
    ∧ (sEnd.core 0).outbox = [] ∧ (sEnd.thread ⟨0, 0⟩).rx = [] ∧ (sEnd.thread ⟨0, 0⟩).matrixPoison = none ∧ entry.bar = none ∧ entry.detached = false
    ∧ sEnd.tendLeave ⟨0, 0⟩ = sEnd := by decide +kernel
theorem test_end : left (exec .homeAcknowledgement sEnd) (fun t => (t.cur.status == .idle, (t.taskOf ⟨0, 3, 0⟩).map (fun e => e.st))) = some (true, some .finished) := by
  decide +kernel

/-! TransferRequests, CountersAndTiles, TransferEvents, StreamsAndMulticast (R280 to R298). -/
/-- A copy descriptor: 64 bytes, completion kind NONE. -/
def desc (w0 w3 : Nat) : CReg := untagged128 (BitVec.ofNat 128 (w0 + w3 * 2 ^ 64))
def sX : State := one { thr [(1, cap 0 allPerms), (2, cap 1024 allPerms), (3, desc 0 (64 + 3 * 2 ^ 35)), (4, desc 8 64), (5, desc 2 (8 + 3 * 2 ^ 35)),
  (6, desc 2 (8 + 2 ^ 40 + 3 * 2 ^ 35)), (7, num 64), (8, (capFor 0 4096 [permX]).withAddr 256)] with cc := [(2, { cnt := 5, sig := 1 })] }
  { tiles := [(0, { rel := 0, len := 64, st := .ready })] }
theorem hyps_transfers : sX.Plain ∧ sX.Drained ∧ sX.released sX.turn = true ∧ badCopy (sX.word 3) (hi64 (sX.reg 3).val) = false
    ∧ badCopy (sX.word 4) (hi64 (sX.reg 4).val) = true ∧ xOp (sX.word 3) < 2 ∧ xCk (hi64 (sX.reg 3).val) = 3
    ∧ sX.checkEnd 1 (some 64) [permL] = none ∧ sX.checkEnd 2 (some 64) [permS] = none ∧ sX.checkContained 2 64 = none := by decide +kernel
theorem hyps_indexed : badIndexed false (sX.word 5) (hi64 (sX.reg 5).val) = false ∧ badIndexed true (sX.word 5) (hi64 (sX.reg 5).val) = false
    ∧ badIndexed false (sX.word 6) (hi64 (sX.reg 6).val) = true ∧ (sX.ownCore.tile (Fin.ofNat 32 (wfld (sX.word 5) 16 5))).isSome = true
    ∧ sX.checkEnd 1 none [permL, permN] = none ∧ sX.checkEnd 2 (some 8) [permS] = none ∧ sX.checkEnd 2 none [permS, permN] = none
    ∧ sX.checkEnd 1 (some 8) [permL] = none := by decide +kernel
theorem test_xfer_enters : left (exec (.xfer 9 1 2 3) sX) (fun t => (t.reg 9, t.ownCore.fifo.map (fun q => (q.src.addr, q.dst.addr, xLen q.w3)))) = some (num 0, [(0, 1024, 64)]) := by
  decide +kernel
theorem test_xfer_malformed : left (exec (.xfer 9 1 2 4) sX) (fun t => (t.reg 9, t.ownCore.fifo)) = some (num 2, []) := by decide +kernel
theorem test_getx_holds : left (exec (.getx 9 1 2 5) sX) (fun t => (t.reg 9, (t.ownCore.tile 0).map (fun x => x.hold))) = some (num 0, some 1) := by decide +kernel
/-- The other forms of a copy: from a ready tile, to an empty one, strided, multicast; a full FIFO. -/
def sForms (n : Nat := 0) : State := one { thr [(1, cap 0 allPerms), (2, cap 1024 allPerms), (3, desc (2 ^ 10) (64 + 3 * 2 ^ 35)), (4, desc (2 ^ 9) 64),
    (5, desc (1 + 2 ^ 16 + 8 * 2 ^ 32 + 8 * 2 ^ 48) (64 + 3 * 2 ^ 35)), (6, desc 2 (64 + 3 * 2 ^ 35)), (7, num 1), (8, desc 0 (64 + 3 * 2 ^ 35))] with }
  { tiles := [(0, { rel := 0, len := 64, st := .ready }), (1, { rel := 4096, len := 128, st := .empty })], fifo := List.replicate n
      { kind := .copy, w0 := 0, w3 := 0, src := {}, dst := {}, issuer := ⟨0, 0⟩, ap := 1, tbase := 0 } }
theorem hyps_transfer_forms : let s := sForms
    s.Plain ∧ s.Drained ∧ s.cur.spec = false ∧ s.released s.turn = true
    ∧ (List.map (fun r => badCopy (s.word r) (hi64 (s.reg r).val)) [3, 4, 5, 6, 8]) = [false, false, false, false, false]
    ∧ xStile (s.word 3) = true ∧ xDtile (s.word 4) = true ∧ xOp (s.word 5) = 1 ∧ xOp (s.word 6) = 2 ∧ extentOf (s.word 5) (hi64 (s.reg 5).val) (8 * 16) = 64 + 128
    ∧ s.checkEnd 1 (some 192) [permL] = none ∧ s.checkEnd 2 (some 192) [permS] = none ∧ s.checkContained 2 192 = none
    ∧ s.ownCore.tile (Fin.ofNat 32 (s.word 0).toNat) = some { rel := 0, len := 64, st := .ready }
    ∧ s.ownCore.tile (Fin.ofNat 32 (s.word 7).toNat) = some { rel := 4096, len := 128, st := .empty }
    ∧ s.ownCore.fifo.length < 16 ∧ 16 ≤ (sForms 16).ownCore.fifo.length := by decide +kernel
theorem test_transfer_forms : left (exec (.xfer 9 0 2 3) sForms) (fun t => (t.ownCore.tile 0).map (fun x => x.st)) = some (some .draining)
    ∧ left (exec (.xfer 9 1 7 4) sForms) (fun t => (t.ownCore.tile 1).map (fun x => (x.st, x.nfill, x.pending))) = some (some (.filling, 1, 64))
    ∧ left (exec (.xfer 9 1 2 5) sForms) (fun t => t.ownCore.fifo.map (fun q => (q.kind, q.total))) = some [(.strided, 128)]
    ∧ left (exec (.xferb 9 1 2 8) (sForms 16)) (fun t => t.reg 9) = some (num 1)
    ∧ left (exec (.xfer 9 1 2 8) (sForms 16)) (fun t => t.cur.status) = some (.parked .fifoFull) := by decide +kernel
theorem hyps_counters : (sX.cur.counter 2).cnt = 5 ∧ ((sX.cur.counter 2).cnt - (sX.word 0).extractLsb' 0 48).toNat < 2 ^ 47
    ∧ 2 ^ 47 ≤ ((sX.cur.counter 2).cnt - (sX.word 7).extractLsb' 0 48).toNat ∧ (sX.reg 8).tag = true ∧ (sX.reg 8).has permX = true := by decide +kernel
theorem test_cwait : left (exec (.cwait 9 2 0) sX) (fun t => (t.reg 9, t.cur.inh)) = some (num 5, 1)
    ∧ left (exec (.cwait 9 2 7) sX) (fun t => t.cur.status == .parked (.cwait 9 2 64)) = some true := by decide +kernel
theorem hyps_tiles : sX.ownCore.tile 3 = none ∧ (sX.reg 2).addr % 64 = 0 ∧ (sX.word 7).toNat = 64 ∧ scratchOf (sX.domainAt 0) 1024 = some 1024
    ∧ clusterOf (scratchCore 1024) = clusterOf 0 ∧ 1024 % 2 ^ 21 + 64 ≤ 2 ^ 21
    ∧ sX.ownCore.tile 0 = some { rel := 0, len := 64, st := .ready }
    ∧ (sX.reg 2).addr + 64 ≤ (sX.reg 2).top ∧ (sX.reg 2).has permL = true ∧ (sX.reg 2).has permS = true ∧ sX.scratch.poison = [] := by decide +kernel
theorem hyps_tiles_alone : ∀ u : Tid, u.core = sX.turn.core → ∀ op, (sX.thread u).wait ≠ some (.tile op) := by
  intro u _ op h
  have e : (sX.thread u).status = .running ∨ (sX.thread u).status = .idle := by
    simp only [State.thread, sX, one, Map.get]
    split
    · exact .inl rfl
    · exact .inr rfl
  rcases e with e | e <;> simp [Thread.wait, e] at h
theorem test_tldef : left (exec (.tldef 3 2 7 true) sX) (fun t => (t.ownCore.tile 3).map (fun y => (t.ownCore.tileOff y, y.len, y.st))) = some (some (1024, 64, .ready)) := by
  decide +kernel
theorem test_tile_undefined : left (exec (.tlrel 3) sX) (fun t => (t.cur.causeCode, t.cur.tval)) = some (13, 3) := by decide +kernel
def xreq : XReq := { kind := .copy, w0 := 0, w3 := BitVec.ofNat 64 (200 + 2 ^ 35), src := cap 0 allPerms, dst := cap 1000 allPerms, issuer := ⟨0, 0⟩, ap := 1, tbase := 0 }
def sStart : State := { one (thr []) { fifo := [xreq] } with scratch := mem 0 8 0x99 }
theorem hyps_start : (sStart.core 0).fifo = [xreq] ∧ (sStart.core 0).inflight = [] ∧ 0 < xreq.total
    ∧ xreq.ended = false := by decide +kernel
theorem test_start : left (exec .transferStart sStart) (fun t => ((t.core 0).fifo.length, (t.core 0).inflight.map (fun e => e.1))) = some (0, [2]) := by decide +kernel
def sRead : State := { sStart with cores := [(0, { inflight := [(2, xreq)] })], ev := { k := 2 } }
theorem hyps_read : xreq.sent < xLen xreq.w3 ∧ scratchOf (sRead.domainAt 0) 0 = some 0 ∧ scratchCore (0 + 24 - 1) = scratchCore 0
    ∧ (sRead.domainAt 0).holds (clusterOf (scratchCore 0)) = true ∧ (sRead.core (scratchCore 0)).contained = false
    ∧ scratchOf (sRead.domainAt 0) 1000 = some 1000 ∧ sRead.scratch.poison = [] ∧ min (xLen xreq.w3) (128 - 1000 % 128) = 24
    ∧ xreq.kind = .copy ∧ xreq.srcTile = none ∧ xreq.dstTile = none ∧ xreq.idxTile = none ∧ xreq.ended = false
    ∧ sRead.withHome (clusterOf 0) (clusterOf (scratchCore 0)) = true := by decide +kernel
theorem test_chunk_ends_at_128 : left (exec .transferSourceRead sRead) (fun t => ((t.core 0).incoming.map (fun c => (c.n, c.bytes.toNat)), (t.core 0).inflight.map (fun e => e.2.live)))
    = some ([(24, 0x99)], [1]) := by decide +kernel
def chunk : Chunk := { owner := .request 0 2, hnd := 0, dst := cap 1000 allPerms, dstTile := none, n := 24, off := 0, w0 := 0, src := 0, issuer := ⟨0, 0⟩
                       bytes := 0x99, tags := 0, poison := 0 }
def sChunk : State := one (thr []) { incoming := [chunk], inflight := [(2, { xreq with sent := 200, live := 1 })] }
theorem hyps_chunk : clusterOf chunk.owner.core = clusterOf 0 ∧ chunk.sub = none ∧ (sChunk.core 0).landing.length + (sChunk.core 0).running.toList.length < 32
    ∧ (sChunk.core 0).diverted = [] ∧ (sChunk.core 0).preempted = false
    ∧ (sChunk.core 0).contained = false ∧ ((sChunk.setCore 0 { sChunk.core 0 with preempted := true }).core 0).preempted = true
    ∧ (let s0 := sChunk.setCore 0 { sChunk.core 0 with preempted := true, incoming := [] }
      (s0.devWrite 0 (s0.spillPlace 0) 256 (freeBytes sChunk.freeCount 256)).needs = sChunk.needs) := by decide +kernel
theorem test_chunk_arrives : left (exec .chunkArrival sChunk) (fun t => ((t.core 0).landing, (t.core 0).incoming)) = some ([chunk], []) := by decide +kernel
def sLand : State := one (thr []) { landing := [chunk], inflight := [(2, { xreq with sent := 200, live := 1 })], handlers := [(1, (capFor 0 4096 [permX]).withAddr 256)] }
theorem hyps_land : chunk.dst.tag = true ∧ chunk.dst.otype = 0 ∧ chunk.dst.has permS = true ∧ chunk.dst.addr + chunk.n ≤ chunk.dst.top
    ∧ scratchOf (sLand.domainAt 0) chunk.dst.addr = some 1000 ∧ sLand.uncopied 1000 = false ∧ sLand.uncopied (1000 + 24 - 1) = false ∧ sLand.scratch.wf
    ∧ (Map.get {} (sLand.core 0).handlers 1).tag = true
    ∧ (sLand.core 0).running = none ∧ (sLand.core 0).contained = false ∧ (sLand.thread ⟨0, 15⟩).rx = [] ∧ chunk.poison = 0 ∧ chunk.dst.base ≤ chunk.dst.addr
    ∧ (sLand.domainAt 0).holds (clusterOf (scratchCore 1000)) = true ∧ (sLand.core (scratchCore 1000)).contained = false ∧ sLand.scratch.poison = []
    ∧ ({ chunk with hnd := 1 } : Chunk).hnd ≠ 0
    ∧ (sLand.core 0).quiescing = false ∧ (sLand.core 0).preempted = false := by decide +kernel
theorem test_handler_0_stores : left (exec .landingHandlerStart sLand) (fun t => (t.scratch.read 1000 24, (t.core 0).landing)) = some (0x99, []) := by decide +kernel
theorem test_handler_starts : left (exec .landingHandlerStart (sLand.setCore 0 { sLand.core 0 with landing := [{ chunk with hnd := 1 }] }))
    (fun t => ((t.thread ⟨0, 15⟩).reg 2, (t.thread ⟨0, 15⟩).pcc.addr, (t.core 0).running.isSome)) = some (chunk.dst, 256, true) := by decide +kernel
def sHand : State := { one (thr []) { running := some chunk, diverted := [.chunk chunk] } with turn := ⟨0, 15⟩ }
theorem hyps_handler : (sHand.core 0).running = some chunk ∧ sHand.turn = ⟨0, 15⟩ ∧ (sHand.core 0).diverted = [.chunk chunk]
    ∧ sHand.Drained ∧ (sHand.core 0).preempted = false ∧ (sHand.core 0).landing = [] := by decide +kernel
theorem test_lret : left (exec .lret sHand) (fun t => ((t.core 0).running.isNone, (t.thread ⟨0, 15⟩).status == .idle)) = some (true, true) := by decide +kernel
theorem test_lret_elsewhere : left (exec .lret sInt) (fun t => (t.cur.causeCode, t.cur.tval)) = some (1, 0xB00001C0) := by decide
def done : XReq := { xreq with sent := 200, got := 200, sig := 2, ended := true }
def sDone : State := { one (thr []) { inflight := [(2, done)] } with ev := { k := 2 } }
theorem hyps_completion : done.ended = true ∧ done.live = 0 ∧ xCk done.w3 = 1 ∧ done.parts = [] ∧ sDone.peerWrites 0 2 = false ∧ sDone.landed done.lands = true
    ∧ done.kind = .copy ∧ done.dstTile = none ∧ (sDone.thread done.issuer).wait = none := by decide +kernel
theorem test_completion_counts : left (exec .transferCompletion sDone) (fun t => ((t.cur.counter 0).cnt, (t.cur.counter 0).sig, (t.core 0).inflight)) = some (200, 2, []) := by
  decide +kernel
/-- A subscription word: tag 7, completion kind COUNTER. -/
def sSub : State := one (thr [(1, cap 0 allPerms), (2, num (7 + 2 ^ 11)), (3, num (2 ^ 16)), (4, (capFor 0x8000 4096 allPerms).withAddr 0x8000), (5, num 0x10), (6, num 0), (7, num 8)])
  { portA := some { dst := (capFor 0x8000 4096 allPerms).withAddr 0x8000, core := 1, hnd := 0, ck := 1, cc := 0, owner := ⟨0, 0⟩ } }
def subscribed : Sub := { tag := 7, hnd := 0, ck := 1, cc := 0, dst := cap 0 allPerms, owner := ⟨0, 0⟩ }
theorem hyps_subj : (sSub.reg 1).has permS = true ∧ (sSub.reg 1).has permN = true ∧ (sSub.word 3).toNat / 2 ^ 16 ≠ 0 ∧ (sSub.word 2).toNat / 2 ^ 16 = 0
    ∧ (sSub.word 2).toNat / 2 ^ 11 % 4 = 1 ∧ sSub.ownCore.subs = [] ∧ subscribed.tag = (sSub.word 2).extractLsb' 0 8 := by decide
theorem test_subj : left (exec (.subj 9 1 3) sSub) (fun t => t.reg 9) = some (num 3)
    ∧ left (exec (.subj 9 1 2) (sSub.setCore 0 { subs := [subscribed] })) (fun t => t.reg 9) = some (num 2)
    ∧ left (exec (.subj 9 1 2) sSub) (fun t => (t.ownCore.subs.length, t.ownCore.joins)) = some (1, [⟨7, true, ⟨0, 0⟩⟩]) := by decide +kernel
theorem hyps_sopn : scratchOf (sSub.domainAt 0) (sSub.reg 4).addr = some 0x8000 ∧ scratchCore 0x8000 ≠ 0 ∧ (sSub.domainAt 0).holds (clusterOf (scratchCore 0x8000)) = true
    ∧ (sSub.core (scratchCore 0x8000)).contained = false ∧ (sSub.word 5).toNat / 2 ^ 9 = 0 ∧ (sSub.word 5).toNat / 2 ^ 4 % 4 ≠ 0
    ∧ (sSub.word 6).toNat / 2 ^ 4 % 4 = 0 ∧ (sSub.ownCore.port ((sSub.word 5).getLsbD 0)).isSome = true ∧ sSub.ownCore.port true = none := by decide
theorem test_sopn : left (exec (.sopn 9 4 6) sSub) (fun t => t.reg 9) = some (num 3) ∧ left (exec (.sopn 9 4 5) sSub) (fun t => t.reg 9) = some (num 2) := by decide +kernel
theorem hyps_ssnd : (sSub.ownCore.port false).map (fun v => (v.closing, v.ck, v.core)) = some (false, 1, 1) ∧ (sSub.word 7).toNat % 256 = 8
    ∧ (sSub.reg 1).has permL = true ∧ scratchOf (sSub.domainAt 0) (sSub.reg 1).addr = some 0
    ∧ (sSub.ownCore.port false).map (fun v => (v.off, v.dst.base, v.dst.top)) = some (0, 0x8000, 0x9000) ∧ 1 ≤ 8 ∧ (sSub.ownCore.port false).map (fun v => v.core == sSub.turn.core) = some false
    ∧ (sSub.domainAt 0).holds (clusterOf (scratchCore 0)) = true ∧ (sSub.core (scratchCore 0)).contained = false ∧ sSub.scratch.poison = [] := by decide +kernel
theorem test_ssnd : left (exec (.ssnd 9 false 1 7) sSub) (fun t => (t.reg 9, (t.core 1).incoming.map (fun c => (c.n, c.off)), (t.ownCore.port false).map (fun v => v.off)))
    = some (num 0, [(8, 0)], some 8) := by decide +kernel
theorem test_scls_closed : left (exec (.scls 9 true) sSub) (fun t => t.reg 9) = some (num 1)
    ∧ left (exec (.scls 9 false) sSub) (fun t => (t.reg 9, (t.ownCore.port false).map (fun v => v.closing))) = some (num 0, some true) := by decide +kernel
def sJoin : State := { one (thr []) { joins := [⟨7, true, ⟨0, 0⟩⟩], inflight := [(2, { xreq with kind := .multicast, dst := num 7 })] } {} { joined := [(7, [3])] } with
  ev := { tag := 7, join := true, k := 2 } }
theorem hyps_join : (sJoin.core 0).joins = [⟨7, true, ⟨0, 0⟩⟩] ∧ sJoin.domainOfCore 0 = some 0 ∧ Map.get [] (sJoin.domainAt 0).joined 7 = [3]
    ∧ (sJoin.core 0).inflight.map (fun e => (e.1, e.2.kind, e.2.targets)) = [(2, .multicast, none)] := by decide +kernel
theorem test_join : left (exec .multicastJoin sJoin) (fun t => (t.domain 0).joined) = some [(7, [0, 3])] := by decide +kernel
theorem test_multicast_send : left (exec .multicastSend sJoin) (fun t => (t.core 0).inflight.map (fun e => e.2.targets)) = some [some [3]] := by decide +kernel
def sRoute : State := one { thr [] with status := .parked (.stream 5 (cap 0x100 allPerms) 0x10) }
theorem hyps_route : (sRoute.thread ⟨0, 0⟩).wait = some (.stream 5 (cap 0x100 allPerms) 0x10) ∧ (sRoute.core 0).port false = none
    ∧ scratchOf (sRoute.domainAt 0) 0x100 = some 0x100
    ∧ sRoute.routeFree (clusterOf 0) (clusterOf (scratchCore 0x100)) = true ∧ (sRoute.thread ⟨0, 0⟩).electing = none ∧ (sRoute.thread ⟨0, 0⟩).inFrame = false := by decide +kernel
theorem test_route : left (exec .streamRouteTimeout sRoute) (fun t => t.cur.reg 5) = some (num 1)
    ∧ left (exec .streamRouteHeld sRoute) (fun t => (t.cur.reg 5, ((t.core 0).port false).isSome)) = some (num 0, true) := by decide +kernel

/-! IntegerLanes, FloatLanes, Rounding, Conversions (R198 to R228): any plain state; results from the rules of the formats. -/
def q (n : Nat) : CReg := untagged128 (BitVec.ofNat 128 n)
def sVec : State := one (thr [(1, q 0x7F80FF01), (2, q 0x01FF0102), (3, q 0x3F8000003F800000), (4, q 0x7F800001), (5, q 0x0000000133800000), (6, num 127), (7, num 255)])
theorem hyps_vectors : sVec.Plain ∧ sVec.cur.spec = false ∧ sVec.ownCore.loading 2 = false ∧ (sVec.word 6).toNat % 256 ≠ 255 ∧ (sVec.word 7).toNat % 256 = 255 := by
  decide
theorem test_vadd_wraps : left (exec (.vadd 9 1 2 .i8 .wrap) sVec) (fun t => t.reg 9) = some (q 0x807F0003) := by decide +kernel
theorem test_vadd_saturates : left (exec (.vadd 9 1 2 .i8 .satS) sVec) (fun t => t.reg 9) = some (q 0x7F800003)
    ∧ left (exec (.vadd 9 1 2 .i8 .satN) sVec) (fun t => t.reg 9) = some (q 0x80FFFF03) := by decide +kernel
theorem test_vadd_f32 : left (exec (.vadd 9 3 3 .f32 .wrap) sVec) (fun t => (t.reg 9, t.cur.fflags)) = some (q 0x4000000040000000, 0) := by decide +kernel
theorem test_vadd_rounds_to_even : left (exec (.vadd 9 3 5 .f32 .wrap) sVec) (fun t => (t.reg 9, t.cur.fflags)) = some (q 0x3F8000003F800000, 1) := by decide +kernel
theorem test_vmin_natural : left (exec (.vmin 9 1 2 .i8 true) sVec) (fun t => t.reg 9) = some (q 0x01800101) := by decide +kernel
theorem test_vcvt_f32_s32 : left (exec (.vcvt 9 3 .s32 .f32) sVec) (fun t => t.reg 9) = some (q 0x0000000100000001) := by decide +kernel
theorem test_fcls_signalling : left (exec (.fcls 9 4 .f32) sVec) (fun t => t.reg 9) = some (q (2 ^ 96 * 16 + 2 ^ 64 * 16 + 2 ^ 32 * 16 + 2 ^ 8)) := by decide +kernel
theorem hyps_rounding : fmtF32 ∈ [fmtF32, fmtF16, fmtBf16, fmtD19] ∧ fmtF32.decode 0x3F800001 = .fin false 0x800001 (-23)
    ∧ (fmtF32.decode 0x7FC00000).isNan = true ∧ (fmtF32.decode 0x80000000).isZero = true := by decide +kernel
theorem test_round_modes : (fmtF32.round 0 false 0x1000001 (-24)).1 = 0x3F800000 ∧ (fmtF32.round 2 false 0x1000001 (-24)).1 = 0x3F800001
    ∧ (fmtF32.round 3 true 0x1000001 (-24)).1 = 0xBF800000 + 1 ∧ (fmtF32.round 1 true 0x1000001 (-24)).1 = 0xBF800000 := by decide +kernel
/-- FloatQuotients: a quiet and a signalling NaN, both zeros, both infinities, one and minus one. -/
theorem hyps_quotients : (fmtF32.decode 0x7FC00000).isNan = true ∧ (fmtF32.decode 0x7F800001).isSig = true ∧ (fmtF32.decode 0).isZero = true
    ∧ (fmtF32.decode 0x80000000).isZero = true ∧ fmtF32.decode 0x7F800000 = .inf false ∧ fmtF32.decode 0xFF800000 = .inf true
    ∧ fmtF32.decode 0x3F800000 = .fin false (8388607 + 1) (-23) ∧ fmtF32.decode 0xBF800000 = .fin true (8388607 + 1) (-23) := by decide +kernel
theorem test_quotients : (fmtF32.div 0 0xBF800000 0x40400000).1 = 0xBEAAAAAB ∧ fmtF32.div 0 0xBF800000 0 = (0xFF800000, flagDZ)
    ∧ fmtF32.rsq 0 0x40800000 = (0x3F000000, 0) ∧ fmtF32.rsq 0 0x80000000 = (0xFF800000, flagDZ) ∧ fmtF32.rsq 0 0xBF800000 = (fmtF32.nan, flagNV) := by decide +kernel
def sTbl : State := { one (thr [(1, cap 0 allPerms)]) with scratch := mem 4 4 (2 ^ 31 + 5) }
theorem hyps_tbld : sTbl.Drained ∧ sTbl.Passes 1 (sTbl.word 1).toNat 1024 [permL] ∧ scratchOf (sTbl.domainAt 0) 0 = some 0 ∧ sTbl.scratch.poison = []
    ∧ (sTbl.domainAt 0).holds (clusterOf (scratchCore 0)) = true ∧ (sTbl.core (scratchCore 0)).contained = false ∧ sTbl.cur.spec = false
    ∧ scratchCore (0 + 1023) = scratchCore 0 ∧ (∀ l ∈ sTbl.ownCore.engine, l.t ≠ sTbl.turn) := by decide +kernel
theorem test_tbld_enters : left (exec (.tbld 9 1 2) sTbl) (fun t => (t.ownCore.engine.map (fun l => (l.n, Map.find (l.image.getD []) 1, Map.find (l.image.getD []) 0)), t.cur.tableBound))
    = some ([(2, some 5, none)], true) := by decide +kernel
def load : TableLoad := { t := ⟨0, 0⟩, d := 9, n := 2, image := some [(1, 5)] }
def sLoad : State := one { thr [] with status := .parked (.table 2) } { engine := [load] }
theorem hyps_table_build : (sLoad.core 0).engine = [load] ∧ (sLoad.core 0).ops = [] ∧ (sLoad.thread load.t).wait = some (.table load.n)
    ∧ load.image = some [(1, 5)] := by decide +kernel
theorem test_table_build : left (exec .tableBuild sLoad) (fun t => (Map.find ((t.core 0).table 2) 1, (t.core 0).engine.length, t.cur.status == .running)) = some (some 5, 0, true) := by
  decide +kernel

/-! MatrixUnit (R235 to R257): s8 elements, geometry of the reset value. -/
def tile0 : Tile := { rel := 0, len := 65536, st := .ready }
def sMat : State := { one { thr [(1, cap 0 allPerms), (2, num 0), (3, (cap 0x100 allPerms)), (4, num 0xA0000180)] with fmta := 3, fmtb := 3, fmto := 0 } { tiles := [(0, tile0)] } with scratch := mem 0 2 0x0302 }
theorem hyps_matrix : sMat.Plain ∧ sMat.Drained ∧ sMat.cur.matrixPoison = none ∧ sMat.ownCore.mq.length < 4 ∧ sMat.ownCore.engine = []
    ∧ sMat.ownCore.tile 0 = some tile0 ∧ fmtInOk 3 = true ∧ fmtOutOk 0 = true ∧ (15 + 1) * strideA 3 ≤ 65536 ∧ (15 + 1) * strideS 3 ≤ 65536
    ∧ (15 + 1) * 32 * outBytes 0 ≤ 65536 ∧ 64 * strideB 3 + 64 ≤ 65536 ∧ sMat.ownCore.stagingHeld = false ∧ sMat.scratch.poison = [] := by decide +kernel
theorem hyps_mldb : memCheckB (sMat.reg 1) (sMat.word 2) 3 (geometry 0) = none ∧ (memRowB (sMat.reg 1) (sMat.word 2) 3 (geometry 0) 0).1 = 0
    ∧ (List.range (geometry 0).kvalid).all (fun kk => (scratchOf (sMat.domainAt 0) (memRowB (sMat.reg 1) (sMat.word 2) 3 (geometry 0) kk).1).isSome
        && (scratchOf (sMat.domainAt 0) (memRowB (sMat.reg 1) (sMat.word 2) 3 (geometry 0) kk).2).isSome) = true ∧ (sMat.domain 0).clusters = [0]
    ∧ sMat.cores.map (fun e => e.2.contained) = [false] ∧ (sMat.reg 1).tag = true ∧ (sMat.reg 1).has permL = true
    ∧ sMat.ownCore.mrun = none ∧ sMat.ownCore.mq = [] ∧ sMat.ownCore.cq = [] ∧ tile0.pt = false ∧ tile0.st = .ready
    ∧ sMat.ownCore.ops = [] ∧ sMat.matrixBusy sMat.turn = false ∧ sMat.cur.matrixGone = none ∧ fmtInOk 6 = false ∧ fmtOutOk 13 = false ∧ sMat.ownCore.tile 5 = none
    ∧ (commandOf 0xA0000180 0 sMat.cur.formats).isSome = true ∧ scratchOf (sMat.domainAt 0) (sMat.reg 3).addr = some 0x100
    ∧ (∀ o ∈ sMat.ownCore.reading, o.issuer ≠ sMat.turn) ∧ (mldbReads (sMat.reg 1) (sMat.word 2) 3 (geometry 0)).all (fun r => (scratchOf (sMat.domainAt 0) r.1).any (fun o => scratchCore (o + r.2 - 1) == scratchCore o && (sMat.domainAt 0).holds (clusterOf (scratchCore o)))) = true
    ∧ (sMat.setCur { sMat.cur with matrixGone := some 3 }).Traps := by decide +kernel
theorem test_mgeo_returns : left (exec (.mgeo 9 2) sMat) (fun t => (t.reg 9).val.toNat % 2 ^ 32) = some 0 := by decide +kernel
theorem test_mmv_enters : left (exec (.mmv 3 2 0 0) sMat) (fun t => (t.ownCore.mq.map (fun o => (o.kind == .mmv 3 0 1 0 false)), (t.ownCore.tile 0).map (fun x => x.hold))) = some ([true], some 1) := by
  decide +kernel
/-- An operation of thread slot 0; the geometry has 4 rows, 2 columns and 2 elements in K. -/
def matOp (k : MatKind) : MatOp := { kind := k, fmt := sMat.cur.formats, geom := 0x0000000200020004, anch := 0, issuer := ⟨0, 0⟩, cmd := false, seq := 0 }
def bTile : BTile := { cells := [(0, ⟨10, .finite false⟩), (1, ⟨-1, .finite true⟩), (32, ⟨100, .finite false⟩)], source := .tile 0, geom := 0x0000000200020004, fmt := sMat.cur.formats, issuer := ⟨0, 0⟩ }
def sUnit (k : MatKind) : State := { sMat with cores := [(0, { tiles := [(0, tile0)], mrun := some (matOp k), btile := some bTile, acc := [(96, ⟨5, 0⟩), (97, ⟨7, 3⟩), (128, ⟨3, 0⟩)] })] }
theorem hyps_unit : (sUnit (.mmv 3 0 1 0 false)).core 0 = { tiles := [(0, tile0)], mrun := some (matOp (.mmv 3 0 1 0 false)), btile := some bTile, acc := [(96, ⟨5, 0⟩), (97, ⟨7, 3⟩), (128, ⟨3, 0⟩)] }
    ∧ (0 : Word).toNat < (geometry (matOp (.mclr 0 1)).geom).mext ∧ (geometry (matOp (.mclr 0 1)).geom).kvalid ≤ 16 ∧ (matOp (.mclr 0 1)).fmt.fmta = 3 := by decide +kernel
theorem test_mmv_adds : left (exec .matrixOpComplete (sUnit (.mmv 3 0 1 0 false))) (fun t => ((Map.get ⟨0, 0⟩ (t.core 0).acc 96).v, (Map.get ⟨0, 0⟩ (t.core 0).acc 97).v, (Map.get ⟨0, 0⟩ (t.core 0).acc 128).v))
    = some (5 + 2 * 10 + 3 * 100, 7 - 2, 3) := by decide +kernel
theorem test_mclr_clears : left (exec .matrixOpComplete (sUnit (.mclr 3 1))) (fun t => (Map.get ⟨0, 0⟩ (t.core 0).acc 96, Map.get ⟨0, 0⟩ (t.core 0).acc 128)) = some (⟨0, 0⟩, ⟨3, 0⟩) := by
  decide +kernel
theorem test_rescale_rounds_to_even : left (exec .matrixOpComplete (sUnit (.rescale 1))) (fun t => (Map.get ⟨0, 0⟩ (t.core 0).acc 96, Map.get ⟨0, 0⟩ (t.core 0).acc 97, Map.get ⟨0, 0⟩ (t.core 0).acc 128))
    = some (⟨2, 0⟩, ⟨7, 3⟩, ⟨2, 0⟩) := by decide +kernel
theorem hyps_parity : let k := (sUnit (.mmv 3 0 1 0 false)).core 0
    k.parity = none ∧ k.btile = some bTile ∧ bTile.source = .tile 0 ∧ k.tile 0 = some tile0 ∧ sMat.scratch.poison = [] ∧ (matOp (.mclr 0 1)).step = 0
    ∧ (matOp (.mclr 0 1)).cmd = false := by decide +kernel
/-- A parity error is noted; the tested macro reads B again from tile 0, whose first two bytes are 2 and 3. -/
def sReload : State := { (sUnit (.mmv 3 0 1 0 false)).setCore 0 { (sUnit (.mmv 3 0 1 0 false)).core 0 with parity := some true } with ev := { k := 1 } }
theorem test_parity_reloads : left (exec .macroParityError (sUnit (.mmv 3 0 1 0 false))) (fun t => ((t.core 0).reload, (t.core 0).parity)) = some (false, some false)
    ∧ left (exec .matrixOpComplete sReload) (fun t => ((t.core 0).reload, (t.core 0).parity, (t.core 0).btile.map (fun b => ((Map.get {} b.cells 0).p, (Map.get {} b.cells 1).p))))
      = some (true, none, some (2, 3)) := by decide +kernel
/-- The reads of MLDB from a tile: the first row, and the end of the last. -/
def sBread (n : Nat) (img : BImage := {}) : State := { sMat with
  threads := [(0, { sMat.cur with status := .parked .bread })]
  cores := [(0, { tiles := [(0, tile0)], bread := some { matOp (.mldbTile 0) with step := n, img := img } })] }
theorem hyps_bread : (sBread 0).cur.wait = some .bread ∧ ((sBread 0).core 0).bread = some (matOp (.mldbTile 0)) ∧ ((sBread 0).core 0).tile 0 = some tile0
    ∧ 0 < (geometry (matOp (.mldbTile 0)).geom).kvalid ∧ (geometry (matOp (.mldbTile 0)).geom).kvalid ≤ 2 ∧ ((sBread 2).core 0).mq.length < 4
    ∧ (matOp (.mldbTile 0)).poison = none ∧ (sBread 0).cur.electing = none ∧ (sBread 0).cur.inFrame = false
    ∧ ((sBread 0).core 0).tileUnder (matOp (.mldbTile 0)).tbase 0 = some tile0 := by decide +kernel
theorem test_bread : left (exec .dataArrival (sBread 0)) (fun t => (t.core 0).bread.map (fun o => (o.step, Map.find o.img.elems 0, Map.find o.img.elems 1))) = some (some (1, some 2, some 3))
    ∧ left (exec .dataArrival (sBread 2 { elems := [(0, 2)] })) (fun t => ((t.core 0).mq.map (fun o => o.kind), t.cur.pcc.addr)) = some ([.mldb { elems := [(0, 2)] } (.tile 0)], 68) := by
  decide +kernel
def sQueue : State := { sMat with cores := [(0, { mq := [matOp (.mclr 3 1)] })] }
theorem hyps_queue : (sQueue.core 0).mq = [matOp (.mclr 3 1)] ∧ (sQueue.core 0).mrun = none ∧ (sQueue.core 0).cq = [] ∧ (sQueue.core 0).staged = none
    ∧ (sQueue.core 0).parity = none ∧ (sQueue.core 0).preempted = false := by decide +kernel
theorem test_queue_starts : left (exec .matrixOpStart sQueue) (fun t => ((t.core 0).mrun, (t.core 0).mq.length)) = some (some (matOp (.mclr 3 1)), 0) := by decide +kernel
def command : MatCmd := { word := 0xA0607980, m0 := 0, cap := cap 0 allPerms, fmt := sMat.cur.formats, issuer := ⟨1, 0⟩ }
def sCommand : State := { one (thr []) { cmdsIn := [command] } with threads := [(16, { thr [] with status := .parked (.mcmd 5 0), cmdAcks := [⟨0, some 8, 0, false⟩] })] }
theorem hyps_command : commandOf command.word command.m0 command.fmt = some (.mclr 3 16) ∧ clusterOf 1 = clusterOf 0 ∧ command.cap.has permM = true
    ∧ (sCommand.domainOfCore 0).isSome = true ∧ (sCommand.thread ⟨1, 0⟩).wait = some (.mcmd 5 0) ∧ (MatKind.mclr 3 16).tile = none
    ∧ (sCommand.core 0).engine = [] ∧ command.cap.base ≤ command.cap.addr ∧ command.cap.addr < command.cap.top ∧ (sCommand.core 0).cq.length < 4
    ∧ (sCommand.core 0).contained = false ∧ (sCommand.core 0).preempted = false := by decide +kernel
theorem test_command : left (exec .mcmdArrival sCommand) (fun t => ((t.core 0).cq.map (fun o => o.kind == .mclr 3 16), (t.thread ⟨1, 0⟩).cmdsOut, (t.thread ⟨1, 0⟩).status == .running)) = some ([true], 1, true) := by
  decide +kernel
def sAck : State := { one { thr [] with cmdsOut := 2, cmdAcks := [⟨0, some 8, 0, false⟩] } with ev := {} }
theorem hyps_ack : (sAck.thread ⟨0, 0⟩).cmdAcks = [⟨0, some 8, 0, false⟩] ∧ (sAck.thread ⟨0, 0⟩).wait = none := by decide
theorem hyps_ack_order : ∀ i, ∀ e ∈ (sAck.thread ⟨0, i⟩).cmdAcks, e.core = 0 → 0 ≤ e.seq := fun _ _ _ _ => Nat.zero_le _
theorem test_ack : left (exec .mcmdAck sAck) (fun t => (t.cur.cmdsOut, t.cur.matrixPoison, t.cur.cmdAcks)) = some (1, some 8, []) := by decide +kernel

/-! TrellisUnit (R261 to R275): a handle of slot 2 on core 0 with key 9. -/
def handle : Nat := 9 * 2 ^ 32 + 2
def slot2 : ChainSlot := ⟨9, 14, 2, 3, [3, 5], false⟩
def sChain : State := one (thr [(1, (cap 0 allPerms).withAddr handle), (3, (capFor 0 (2 ^ 50) allPerms).withAddr handle), (2, num (3 * 2 ^ 16 + 16 + 14))]) { chains := [(2, slot2)] }
theorem hyps_chains : (sChain.reg 3).tag = true ∧ (sChain.reg 3).has permN = true ∧ (sChain.reg 3).base ≤ (sChain.reg 3).addr ∧ (sChain.reg 3).addr < (sChain.reg 3).top
    ∧ handleDev (sChain.word 3) = sChain.devnum.toNat ∧ handleCore (sChain.word 3) = 0 ∧ sChain.ownCore.chainOf (sChain.word 3) = some slot2
    ∧ sInt.ownCore.chainOf (sChain.word 3) = none ∧ (∀ y ∈ slot2.counts, 3 ≤ y) ∧ 3 ∈ slot2.counts ∧ slot2.expected ≤ 3
    ∧ sChain.Plain ∧ sChain.Drained ∧ sChain.cur.spec = false ∧ sChain.cur.status = .running ∧ (sChain.domainAt 0).holds (clusterOf 0) = true
    ∧ (sChain.core 0).contained = false ∧ ((sChain.setCore 0 { contained := true }).core 0).contained = true ∧ sChain.refusedRows sChain.turn = []
    ∧ sChain.ownCore.outbox.length + 15 + 1 ≤ 64 ∧ sChain.ownCore.mq.length < 4 ∧ ¬slot2.expected ≤ 2 ∧ sChain.Traps := by decide +kernel
theorem hyps_chain_rows : sRefused.ownCore.outbox = [(0, row)] ∧ row.owner = sRefused.turn ∧ row.st = .refused 3 true false ∧ handleDev row.handle = sRefused.devnum.toNat
    ∧ 64 < 64 + (0 : Fin 16).val + 1 ∧ handleCore 0x8 ≠ 0
    ∧ sRefused.Traps ∧ handleCore (sRefused.word 1) = 0 ∧ (sRefused.reg 1).has permN = true ∧ sRefused.ownCore.contained = false
    ∧ ({ row with st := .refused 1 false false } : OutRow).st = .refused 1 false false
    ∧ 64 < ((List.range 64).map (fun i => (i, row))).length + (0 : Fin 16).val + 1 := by decide +kernel
theorem test_asta_chain : left (exec (.astaChain 9 3) sChain) (fun t => t.reg 9) = some (num (2 ^ 50 + 2 ^ 49 + 3 * 2 ^ 32 + 3 * 2 ^ 16 + 16 + 14)) := by decide +kernel
theorem test_asnd_reserves : left (exec (.asnd 14 1 3 2 false) sChain) (fun t => (t.ownCore.outbox.map (fun e => (e.1, e.2.row)), t.ownCore.mq.length)) = some ([(0, 14), (1, 15)], 1) := by
  decide +kernel
theorem test_arsn : left (exec (.arsnNw 9) sRefused) (fun t => (t.reg 9, t.ownCore.outbox.map (fun e => e.2.st))) = some (num 1, [.sent])
    ∧ left (exec (.arsnDrop 9) sRefused) (fun t => (t.reg 9, t.ownCore.outbox)) = some (num 1, []) := by decide +kernel
def sOpen (close : Bool) : State := { one { thr [] with status := .parked (.chain 5 (wordOf handle) (wordOf (3 * 2 ^ 16 + 16 + 14) |>.setWidth 32) true close) }
  (if close then { chains := [(2, slot2)] } else { acc := [(448, ⟨5, 0⟩), (64, ⟨6, 0⟩)] }) with ev := { own := true } }
theorem hyps_chain_open : handleDev (wordOf handle) = 0 ∧ clusterOf (handleCore (wordOf handle)) = clusterOf 0 ∧ ((sOpen false).core 0).chains = []
    ∧ Map.find ((sOpen true).core 0).chains (handleSlot (wordOf handle)) = some slot2 ∧ slot2.key = handleKey (wordOf handle)
    ∧ ((sOpen false).core 0).chainOf (wordOf handle) = none ∧ (Map.find ((sOpen true).core 0).chains 2).isSome = true
    ∧ (sOpen true).cur.wait = some (.chain 5 (wordOf handle) (wordOf (3 * 2 ^ 16 + 16 + 14) |>.setWidth 32) true true) ∧ (sOpen true).cur.past = false
    ∧ (sOpen true).cur.blockBuf = [] ∧ (sOpen true).cur.intrap = false ∧ ((sOpen false).core 0).preempted = false ∧ ((sOpen false).core 0).contained = false
    ∧ (∃ e ∈ ((sOpen true).core 0).chains, ∃ j < e.2.n, ∃ i < 2, (e.2.f + j) % 16 = (14 + i) % 16) := by decide +kernel
theorem test_chain_opens : left (exec .chainOpenArrival (sOpen false)) (fun t => (t.cur.reg 5, (t.core 0).chains, Map.get ⟨0, 0⟩ (t.core 0).acc 448, Map.get ⟨0, 0⟩ (t.core 0).acc 64))
    = some (num 0, [(2, ⟨9, 14, 2, 3, [0, 0], false⟩)], ⟨0, 0⟩, ⟨6, 0⟩) := by decide +kernel
theorem test_chain_closes : left (exec .chainCloseArrival (sOpen true)) (fun t => (t.cur.reg 5, (t.core 0).chains)) = some (num 0, []) := by decide +kernel
theorem test_chain_contained : left (exec .chainOpenArrival ((sOpen false).setCore 0 { contained := true })) (fun t => (t.cur.causeCode, t.cur.tval)) = some (0x12, 0) := by
  decide +kernel
def sent : OutRow := ⟨wordOf handle, 1, 0, List.replicate 32 ⟨4, 0⟩, ⟨1, 0⟩, .sent, 0, false, false⟩
def sRow (r : OutRow) (c : Core := { chains := [(2, slot2)], acc := [(480, ⟨5, 0⟩)] }) : State := { one (thr []) with
  cores := [(0, c), (1, { outbox := [(7, r)] })], ev := { core := 1, k := 7, own := true, src := some (.outbox 1 7) } }
theorem hyps_row : sent.handle = wordOf handle ∧ clusterOf 0 = clusterOf 1 ∧ Map.find ((sRow sent).core 1).outbox 7 = some sent ∧ ((sRow sent).core 0).chainOf sent.handle = some slot2
    ∧ sent.row < slot2.n ∧ sent.anch = ((sRow sent).core 0).anch ∧ ((sRow sent).core 0).mrun = none ∧ ((sRow sent).core 0).mq = [] ∧ sent.lanes.length = 32
    ∧ slot2.n ≤ ({ sent with row := 2 } : OutRow).row ∧ ({ sent with anch := 1 } : OutRow).anch ≠ ((sRow sent).core 0).anch
    ∧ sent.cut = false ∧ (∀ e ∈ ((sRow sent).core 1).outbox, e.2.st = .sent → sent.seq ≤ e.2.seq) ∧ ((sRow sent).core 0).refusals.length < 256
    ∧ ((sRow sent).core 0).cq = [] ∧ (sRow sent).ev.src = some (.outbox 1 7)
    ∧ ((sRow sent { preempted := true }).core 0).preempted = true ∧ ((sRow sent { contained := true }).core 0).contained = true ∧ ((sRow sent {}).core 0).chainOf sent.handle = none
    ∧ (sRow { sent with st := .refused 1 false true } { notices := [1] }).ev.target = handleCore sent.handle := by decide +kernel
theorem test_row_adds : left (exec .trellisRowArrival (sRow sent)) (fun t => (Map.get ⟨0, 0⟩ (t.core 0).acc 480, (Map.find (t.core 0).chains 2).map (fun x => x.counts), (t.core 1).outbox.map (fun e => e.2.st)))
    = some (⟨9, 0⟩, some [3, 6], [.answered 0 true false]) := by decide +kernel
theorem test_row_refused : left (exec .trellisRowArrival (sRow { sent with anch := 1 })) (fun t => (t.core 1).outbox.map (fun e => e.2.st)) = some [.answered 5 true false]
    ∧ left (exec .trellisRowArrival (sRow { sent with row := 2 })) (fun t => (t.core 1).outbox.map (fun e => e.2.st)) = some [.answered 4 true false]
    ∧ left (exec .trellisRowArrival (sRow sent { preempted := true })) (fun t => ((t.core 1).outbox.map (fun e => e.2.st), (t.core 0).refusals)) = some ([.answered 1 false false], [1]) := by
  decide +kernel
theorem test_answer : left (exec .trellisAckArrival (sRow { sent with st := .answered 0 true false })) (fun t => (t.core 1).outbox) = some []
    ∧ left (exec .trellisAckArrival (sRow { sent with st := .answered 5 true false })) (fun t => (t.core 1).outbox.map (fun e => e.2.st)) = some [.refused 5 true false] := by decide +kernel
theorem test_notice : left (exec .resumeNotice (sRow { sent with st := .refused 1 false false } { notices := [1] })) (fun t => (t.core 1).outbox.map (fun e => e.2.st)) = some [.refused 1 true false]
    ∧ left (exec .refusalReadyTimeout (sRow { sent with st := .refused 1 false true })) (fun t => (t.core 1).outbox.map (fun e => e.2.st)) = some [.refused 1 true true] := by decide +kernel

/-! Sparse (R305 to R315): keys 5, 6, 5 in tile 0; tile 1 for pairs. -/
def sCam : State := { one { thr [(1, num 6), (2, num 3), (3, num 3), (4, desc 3 0)] with status := .running } { tiles := [(0, { rel := 0, len := 64, st := .ready }), (1, { rel := 64, len := 64, st := .ready })], cam := [(0, ⟨5, 9⟩), (1, ⟨6, 4⟩)] } with
  scratch := ((mem 0 4 5).write 4 4 6).write 8 4 5 }
theorem hyps_sparse : sCam.Plain ∧ sCam.Drained ∧ sCam.ownCore.tile 0 = some { rel := 0, len := 64, st := .ready } ∧ 4 * min ((sCam.word 2).toNat % 2 ^ 16) 256 ≤ 64
    ∧ sCam.ownCore.camLoading = false ∧ sCam.ownCore.cam = [(0, ⟨5, 9⟩)] ++ (1, ⟨6, 4⟩) :: [] ∧ (sCam.word 1).toNat % 2 ^ 32 = 6 ∧ (∀ q ∈ sCam.ownCore.cam, q.2.key ≠ 3) := by decide +kernel
theorem test_camc : left (exec (.camc 9 1) sCam) (fun t => t.reg 9) = some (num (2 * 2 ^ 40 + 2 ^ 32 + 2 ^ 16 + 4)) ∧ left (exec (.camc 9 2) sCam) (fun t => t.reg 9) = some (num (2 * 2 ^ 40)) := by
  decide +kernel
theorem test_caml_enters : left (exec (.caml 9 0 2) sCam) (fun t => (t.ownCore.camq, (t.ownCore.tile 0).map (fun x => x.hold))) = some ([.load ⟨0, 0⟩ 9 0 3 0 0], some 1) := by decide +kernel
def sCamEnd (o : CamOp) : State := { sCam with threads := [(0, { thr [] with status := .parked (.cam 9) })], cores := [(0, { sCam.ownCore with camq := [o] })] }
theorem hyps_cam_end : ((sCamEnd (.load ⟨0, 0⟩ 9 0 3 0 0)).thread ⟨0, 0⟩).wait = some (.cam 9) ∧ (sCamEnd (.probe ⟨0, 0⟩ 9 1 0 3 0 0)).copying 0 = false
    ∧ ((sCamEnd (.probe ⟨0, 0⟩ 9 1 0 3 0 0)).core 0).tileOff { rel := 64, len := 64, st := .ready } + 4 ≤ 2 ^ 21
    ∧ ((sCamEnd (.load ⟨0, 0⟩ 9 0 3 0 0)).core 0).tileUnder 0 0 = some { rel := 0, len := 64, st := .ready } ∧ ((sCamEnd (.probe ⟨0, 0⟩ 9 1 0 3 0 0)).core 0).tileUnder 0 1 = some { rel := 64, len := 64, st := .ready } := by decide +kernel
theorem test_cam_load : left (exec .camOperationEnd (sCamEnd (.load ⟨0, 0⟩ 9 0 3 0 0))) (fun t => (t.cur.reg 9, Map.find (t.core 0).cam 2)) = some (num (3 + 2 ^ 16), some ⟨5, 2⟩) := by decide +kernel
theorem test_cam_probe : left (exec .camOperationEnd (sCamEnd (.probe ⟨0, 0⟩ 9 1 0 3 0 0))) (fun t => (t.cur.reg 9, t.scratch.read 64 4)) = some (num (3 + 3 * 2 ^ 32), 9 * 2 ^ 16) := by decide +kernel
theorem hyps_camp : (Tile.len { rel := 64, len := 64, st := .ready }) ≥ 4 * ((sCam.word 2).toNat % 2 ^ 16) ∧ (0 : TileNum) ≠ 1 ∧ sCam.ownCore.tile 1 = some { rel := 64, len := 64, st := .ready } := by decide +kernel
theorem test_spcf : left (exec (.spcf 9 1) { sCam with cores := [(0, { sCam.ownCore with negRow := true })] }) (fun t => (t.reg 9, t.ownCore.negEmpty, t.ownCore.negRow))
    = some (num 2, false, false) := by decide +kernel
/-- One row (5) listed in tile 0, with its pointers 0 and 2, gathered into tile 1; descriptors with a reserved bit set are malformed. -/
def sGet : State := { one (thr [(1, cap 128 allPerms), (2, cap 256 allPerms), (3, desc (1 + 2 ^ 21) 64), (4, desc (2 ^ 30) 0)])
  { tiles := [(0, { rel := 0, len := 64, st := .ready }), (1, { rel := 1024, len := 1024, st := .empty })] } with scratch := (mem 0 4 5).write 152 4 2 }
theorem hyps_getr : let s := sGet
    badGather (s.word 4) = true ∧ badGather (s.word 3) = false ∧ s.cur.getr = none ∧ s.Plain ∧ s.Drained ∧ s.cur.spec = false ∧ (s.word 3).toNat % 2 ^ 16 = 1
    ∧ (s.word 3).toNat / 2 ^ 16 % 32 = 0 ∧ (s.word 3).toNat / 2 ^ 21 % 32 = 1 ∧ (s.word 3).getLsbD 26 = false
    ∧ s.ownCore.tile 0 = some { rel := 0, len := 64, st := .ready } ∧ s.ownCore.tile 1 = some { rel := 1024, len := 1024, st := .empty }
    ∧ (s.reg 1).tag = true ∧ (s.reg 1).otype = 0 ∧ (s.reg 1).has permL = true ∧ (s.reg 2).tag = true ∧ (s.reg 2).otype = 0 ∧ (s.reg 2).has permL = true
    ∧ s.released s.turn = true ∧ s.ownCore.fifo.length < 16 ∧ s.scratch.poison = [] ∧ s.ownCore.contained = false
    ∧ (s.domainAt 0).holds (clusterOf 0) = true ∧ s.tileRead 0 { rel := 0, len := 64, st := .ready } 0 4 = 5
    ∧ (∀ r ∈ [5, 6], (s.reg 1).base ≤ (s.reg 1).addr + r * 4 ∧ (s.reg 1).addr + r * 4 + 4 ≤ (s.reg 1).top ∧ ((s.reg 1).addr + r * 4) % 4 = 0
      ∧ scratchOf (s.domainAt 0) ((s.reg 1).addr + r * 4) = some (128 + r * 4) ∧ scratchCore (128 + r * 4) = 0)
    ∧ s.scratch.read 148 4 = 0 ∧ s.scratch.read 152 4 = 2 ∧ (s.reg 2).base ≤ (s.reg 2).addr ∧ (s.reg 2).addr + 4 * 2 ≤ (s.reg 2).top
    ∧ (s.reg 2).addr + 64 + gSize (s.word 3) * 2 ≤ (s.reg 2).top ∧ gatherBytes (s.word 3) [(5, 0, 2)] ≤ 1024
    ∧ (∀ r ∈ [5, 6], scratchCore (128 + r * 4 + 4 - 1) = 0) := by decide +kernel
theorem hyps_getr_alone : ∀ i < 15, ∀ op, (sGet.thread ⟨0, i⟩).wait ≠ some (.tile op) := by
  intro i _ op h
  have e : (sGet.thread ⟨0, i⟩).status = .running ∨ (sGet.thread ⟨0, i⟩).status = .idle := by
    simp only [State.thread, sGet, one, Map.get]
    split
    · exact .inl rfl
    · exact .inr rfl
  rcases e with e | e <;> simp [Thread.wait, e] at h
theorem test_getr : left (exec (.getr 9 1 2 3) sGet) (fun t => (t.ownCore.fifo.map (fun q => q.rows), (t.ownCore.tile 1).map (fun x => x.st), t.cur.pc))
    = some ([[(5, 0, 2)]], some .filling, 68) := by decide +kernel

/-! SystemInstructions (R318 to R343). -/
def sSys : State := { one { thr [(1, num 0), (2, num 1), (3, num 4096), (4, num (2 ^ 31)), (5, num 64), (6, num (2 ^ 10)), (7, num (2 ^ 31 + 2 ^ 21))] with
    tepc := (capFor 0 4096 [permX]).withAddr 128, pmode := false, mode := true } with hbm := mem 0x7000 8 0x0000000080000703 }
theorem hyps_system : sSys.Plain ∧ sSys.Drained ∧ sSys.Traps ∧ sSys.cur.spec = false ∧ sSys.domainOfCore 0 = some 0 ∧ sSys.word 2 ≠ 0 ∧ sSys.word 1 = 0 ∧ sSys.cur.frame = none
    ∧ sSys.released sSys.turn = true ∧ (sSys.core 1).contained = false ∧ sSys.domainOfCore 4096 ≠ some 0 ∧ sSys.domainOfCore 1 = some 0 ∧ sSys.cur.gsiz.toNat < 2
    ∧ (∀ j ∈ sSys.coresIn 0, (sSys.core j).l1 = [] ∧ (sSys.core j).wbq = [] ∧ (sSys.core j).fills = []) := by decide +kernel
theorem hyps_system_idle : sSys.translated 0 (fun _ => true) = false ∧ ∀ j, (sSys.cluster j).snoop = [] := by
  refine ⟨by decide +kernel, fun j => ?_⟩
  simp only [sSys, one, State.cluster, Map.get]
  split <;> rfl
theorem test_eret : left (exec .eret sSys) (fun t => (t.cur.pc, t.cur.mode)) = some (128, false) := by decide +kernel
theorem test_sysc : left (exec (.sysc 0xABC) sSys) (fun t => (t.cur.causeCode, t.cur.tval)) = some (0x15, 0xABC) ∧ left (exec (.brk 1) sSys) (fun t => (t.cur.causeCode, t.cur.tval))
    = some (0x14, 0xC0000012) := by decide +kernel
theorem test_prmt_statuses : left (exec (.prmt 9 3) sSys) (fun t => t.reg 9) = some (num 2) ∧ left (exec (.rsum 9 1) sSys) (fun t => t.reg 9) = some (num 3)
    ∧ left (exec (.prmt 9 2) sSys) (fun t => t.cur.status) = some (.parked (.prmt 9 1)) := by decide +kernel
theorem hyps_contained_target : (({ sSys with cores := [(1, { contained := true })] } : State).core 1).contained = true := by decide +kernel
def sTlb : State := { sSys with clusters := [(0, { tlb := [leaf], faults := [(1, { page := 4096, size := 4096, dom := 0, core := 0, slot := 0, kind := 0, reason := 0 })] })] }
theorem test_tlbi : left (exec (.tlbiPg 4 0) sTlb) (fun t => (t.cluster 0).tlb) = some [] ∧ left (exec (.tlbiWake 6) sTlb) (fun t => (t.cluster 0).faults) = some []
    ∧ Map.find (sTlb.cluster 0).faults 2 = none ∧ (Map.find (sTlb.cluster 0).faults 1).map (fun f => (f.dom, f.held.length)) = some (0, 0) := by decide +kernel
/-- PMIG: a leaf of 4 KiB at 2^31, found by a walk of five tables; a leaf that has MIG set; a pinned line; a hole. -/
def sMig (pte : Nat) (k : Cluster := {}) : State := { sSys with
  hbm := ((((mem 0 8 0x4000001).write 0x1000 8 0x8000001).write 0x2010 8 0xC000001).write 0x3000 8 0x10000001).write 0x4000 8 pte, clusters := [(0, k)] }
def walked (s : State) (x : Nat) : Option (Nat × Nat × Bool) := (walkFrom s 0 (signed57 x) 5 0).toOption.map (fun e => (e.pteAddr, pteType e.pte, pteMig e.pte))
theorem hyps_pmig : walked (sMig 0x14000703) (2 ^ 31) = some (0x4000, 0, false) ∧ walked (sMig 0x14004703) (2 ^ 31) = some (0x4000, 0, true)
    ∧ walked (sMig 0x14000707) (2 ^ 31) = some (0x4000, 1, false) ∧ walked (sMig 0x14000703) (2 ^ 31 + 2 ^ 21) = none
    ∧ ((sMig 0x14000703).domain 0).holds 0 = true ∧ ((sMig 0x14000703).domain 0).holds 1 = false ∧ leafCopies 0x4000 0 = (0x4000, 1) ∧ (sMig 0x14000703).fhome = 0 := by decide +kernel
theorem test_pmig : left (exec (.pmig 9 4 0) (sMig 0x14000703)) (fun t => (t.reg 9, t.hbm.read 0x4000 8)) = some (num 0, 0x14000703)
    ∧ left (exec (.pmig 9 4 1) (sMig 0x14000703)) (fun t => t.reg 9) = some (num 2) ∧ left (exec (.pmig 9 7 0) (sMig 0x14000703)) (fun t => t.reg 9) = some (num 1)
    ∧ left (exec (.pmig 9 4 0) (sMig 0x14004703)) (fun t => t.reg 9) = some (num 3)
    ∧ left (exec (.pmig 9 4 0) (sMig 0x14000703 { pinned := [320] })) (fun t => t.reg 9) = some (num 2) := by decide +kernel
/-- HALT: a gang thread, a detached thread without and with requests in its ring, and a task of width 1. -/
def sHalt (h : Thread) (ring : Nat := 0) : State := { one { h with task := some ⟨0, 3, 0⟩, domain := some 0 } {} { queue := [(3, { entry with spec := false })], tlb := [{ leaf with va := 0, pte := 0x703 }] } with
  hbm := mem 0 8 ring }
theorem hyps_halt : 2 ≤ (sHalt { thr [] with gsiz := 2 }).cur.gsiz.toNat ∧ (sHalt { thr [] with detached := true }).ringPending ⟨0, 0⟩ = 0
    ∧ (sHalt { thr [] with detached := true } 3).ringPending ⟨0, 0⟩ ≠ 0 ∧ (sHalt (thr [])).cur.detached = false ∧ (sHalt (thr [])).cur.task = some ⟨0, 3, 0⟩
    ∧ ((sHalt (thr [])).taskOf ⟨0, 3, 0⟩).map (fun q => q.commit) = some none
    ∧ ((sHalt { thr [] with detached := true }).ringNeeds ⟨0, 0⟩).needs = (sHalt { thr [] with detached := true }).needs ∧ ((sHalt (thr [])).detach.ringNeeds ⟨0, 0⟩).needs = [] := by decide +kernel
theorem test_halt : left (exec (.halt 9) (sHalt (thr []))) (fun t => (t.cur.status, t.cur.detached, (t.domain 0).supervisors)) = some (.parked (.halt 9), true, [⟨0, 0⟩]) := by decide +kernel
theorem test_dupc : left (exec (.dupcClear 9 1) { sSys with cores := [(0, { mismatches := 5 })] }) (fun t => (t.reg 9, (t.core 0).mismatches)) = some (num 5, 0)
    ∧ left (exec (.dupc 9 3) sSys) (fun t => t.reg 9) = some (num 0) := by decide +kernel

/-! StateRegisters (R45, R46, R323). -/
theorem hyps_state_registers : sSys.Plain ∧ sSys.cur.spec = false ∧ sSys.ownCore.cq.length < 8 ∧ (sSys.domainOfCore sSys.turn.core).isSome = true
    ∧ ¬(Csr.tstat = .tstat ∧ sSys.cur.mode = false ∧ (sSys.word 2).getLsbD 0 = true) ∧ (∀ f, sSys.cur.frame = some f → f.active = true) := by decide +kernel
def sUser : State := { sSys with threads := [(0, { sSys.cur with mode := false })] }
theorem hyps_mode_write : sUser.cur.mode = false ∧ (sUser.word 2).getLsbD 0 = true ∧ sUser.Traps := by decide +kernel
/-- A descriptor at 64 of HBM, whose rectangle is the domain's. -/
def sDesc : State := { sSys with clusters := [(0, { tlb := [page0] })], hbm := (mem (64 + 96) 4 0x01010000).write (64 + 92) 4 7 }
theorem hyps_descriptor : (sDesc.domRead 0 64 128).map (fun y => (List.range 4).map (fun k => y / 256 ^ (96 + k) % 256)) = some [0, 0, 1, 1]
    ∧ ((sDesc.domain 0).col, (sDesc.domain 0).row, (sDesc.domain 0).cols, (sDesc.domain 0).rows) = (0, 0, 1, 1) ∧ sDesc.cur.mode = true
    ∧ (((sDesc.word 5 >>> 6 <<< 6).extractLsb' 0 57).signExtend 64).toNat = 64
    ∧ (sDesc.csrPut .ddesc (sDesc.word 5) (sDesc.word 5)).needs = sDesc.needs := by decide +kernel
theorem test_descriptor : left (exec (.csrw 9 .ddesc 5) sDesc) (fun t => ((t.domain 0).ddesc, (t.domain 0).descr.toNat / 256 ^ 92 % 256 ^ 4)) = some (64, 7) := by decide +kernel
theorem test_csr : left (exec (.csrw 9 .fflags 5) sSys) (fun t => t.cur.fflags) = some 0 ∧ left (exec (.csrs 9 .rmode 2) sSys) (fun t => (t.reg 9, t.cur.rmode)) = some (num 0, 1)
    ∧ left (exec (.csrw 9 .lwin 4) sSys) (fun t => (t.domain 0).lwin) = some 0x80000000 ∧ left (exec (.csrw 9 .tepc 5) sSys) (fun t => t.cur.tepc) = some (num 64)
    ∧ left (exec (.csrw 9 .tstat 2) sUser) (fun t => (t.cur.causeCode, t.cur.tval)) = some (3, 0xC5220001) := by decide +kernel

/-! Prefixes (R29, R31, R229 to R233): the prefix is at 64, so line 1 holds the words after it. -/
def line1 (w : Nat) : Core := { icache := [(1, { data := BitVec.ofNat 512 (w * 2 ^ 32) })] }
def vandWord : Nat := encodeNat (.vand 9 1 2)
def sRpt (w : Nat) : State := one (thr [(1, q 0xFF0), (2, q 0x0FF)]) (line1 w)
theorem hyps_rpt : (sRpt vandWord).Plain ∧ (sRpt vandWord).cur.poisonPend = [] ∧ (sRpt vandWord).fetchAt 0 ((sRpt vandWord).cur.pcc.withAddr 68) = .word vandWord ∧ bodyWord vandWord = true
    ∧ decodeFault (sRpt vandWord).cur vandWord = none ∧ boundWord (BitVec.ofNat 32 vandWord) = false
    ∧ boundWord (0xA0607980 : BitVec 32) = true ∧ bodyWord 0xA0607980 = true ∧ (sRpt 0xA0607980).fetchAt 0 ((sRpt 0xA0607980).cur.pcc.withAddr 68) = .word 0xA0607980
    ∧ decodeFault (sRpt 0).cur 0xA0607980 = none := by decide +kernel
theorem test_rpt : left (exec (.rpt 0 2 1 0 0 0) (sRpt vandWord)) (fun t => (t.cur.frame.map (fun f => (f.words, f.steps, f.count)), t.cur.pc))
    = some (some ([BitVec.ofNat 32 vandWord], [1, 0, 0, 0], 3), 72) := by decide +kernel
def frame : Frame := ⟨[BitVec.ofNat 32 vandWord], [1, 0, 0, 0], 3, 1, 0, 0, false, cap 64 [permX], true, false, [], none, []⟩
def sSeq : State := one { thr [(1, q 0xFF0), (2, q 0x0FF)] with frame := some frame }
theorem hyps_sequencer : sSeq.ev.t = ⟨0, 0⟩ ∧ (sSeq.thread ⟨0, 0⟩).frame = some frame ∧ (sSeq.thread ⟨0, 0⟩).rx = [] ∧ (sSeq.thread ⟨0, 0⟩).electing = none ∧ (sSeq.thread ⟨0, 0⟩).status = .running
    ∧ (sSeq.thread ⟨0, 0⟩).dup = false ∧ (sSeq.thread ⟨0, 0⟩).trail = none ∧ (sSeq.thread ⟨0, 0⟩).inFrame = false ∧ frame.late = none ∧ frame.active = true ∧ frame.bound = false
    ∧ frame.polled = [] ∧ (sSeq.core 0).quiescing = false ∧ frame.word = 0 ∧ frame.writes = [] ∧ frame.replay < frame.count ∧ (sSeq.core 0).landing = [] ∧ (sSeq.thread ⟨0, 15⟩).status ≠ .running
    ∧ (∀ i < 15, i ≠ 0 → (sSeq.thread ⟨0, i⟩).frame = none)
    ∧ decode (stepWord (frame.words.headD 0).toNat frame.steps frame.replay) = .instr (.vand 10 1 2) := by decide +kernel
/-- The last result of a frame is on its way. -/
def lastWrite : Frame := { frame with replay := 3, writes := [⟨12, q 0x0F0, 4, (2, 0)⟩] }
def sWrite : State := { one { thr [] with frame := some lastWrite } with ev := { k := 1 } }
theorem hyps_frame_write : (sWrite.thread ⟨0, 0⟩).frame = some lastWrite ∧ lastWrite.count ≤ lastWrite.replay ∧ lastWrite.writes.length = 1 ∧ sWrite.ev.k = 1
    ∧ (sWrite.thread ⟨0, 0⟩).inFrame = false ∧ lastWrite.late = none ∧ lastWrite.polled = [] ∧ (sWrite.thread ⟨0, 0⟩).status = .running := by decide +kernel
theorem test_frame_write : left (exec .repeatWordIssue sWrite) (fun t => (t.cur.reg 12, t.cur.fflags, t.cur.frame, t.cur.pc)) = some (q 0x0F0, 4, none, 64) := by decide +kernel
theorem test_sequencer : left (exec .repeatWordIssue sSeq) (fun t => (t.cur.reg 10, t.cur.pc)) = some ({}, 64)
    ∧ left (exec .repeatWordIssue sSeq) (fun t => t.cur.frame.map (fun f => (f.replay, f.writes.map (fun w => w.v)))) = some (some (2, [q 0x0F0])) := by decide +kernel
def sElect : State := { sGang with cores := [(0, line1 0x04A63800)] }
theorem hyps_elect : sElect.Plain ∧ sElect.fetchAt 0 (sElect.cur.pcc.withAddr 68) = .word 0x04A63800 ∧ electable 0x04A63800 = true ∧ decodeFault sElect.cur 0x04A63800 = none
    ∧ sElect.barrierOf sElect.turn = some (0, 2) ∧ sElect.leads gang = true ∧ gang.post = none ∧ ({ sElect with turn := ⟨0, 1⟩ } : State).leads gang = false
    ∧ (one (thr []) (line1 0x04A63800)).barrierOf ⟨0, 0⟩ = none
    ∧ sElect.cur.electRx = none ∧ gang.broken = none ∧ sElect.cur.spec = false ∧ (one (thr []) (line1 0x04A63800)).Plain := by decide +kernel
theorem test_elect : left (exec .elect sElect) (fun t => (t.cur.electing.isSome, t.cur.electReg, t.cur.pc, t.cur.status)) = some (true, 5, 68, .running)
    ∧ left (exec .elect { sElect with turn := ⟨0, 1⟩ }) (fun t => (t.cur.status, t.cur.pc)) = some (.parked .elect, 64) := by decide +kernel

/-! ContainmentPreemptionErrors (R336 to R348): the second column of core 0's row; descriptors that leave the domain, overlap, or hold the issuer. -/
def rect (n : Nat) : Rect := { col := n, row := 0, colsM1 := 0, rowsM1 := 0 }
def sCntn (rs : Map Rect := []) : State := one (thr [(1, num 1), (2, num 8), (3, num 0), (4, num 2)]) {} {} { rects := rs }
theorem hyps_cntn : (sCntn).Plain ∧ (sCntn).Drained ∧ (sCntn).domainOfCore 0 = some 0 ∧ Map.firstFree ((sCntn).domain 0).rects 4 = some 0
    ∧ Map.firstFree [(0, rect 1), (1, rect 2), (2, rect 3), (3, rect 4)] 4 = none ∧ ((sCntn).domain 0).leaves (rect 8) = true ∧ ((sCntn).domain 0).leaves (rect 1) = false
    ∧ ((sCntn [(0, rect 1)]).domain 0).rects.any (fun e => e.2.overlaps (rect 1)) = true ∧ (rect 0).holds 0 = true ∧ (rect 1).holds 0 = false ∧ (rect 1).cores = [1]
    ∧ (∀ x ∈ (rect 1).cores, (sCntn).liveOn x = [] ∧ x ≠ (sCntn).turn.core) ∧ Map.find ((sCntn [(2, rect 1)]).domain 0).rects 2 = some (rect 1)
    ∧ Map.find ((sCntn).domain 0).rects 2 = none ∧ ((sCntn).domain 0).snap = none
    ∧ (sCntn).cur.status = .running ∧ (sCntn).cur.spec = false ∧ (sCntn).turn.slot < 16 ∧ (∀ e ∈ ((sCntn).domain 0).rects, e.2.overlaps (rect 1) = false)
    ∧ (((sCntn).setDomain 0 { (sCntn).domain 0 with rects := Map.set ((sCntn).domain 0).rects 0 (rect 1) }).contain 0 (rect 1).cores).needs = (sCntn).needs := by decide +kernel
theorem test_cntn : left (exec (.cntnContain 9 1) sCntn) (fun t => (t.reg 9, (t.core 1).contained, (t.domain 0).rects)) = some (num 0, true, [(0, rect 1)])
    ∧ left (exec (.cntnContain 9 2) sCntn) (fun t => t.reg 9) = some (num 2) ∧ left (exec (.cntnContain 9 3) sCntn) (fun t => t.reg 9) = some (num 4)
    ∧ left (exec (.cntnContain 9 1) (sCntn [(0, rect 1)])) (fun t => t.reg 9) = some (num 3) := by decide +kernel
theorem test_cntn_modes : left (exec (.cntnRelease 9 4) { sCntn [(2, rect 1)] with scratch := mem 0x8000 1 5, cores := [(1, { contained := true })] })
      (fun t => (t.reg 9, (t.core 1).contained, t.scratch.byte 0x8000, (t.domain 0).rects)) = some (num 0, false, 0, [])
    ∧ left (exec (.cntnQuery 9 4) (sCntn [(2, rect 1)])) (fun t => t.reg 9) = some (num (2 ^ 32 + 1)) := by decide +kernel
/-- A supervisor in core 1 asks for core 0; a request that has reached the core. -/
def asked (prmt : Bool) : Core := { requests := [(prmt, ⟨1, 0⟩, 9)] }
def sPrmt (w : Wait) (c : Core := {}) (st : Status := .running) : State := { one { thr [(1, num 5)] with status := st } c with
  threads := [(0, { thr [(1, num 5)] with status := st }), (16, { thr [] with status := .parked w })] }
theorem hyps_prmt : let s := sPrmt (.prmt 9 0)
    s.requestOf 0 true = some (⟨1, 0⟩, 9) ∧ (sPrmt (.rsum 9 0)).requestOf 0 false = some (⟨1, 0⟩, 9)
    ∧ (sPrmt (.prmt 9 0) (asked true)).requestOf 0 true = none ∧ (sPrmt (.rsum 9 0) (asked false)).requestOf 0 false = none
    ∧ (s.thread ⟨1, 0⟩).wait = some (.prmt 9 0) ∧ (s.core 0).late = [] ∧ s.domainOfCore 0 = some 0 ∧ (s.thread ⟨1, 0⟩).electing = none
    ∧ (s.thread ⟨1, 0⟩).inFrame = false ∧ (s.core 0).preempted = false ∧ (s.core 0).resuming = false ∧ (s.core 0).running = none ∧ (s.core 0).ops = []
    ∧ (s.core 0).l1 = [] ∧ (s.core 0).wbq = [] ∧ (s.core 0).engine = [] ∧ (s.core 0).camq = []
    ∧ (∀ e ∈ s.clusters, e.2.lineQueue = [] ∧ e.2.hostReqs = [] ∧ e.2.peerReqs = [] ∧ e.2.snoop = [] ∧ e.2.atsOn = false)
    ∧ (∀ x ∈ s.liveOn 0, let h := s.thread x
      h.status = .running ∧ h.spec = false ∧ h.rx = [] ∧ h.dup = false ∧ h.frame = none ∧ h.lihhNow = none ∧ h.getr = none)
    ∧ ((sPrmt (.rsum 9 0) { resuming := true } (.preempted none)).liveOn 0) = [⟨0, 0⟩]
    ∧ ((sPrmt (.rsum 9 0) { resuming := true } (.preempted none)).core 0).diverted = [] ∧ ((sPrmt (.rsum 9 0) { resuming := true }).core 0).refusals = [] := by decide +kernel
theorem test_prmt : left (exec .prmtArrival (sPrmt (.prmt 9 0))) (fun t => ((t.core 0).requests, (t.core 0).preempted)) = some ([(true, ⟨1, 0⟩, 9)], false)
    ∧ left (exec .prmtArrival (sPrmt (.prmt 9 0) (asked true))) (fun t => ((t.thread ⟨1, 0⟩).reg 9, (t.core 0).preempted, (t.thread ⟨0, 0⟩).status, (t.thread ⟨0, 0⟩).reg 1))
      = some (num 0, true, .preempted none, num 5)
    ∧ left (exec .prmtArrival (sPrmt (.prmt 9 0) { asked true with preempted := true })) (fun t => (t.thread ⟨1, 0⟩).reg 9) = some (num 1) := by decide +kernel
/-- A redundant pair whose trailing thread waits is saved at its position; one that can still go on holds the request up. -/
def sPrmtPair (waiting : Bool) : State :=
  let h : Thread := { thr [(1, num 5)] with dup := true, instret := 4 }
  { sPrmt (.prmt 9 0) (asked true) with threads := [(0, h), (7, { h with regs := [(1, num 6)], instret := 2, trail := some { waiting := waiting } }), (16, { thr [] with status := .parked (.prmt 9 0) })] }
theorem test_prmt_pair : left (exec .prmtArrival (sPrmtPair true)) (fun t => ([0, 7].map (fun i => ((t.thread ⟨0, i⟩).status, (t.thread ⟨0, i⟩).reg 1, (t.thread ⟨0, i⟩).instret)), (t.core 0).preempted))
      = some ([(.preempted none, num 6, 2), (.preempted none, num 6, 2)], true)
    ∧ left (exec .prmtArrival (sPrmtPair false)) (fun t => ((t.thread ⟨0, 0⟩).status, (t.core 0).preempted)) = some (.running, false) := by decide +kernel
theorem test_rsum : left (exec .rsumArrival (sPrmt (.rsum 9 0) { asked false with resuming := true } (.preempted none))) (fun t => ((t.thread ⟨1, 0⟩).reg 9, (t.thread ⟨0, 0⟩).status, (t.thread ⟨0, 0⟩).reg 1))
      = some (num 0, .running, num 5)
    ∧ left (exec .rsumArrival (sPrmt (.rsum 9 0) (asked false))) (fun t => (t.thread ⟨1, 0⟩).reg 9) = some (num 1)
    ∧ left (exec .rsumArrival (sPrmt (.rsum 9 0) { asked false with preempted := true })) (fun t => ((t.core 0).preempted, (t.core 0).resuming)) = some (false, true) := by decide +kernel
theorem hyps_retry : sChunk.ev.k = 0 ∧ (sChunk.core 0).incoming = [chunk] ∧ clusterOf chunk.owner.core = clusterOf 0 ∧ chunk.sub = none ∧ (sChunk.core 0).contained = false
    ∧ (sChunk.core 0).diverted = [] ∧ (sChunk.core 0).landing.length + (sChunk.core 0).running.toList.length < 32 := by decide +kernel
theorem test_retry : left (exec .spillQueueRetry sChunk) (fun t => ((t.core 0).landing.length, (t.core 0).incoming)) = some (1, []) := by decide +kernel
def sErr (site : ErrorSite) (fixed : Bool) : State := { one (thr []) with ev := { site := some site, correctable := fixed } }
theorem test_memory_error : left (exec .memoryError (sErr (.memory .hbm 72) false)) (fun t => (t.hbm.poison, (t.domain 0).mchks.map (fun m => (m.kind, m.addr)))) = some ([9], [(1, 72)])
    ∧ left (exec .memoryError (sErr (.memory .hbm 72) true)) (fun t => t.hbm.poison) = some [] := by decide +kernel
def sMchk : State := one { thr [] with detached := true } {} { tlb := [{ leaf with va := 0, pte := 0x703 }, { leaf with va := 0x3000, pte := 0x0C000703 }] }
  { mchks := [{ kind := 9, addr := 5 }], supervisors := [⟨0, 0⟩] }
theorem hyps_mchk : (sMchk.domain 0).mchks = [{ kind := 9, addr := 5 }] ∧ ((sMchk.domRead 0 0x10 8).getD 0 + 2 ^ 64 - (sMchk.domRead 0 0x18 8).getD 0) % 2 ^ 64 ≠ 256
    ∧ (sMchk.domain 0).supervisors = [⟨0, 0⟩] ∧ (sMchk.thread ⟨0, 0⟩).status = .running ∧ (sMchk.thread ⟨0, 0⟩).detached = true
    ∧ (sMchk.thread ⟨0, 0⟩).trail = none
    ∧ (sMchk.devNeeds 0 0x10 0x18 false).needs = sMchk.needs ∧ (sMchk.domain 0).snap = none ∧ (∀ e ∈ sMchk.clusters, e.2.snoop = [] ∧ e.2.atsOn = false) ∧ sMchk.hbm.poison = [] := by decide +kernel
theorem test_mchk : left (exec .mchkDelivery sMchk) (fun t => ((t.domain 0).mchks, t.cur.pendMchk, t.hbm.read 0x3008 8, t.hbm.byte 0x3010, t.hbm.read 0x10 8)) = some ([], [0x3000], 5, 9, 1) := by
  decide +kernel
def sTest (u : TestUnit) (pass : Bool) (spares : List TestUnit := []) : State := { one { thr [] with status := .parked .selfTest } {} {} { mchks := [{ kind := 1, addr := 5, core := 0 }] } with
  lodge := { testing := [u], spares := spares }, ev := { unit := some u, pass := pass } }
theorem test_self_test : left (exec .selfTestComplete (sTest (.core 0) true)) (fun t => (t.cur.status, (t.domain 0).mchks.map (fun m => m.cls), t.lodge.testing)) = some (.running, [1], [])
    ∧ left (exec .selfTestComplete (sTest (.core 0) false)) (fun t => ((t.core 0).contained, t.lodge.spares)) = some (false, [.core 0])
    ∧ left (exec .selfTestComplete (sTest (.core 0) false [.core 0])) (fun t => ((t.core 0).contained, t.lodge.fencedCores)) = some (true, [0])
    ∧ left (exec .selfTestComplete (sTest (.link (.faleus 3 true)) false)) (fun t => (t.portsSpare, t.portsSpareIn)) = some (0, 8) := by decide +kernel
theorem hyps_self_test : let s := sTest (.core 0) false [.core 0]
    .core 0 ∈ s.lodge.testing ∧ .core 1 ∉ s.lodge.testing ∧ .core 0 ∈ s.lodge.spares ∧ .core 0 ∉ (sTest (.core 0) false).lodge.spares
    ∧ ((((s.modLodge (fun l => { l with testing := l.testing.erase (.core 0) })).unitTested (.core 0)).classify (.core 0) 3).fenceCore 0).needs = s.needs
    ∧ ((sTest (.memory .scratch 8) false).lodge.spares.filter (TestUnit.memory .scratch 8).shares).length < 8 ∧ s.portsSpareIn.getLsbD 3 = false := by decide +kernel

/-! Snapshots (R353 to R369): the snapshot area is at 0 of HBM: ENABLE, room, SEQ, and one directory entry (id 7) when `st` is not 0. -/
def area (on room seq st : Nat) : Store := ((((((mem 4 4 on).write 8 8 room).write 16 8 1).write 24 8 seq).write 80 4 7).write 84 1 st).write 88 8 5
def snap (ph : SnapPhase := .recording) : Snap := { id := 7, seq := 1, full := true, cut := {}, job := 0, man := 5, phase := ph, armed := [0] }
def sSnap (m : Store) (d : Domain := {}) : State := { one (thr [(1, cap 7 [permY])]) {} { tlb := [page0] } d with hbm := m }
theorem hyps_snap : let s := sSnap (area 1 500 0 0)
    s.Plain ∧ s.Drained ∧ (s.reg 1).tag = true ∧ (s.reg 1).has permY = true ∧ (s.reg 1).base ≤ (s.reg 1).addr ∧ (s.reg 1).addr < (s.reg 1).top ∧ s.domainOfCore 0 = some 0
    ∧ (s.domain 0).snap = none ∧ s.snapHeader 0 4 4 % 2 = 1 ∧ s.snapHeader 0 16 8 + 64 ≤ s.snapHeader 0 8 8 ∧ (s.cluster 0).queue = []
    ∧ (sSnap (area 0 500 0 0)).snapHeader 0 4 4 % 2 = 0 ∧ (sSnap (area 1 64 0 0)).snapHeader 0 8 8 < 65
    ∧ s.directory 0 7 (fun _ => true) = none ∧ s.rollbackTo 0 7 = none := by decide +kernel
theorem hyps_snap_idle : (∀ c, ((sSnap (area 1 500 0 0)).core c).mrun = none)
    ∧ (∀ u, ((sSnap (area 1 500 0 0)).thread u).rx = [] ∧ ((sSnap (area 1 500 0 0)).thread u).dup = false)
    ∧ ∀ x, ((sSnap (area 1 500 0 0)).cluster x).snoop = [] ∧ ((sSnap (area 1 500 0 0)).cluster x).atsOn = false := by
  refine ⟨?_, ?_, ?_⟩
  · intro c
    simp only [sSnap, one, State.core, Map.get]
    split <;> simp
  · intro u
    simp only [sSnap, one, State.thread, Map.get]
    split <;> simp [thr]
  · intro x
    simp only [sSnap, one, State.cluster, Map.get]
    split <;> exact ⟨rfl, rfl⟩
theorem test_snap : left (exec (.snap 9 1 true) (sSnap (area 1 500 0 0))) (fun t => (t.reg 9, (t.domain 0).snap.map (fun x => (x.id, x.seq)), t.hbm.read 24 8)) = some (num (2 ^ 32), some (7, 1), 1) := by
  decide +kernel
theorem test_snap_statuses : left (exec (.snap 9 1 false) (sSnap (area 1 64 0 0))) (fun t => t.reg 9) = some (num 2)
    ∧ left (exec (.snap 9 1 false) (sSnap (area 1 500 0 0) { snap := some (snap .sweeping) })) (fun t => t.reg 9) = some (num 1) := by decide +kernel
theorem test_snpw : left (exec (.snpw 9 1) (sSnap {} { snap := some (snap .complete) })) (fun t => t.reg 9) = some (num (2 ^ 32))
    ∧ left (exec (.snpw 9 1) (sSnap {} { snap := some (snap .aborted) })) (fun t => (t.cur.causeCode, t.cur.tval)) = some (0x13, 7)
    ∧ left (exec (.snpw 9 1) (sSnap {} { snap := some (snap .loc) })) (fun t => t.cur.status) = some (.parked (.snapDone 9 7))
    ∧ left (exec (.snpq 9 1) (sSnap {} { snap := some (snap .loc) })) (fun t => t.reg 9) = some (num (7 * 2 ^ 32 + 3 * 2 ^ 25 + 2 ^ 14 + 17)) := by decide +kernel
def sBack : State := { sSnap (area 1 500 1 2) { manifests := [{ snap .complete with image := { scratch := mem 16 1 9 } }] } with
  scratch := mem 16 1 4, threads := [(0, thr [(1, cap 7 [permY])]), (1, thr [])] }
theorem hyps_rollback : (sBack.rollbackTo 0 7).map (fun x => (x.man, x.pages, x.log.length, x.image == { scratch := mem 16 1 9 })) = some (5, [], 0, true) ∧ (mem 16 1 9).wf ∧ sBack.portsUp = 0
    ∧ sBack.domains.length = 1
    ∧ (sBack.rollbackTo 0 7).map (fun x => (x.image.threads.length, x.image.queues.length)) = some (0, 0) ∧ sBack.turn.slot < 16 ∧ sBack.cur.dup = false
    ∧ (∀ e ∈ sBack.clusters, e.2.snoop = [] ∧ e.2.atsOn = false) := by decide +kernel
theorem test_rollback : left (exec (.rbck 9 1) sBack) (fun t => (t.reg 9, t.scratch.byte 16, (t.thread ⟨0, 1⟩).status)) = some (num 0, 9, .idle) := by decide +kernel
/-- Events of a snapshot: two clusters for the marker, one for the rest. -/
def sMark : State := { one (thr []) {} { tlb := [page0] } { cols := 2, snap := some { snap with armed := [0, 1] } } with hbm := area 1 500 1 0, ev := { endpoint := 0, channel := 8, id := 7 } }
theorem hyps_marker : sMark.jobOf 0 = some 0 ∧ 8 ∈ sMark.channelsTo 0 0 ∧ (sMark.markerFrom 0 7 1).isSome = true ∧ sMark.aheadOfMarker 1 0 0 = false ∧ sMark.domainOf 0 = some 0
    ∧ (snap.heard.contains (0, 8)) = false ∧ (snap.runs) = true
    ∧ NatSet.has [0, 1] 0 = true ∧ (0 : Nat) < 0x4000 := by decide +kernel
theorem test_marker : left (exec .snapshotMarker sMark) (fun t => (t.domain 0).snap.map (fun x => x.heard)) = some (some [(0, 8)]) := by decide +kernel
def sSweep (x : Snap) (e : EventArgs := {}) : State := { sSnap (area 1 500 1 0) { ptroot := 0x8000, snap := some x } with ev := e }
/-- Every endpoint has heard the marker on all its channels. -/
def heard : Snap := { snap with heard := ((sSweep snap).channelsTo 0 0).map (fun ch => (0, ch)) }
def sHeard : State := { sSweep { heard with swept := true } with
  portSnaps := (List.range 16).map (fun p => { port := p, job := 0, id := 7, full := true, heard := (sSweep snap).channelsTo 0 (0x4000 + p) }) }
theorem hyps_sweep : (sSweep snap).leaves 0 = [] ∧ NatSet.has snap.armed (((sSweep snap).domain 0).clusterAt 0) = true
    ∧ (∀ ep ∈ sHeard.endpoints 0, sHeard.endpointDone { heard with swept := true } ep = true)
    ∧ ∀ x ∈ (sSweep (snap .loc)).childrenOf 0 (snap .loc), NatSet.has (snap .loc).reported x = true := by decide +kernel
theorem test_sweep : left (exec .snapshotSweep (sSweep snap)) (fun t => (t.domain 0).snap.map (fun x => x.swept)) = some (some true)
    ∧ left (exec .snapshotSweep sHeard) (fun t => (t.domain 0).snap.map (fun x => x.phase)) = some (some .loc)
    ∧ left (exec .snapshotCompletionNotice (sSweep (snap .loc))) (fun t => (t.domain 0).snap.map (fun x => x.phase)) = some (some .complete)
    ∧ left (exec .snapshotAbortNotice (sSweep snap)) (fun t => (t.domain 0).snap.map (fun x => x.phase)) = some (some .aborted) := by decide +kernel
def sReport : State := sSweep { snap with children := [2 ^ 16 + 3] } { child := 2 ^ 16 + 3 }
theorem hyps_report : (2 ^ 16 + 3) ∈ sReport.childrenOf 0 { snap with children := [2 ^ 16 + 3] } ∧ sReport.ev.own = false := by decide +kernel
theorem test_report : left (exec .snapshotCompletionReport sReport) (fun t => (t.domain 0).snap.map (fun x => x.reported)) = some (some [2 ^ 16 + 3]) := by decide +kernel
def sSegs : State := { sSweep { snap with segs := [(0, [1])] } { seg := 1 } with scratch := mem 520 1 9 }
theorem hyps_segment : NatSet.has (Map.get [] ({ snap with segs := [(0, [1])] } : Snap).segs 0) 1 = true ∧ sSegs.scratch.wf ∧ ∀ i < 512, snap.image.scratch.byte (512 + i) = 0 := by decide +kernel
theorem test_segment : left (exec .scratchSegmentCopy sSegs) (fun t => (t.domain 0).snap.map (fun x => (Map.get [] x.segs 0, x.image.scratch.byte 520))) = some (some ([], 9)) := by decide +kernel
def pre : L1Line := { data := 0xAABB, valid := 3, dirty := 1, writers := 1, pre := true }
def sPre : State := { one (thr []) { l1 := [(2 ^ 25, pre)] } { tlb := [leaf] } with hbm := (mem 1 1 0x20).write 0x2000 8 0x77 }
theorem hyps_pre : (sPre.core 0).l1 = [(2 ^ 25, pre)] ∧ (sPre.core 0).wbq = [] ∧ sPre.domainOfCore 0 = some 0 ∧ sPre.hbm.wf ∧ (sPre.domain 0).snap = none
    ∧ (match locate sPre 0 0 (2 ^ 31) { w := true } true with
      | .at l e => l.space == .hbm && l.home == 0 && e.dom == 0 && pteDss (BitVec.ofNat 64 (sPre.hbm.read e.pteAddr 8))
      | _ => false) = true ∧ (sPre.cluster 0).snoop = [] ∧ (sPre.cluster 0).lines = []
    ∧ (sPre.cluster 0).lineQueue = [] ∧ (sPre.cluster 0).faults = [] ∧ (sPre.cluster 0).retryWbs = [] ∧ pre.poison = 0 ∧ pre.dirty ≠ 0 ∧ sPre.hbm.poison = [] := by decide +kernel
theorem test_pre : left (exec .preWriteBack sPre) (fun t => (t.hbm.read 0x2000 8, (t.core 0).l1.map (fun e => (e.2.dirty, e.2.pre)))) = some (0xBB, [(0, false)]) := by decide +kernel

/-! HostAndFabric (R373 to R385): a module that has been brought up, with one domain of cluster 0. -/
def up : Lodge := { boot := 1 }
def sHost (e : EventArgs) (k : Cluster := {}) (d : Domain := {}) : State := { one (thr []) {} k d with lodge := up, ev := e }
def packet : EventArgs := { bytes := List.replicate 63 0 ++ [7] }
theorem hyps_bar : (sHost {}).lodge.boot = 1 ∧ (sHost {}).windowOf 0 = some 0 ∧ packet.bytes.length = 64 ∧ packet.offset < 0x800 ∧ packet.offset % 64 = 0 ∧ packet.bytes ≠ []
    ∧ ((sHost {}).domain 0).ingress.length < 64 ∧ 64 ≤ (List.replicate 64 ({} : TaskRec)).length ∧ ({ bytes := [0] } : EventArgs).bytes.length % 64 ≠ 0
    ∧ State.reset.lodge.boot ≠ 1
    ∧ ({ boot := 0, k := 4 } : Lodge).boot = 0 ∧ ({ boot := 0, waking := true, step := 3 } : Lodge).waking = true ∧ ({ boot := 1, k := 3 } : Lodge).boot = 1 := by decide +kernel
theorem test_bar : left (exec .barRegisterWrite (sHost { value := 5 })) (fun t => t.devnum) = some 5 ∧ left (exec .barRegisterWrite (sHost { offset := 8, value := 7 <<< 52 })) (fun t => t.fabbase) = some 7 := by
  decide +kernel
theorem test_bar_held : left (exec .barRegisterWrite { sHost { value := 5 } with lodge := { k := 4 } }) (fun t => (t.devnum, t.held.length)) = some (0, 1)
    ∧ left (exec .barRegisterWrite { sHost { value := 5 } with lodge := { boot := 2 } }) (fun t => (t.devnum, t.held.length)) = some (0, 0) := by decide +kernel
theorem test_ingress_write : left (exec .ingressRecordWrite (sHost packet)) (fun t => (t.domain 0).ingress.map (fun r => r.bytes.toNat)) = some [7 * 256 ^ 63]
    ∧ left (exec .ingressRecordWrite (sHost { bytes := [0] })) (fun t => ((t.domain 0).partials, (t.domain 0).partialSticky)) = some (1, true)
    ∧ left (exec .ingressRecordWrite (sHost packet {} { ingress := List.replicate 64 {} })) (fun t => (t.domain 0).dropped) = some 1 := by decide +kernel
def record (w2 : Nat) : TaskRec := { bytes := BitVec.ofNat 512 (9 + w2 * 2 ^ 64) }
theorem hyps_ingress_enqueue : (record 0).tooWide = false ∧ ((sHost {} {} { ingress := [record 0] }).domain 0).ingressHead = none
    ∧ ((sHost {} {} { ingress := [record 0] }).tiebreak 0 0 0).isSome = true ∧ (sHost {} { ctr := BitVec.ofNat 54 (2 ^ 54 - 1) }).tiebreak 0 0 0 = none := by decide +kernel
theorem test_ingress_enqueue : left (exec .ingressEnqueue (sHost {} {} { ingress := [record 0] })) (fun t => (t.cluster 0).flying.map (fun g => g.vt)) = some [⟨9, 1024⟩]
    ∧ left (exec .ingressEnqueue (sHost {} { ctr := BitVec.ofNat 54 (2 ^ 54 - 1) } { ingress := [record 0] })) (fun t => ((t.domain 0).exhausted, (t.domain 0).ingress)) = some (1, []) := by decide +kernel
def ats : AtsEntry := { pasid := 0, va := 0x4000, size := 4096, hpa := 0x9000, r := true, w := true, x := false }
def sAts : State := { sHost { e := some ats } { asked := [(0, 0x4000)] } with threads := [(0, { thr [] with status := .parked .ats })] }
theorem hyps_ats : ats.size ≤ 2 ^ 30 ∧ ats.va ≤ 0x4000 ∧ 0x4000 < ats.va + ats.size ∧ (sAts.cluster 0).asked = [(ats.pasid, 0x4000)] ∧ (sAts.thread ⟨0, 0⟩).status = .parked .ats
    ∧ (sAts.thread ⟨0, 0⟩).inFrame = false := by decide +kernel
theorem test_ats : left (exec .translationCompletion sAts) (fun t => ((t.cluster 0).asked, (t.cluster 0).ats, t.cur.status)) = some ([], [ats], .running)
    ∧ left (exec .atsInvalidationRequest (sHost { va := 0x4000, size := 4096 } { ats := [ats] })) (fun t => ((t.cluster 0).ats, t.hostOut)) = some ([], [.invalidationCompletion 0 0x4000 4096]) := by decide +kernel
/-- An access of another module at the invalidated range is under way. -/
def fabricReq : Req := { farLoad with x := 0x4010 }
def sInvalid : State := { sHost { va := 0x4000, size := 4096 } with threads := [(0, { thr [] with status := .parked (.fabric fabricReq 3 0x10) })] }
theorem hyps_invalidation : (sHost {}).invalidations = [] ∧ (tkey ⟨0, 0⟩, sInvalid.thread ⟨0, 0⟩) ∈ sInvalid.threads
    ∧ (sInvalid.thread ⟨0, 0⟩).wait.bind Wait.translatedVa = some 0x4010 ∧ clusterOf 0 ∈ sInvalid.pasidClusters 0
    ∧ (∀ b ∈ (sHost {}).threads, b.2.wait.bind Wait.translatedVa = none) ∧ (∀ b ∈ (sHost {}).cores, b.2.fills = [] ∧ b.2.inflight.map (fun q => q.2.asked) = []) := by
  decide +kernel
theorem hyps_invalidation_idle : ∀ k, ((sHost {}).cluster k).hostReqs = [] ∧ ((sHost {}).cluster k).peerReqs = [] := by
  intro k
  simp only [sHost, one, State.cluster, Map.get]
  split <;> simp
theorem test_invalidation_waits : left (exec .atsInvalidationRequest sInvalid) (fun t => t.hostOut) = some [] := by decide +kernel
def pri : FaultEntry := { page := 4096, size := 4096, dom := 0, core := 0, slot := 0, kind := 0, reason := 0, ats := true, posted := true }
theorem test_pri : left (exec .priSuccess (sHost {} { faults := [(0, pri)] })) (fun t => (t.cluster 0).faults) = some []
    ∧ left (exec .priResponseFailure (sHost {} { faults := [(0, pri)] })) (fun t => ((t.cluster 0).priStopped, (t.cluster 0).faults.map (fun f => (f.2.ats, f.2.reason)))) = some (true, [(false, 2)]) := by
  decide +kernel
theorem test_host_completion : left (exec .hostCompletion (sHost { data := some 5, exclusive := true } { hostReqs := [.shared 3] })) (fun t => (t.host.byte 192, (t.cluster 0).hostLines)) = some (5, [(3, .e)]) := by
  decide +kernel
def wb : WriteBack := { line := 0, l := { data := 6, valid := BitVec.allOnes 64, dirty := BitVec.allOnes 64 } }
theorem test_host_write : left (exec .hostCompletion (sHost { data := some 5 } { hostReqs := [.write 0 wb (64 * 3)] })) (fun t => (t.host.byte 192, (t.cluster 0).hostReqs)) = some (6, [])
    ∧ wb.l.dirty = BitVec.allOnes 64 ∧ (sHost {}).host.wf := by decide +kernel
theorem test_snoops : left (exec .snpData (sHost { line := 3 } { hostLines := [(3, .e)] })) (fun t => ((t.cluster 0).hostLines, t.hostOut)) = some ([(3, .s)], [.snoopAnswer 3 true])
    ∧ left (exec .snpInv (sHost { line := 3 } { hostLines := [(3, .e)] })) (fun t => (t.cluster 0).hostLines) = some [] := by decide +kernel
/-- HostAccesses: a line with no speculative access, one that a task has written, and a snoop filter that knows the line. -/
def noted : LineRec := { readers := [⟨⟨5, 0⟩, ⟨0, 3, 0⟩⟩], va := 640 }
def sOutside (e : EventArgs) (ls : Map LineRec := []) (k : Cluster := {}) : State := { sHost e { k with lines := ls, queue := [(3, entry)] } with hbm := mem 0x2000 8 0x1122 }
theorem hyps_outside : (sOutside { addr := 0x2000 }).lodge.boot = 1 ∧ 0x2000 < hbmTop ∧ ((sOutside {}).fhomeOf 0x2000).1 = 2
    ∧ NatSet.has ((sOutside {}).cluster 2).biWait (0x2000 / 64) = false ∧ ((sOutside {}).cluster 2).snoop.length < 32768 ∧ (sOutside {}).outsideVictims 2 0x2000 = [] ∧ (sOutside {}).hbm.wf
    ∧ (sOutside {}).leafOf 0x2000 = none ∧ (sOutside {} [(lineKey { space := .hbm, addr := 0, home := 0 }, noted)]).outsideVictims 0 0 = [⟨0, 3, 0⟩]
    ∧ ((sOutside {}).fhomeOf 0x2000).2 = false := by decide +kernel
theorem test_host_memory : left (exec .hostMemRead (sOutside { addr := 0x2004 })) (fun t => (t.hostOut.map (fun m => m == .memData 0x2000 0x1122 0), Map.find (t.cluster 2).snoop 128)) = some ([true], some .s)
    ∧ left (exec .hostMemWrite (sOutside { addr := 0x2001, bytes := [9, 8] })) (fun t => t.hbm.read 0x2000 8) = some 0x080922
    ∧ left (exec .hostMemWrite (sOutside { addr := 8, bytes := [9] } [(lineKey { space := .hbm, addr := 0, home := 0 }, noted)])) (fun t => (t.hbm.byte 8, (t.cluster 0).aborts.length, (Map.find (t.cluster 0).queue 3).map (fun q => (q.st, q.run)))) = some (9, 0, some (.queued, 1)) := by
  decide +kernel
theorem test_back_invalidate : left (exec .backInvalidateResponse (sOutside { line := 5 } [] { biWait := [5], snoop := [(5, .e)] })) (fun t => ((t.cluster 0).snoop, (t.cluster 0).biWait)) = some ([], [])
    ∧ left (exec .backInvalidateResponse (sOutside { line := 128, data := some 3 } [] { biWait := [128], snoop := [(128, .e)] })) (fun t => t.hbm.read 0x2000 8) = some 3 := by decide +kernel
theorem hyps_back_invalidate : ((sOutside {} [] { biWait := [5] }).clusters.find? (fun b => NatSet.has b.2.biWait 5)).map Prod.fst = some 0 ∧ ((sOutside {}).cluster 2).lines = [] := by decide +kernel
/-- FHOME at 0x1000, with the entry of page 2 valid for peers at cluster 3. -/
def sPeer (e : EventArgs) : State := { sOutside e with fhome := 1, hbm := (mem 0x2000 8 0x1122).write 0x1004 2 0xC003, domains := [], barWritten := 7 }
theorem hyps_peer : ((sPeer {}).fhomeOf 0x2000) = (3, true) ∧ Map.find ((sPeer {}).cluster 3).snoop 128 = none ∧ (sPeer {}).committed 3 0x2000 = none ∧ (sPeer {}).outsideVictims 3 0x2000 = [] := by decide +kernel
theorem hyps_peer_off : (sOutside {}).barWritten ≠ 7 ∧ left (exec .peerAccess (sOutside { addr := 0x2000, op := some (.read 2) })) (fun t => t.hostOut) = some [] := by decide +kernel
theorem test_peer : left (exec .peerAccess (sPeer { addr := 0x2000, op := some (.read 2) })) (fun t => t.hostOut.map (fun m => m == .peerReply 0 0x1122 0)) = some [true]
    ∧ left (exec .peerAccess (sPeer { addr := 0x2000, op := some (.write [9] .data) })) (fun t => t.hbm.read 0x2000 2) = some 0x1109
    ∧ left (exec .peerAccess { sOutside { addr := 0x2000, op := some (.read 2) } with barWritten := 7 }) (fun t => t.hostOut.map (fun m => m == .peerReply 1 0 0)) = some [true] := by decide +kernel
theorem test_peer_full_empty : left (exec .peerAccess (sPeer { addr := 0x2000, op := some (.access (.lde 5) {}) })) (fun t => t.hostOut.map (fun m => m == .peerReply 2 0 0)) = some [true]
    ∧ (MemOp.lde 5).needsFullBit = true := by decide +kernel
theorem find_of_range {α : Type} (v : α) (n a j : Nat) : Map.find ((List.range' a n).map (fun k => (k, v))) j = if a ≤ j ∧ j < a + n then some v else none := by
  induction n generalizing a with
  | zero =>
    have e : ¬(a ≤ j ∧ j < a + 0) := by omega
    simp only [List.range'_zero, List.map_nil, Map.find, e, if_false]
  | succ n ih =>
    simp only [List.range'_succ, List.map_cons, Map.find, ih]
    by_cases h : j = a
    · rw [if_pos h, if_pos (by omega)]
    · have e : (a ≤ j ∧ j < a + (n + 1)) ↔ (a + 1 ≤ j ∧ j < a + 1 + n) := by omega
      rw [if_neg h]
      simp only [e]
/-- A full snoop filter, whose oldest line is 1000. -/
def fullFilter : Cluster := { snoop := (List.range' 1000 32768).map (fun k => (k, Mesi.s)), snoopOld := List.range' 1000 32768 }
theorem hyps_full_filter : Map.find fullFilter.snoop (0x2000 / 64) = none ∧ 32768 ≤ fullFilter.snoop.length ∧ fullFilter.snoopOld = 1000 :: List.range' 1001 32767
    ∧ NatSet.has fullFilter.biWait 1000 = false := by
  refine ⟨?_, ?_, ?_, rfl⟩
  · show Map.find ((List.range' 1000 32768).map (fun k => (k, Mesi.s))) (0x2000 / 64) = none
    rw [find_of_range, if_neg (by omega)]
  · simp [fullFilter]
  · show List.range' 1000 (32767 + 1) = _
    exact List.range'_succ ..
theorem test_lanes : left (exec .linkLaneFailure (sHost { port := 3 })) (fun t => (t.portsSpare, t.portsSpareIn, t.portsFenced)) = some (8, 0, 0)
    ∧ left (exec .linkLaneFailure { sHost { port := 3, inbound := true } with portsSpare := 8 }) (fun t => (t.portsSpare, t.portsSpareIn, t.portsFenced)) = some (8, 8, 0)
    ∧ left (exec .linkLaneFailure { sHost { port := 3 } with portsSpare := 8 }) (fun t => (t.portsSpare, t.portsFenced)) = some (8, 8)
    ∧ (({ sHost { port := 3 } with portsSpare := 8 } : State).fenceLink 3).needs = [] := by decide +kernel
def pk (n : Nat) : FlowPacket := { src := 1, dst := 2, plane := 3, seq := n, payload := [] }
def sFlow (n : Nat) (b : List FlowPacket := []) : State := { sHost { p := some (pk n) } with reorder := b }
theorem hyps_flow : flowPlane 3 = true ∧ (sFlow 0).flowNext (pk 0) = 0 ∧ pk 0 ∉ [pk 1] ∧ (pk 1).sameFlow (pk 0) = true ∧ (pk 2).seq < 32
    ∧ 32 ≤ (((List.range 32).map (fun i => pk (i + 3))).filter (fun b => b.dst == 2 && b.plane == 3)).length := by decide +kernel
theorem test_flow : left (exec .flowPacketArrival (sFlow 0 [pk 1])) (fun t => (t.delivered.map (fun p => p.seq), t.reorder.length)) = some ([0, 1], 0)
    ∧ left (exec .flowPacketArrival (sFlow 2)) (fun t => (t.delivered.length, t.reorder.map (fun p => p.seq))) = some (0, [2])
    ∧ left (exec .escapeTimeout (sFlow 2)) (fun t => t.escaped.length) = some 1 := by decide +kernel
/-- A packet for module 5, whose route byte names port 3 and the escape port 2 × 1. -/
def sTransit (b : List FlowPacket := []) : State := { sHost { p := some { pk 0 with dev := some 5 } } with barWritten := 7, hbm := mem 5 1 0x93, escaped := b }
theorem hyps_transit : ((sTransit).hbm.byte ((sTransit).routeT.toNat * 4096 + 5)).toNat = 0x93 ∧ (5 : Nat) ≠ (sTransit).devnum.toNat ∧ (sTransit).portsFenced.getLsbD 3 = false
    ∧ (sTransit).portsFenced.getLsbD 2 = false ∧ (sTransit).flowNext (pk 0) ≤ (pk 0).seq ∧ ({ pk 0 with dev := some 5 } : FlowPacket) ∈ (sTransit [{ pk 0 with dev := some 5 }]).escaped := by decide +kernel
theorem test_transit : left (exec .flowPacketArrival sTransit) (fun t => t.hostOut) = some [.forward 3 1 2 5 3 0 false]
    ∧ left (exec .flowPacketArrival (sTransit [{ pk 0 with dev := some 5 }])) (fun t => t.hostOut) = some [.forward 2 1 2 5 3 0 true] := by decide +kernel

/-! PowerAndThermal (R387 to R391). -/
theorem test_th : left (exec .thWrite (sHost { value := 0x5F5A })) (fun t => t.lodge.th) = some 0x5F5A ∧ left (exec .thWrite (sHost { value := 0x5D5A })) (fun t => t.lodge.th) = some 0x695F := by decide +kernel
def sPower (l : Nat) (e : EventArgs) : State := { sHost e with lattol := BitVec.ofNat 64 l }
theorem hyps_power : (sPower 0 {}).lodge.boot = 1 ∧ (sPower 0 {}).lodge.k ≠ 4 ∧ (sPower 0 {}).mayK3 1000 = true ∧ (sPower 0 {}).clusterIdle 5 = true ∧ (sPower 0 {}).domainOf 5 = none
    ∧ (sPower 150000000 {}).lattol.toNat % 2 ^ 32 = 150000000 ∧ ({ sPower 0 {} with lodge := { boot := 0, k := 4 } } : State).lodge.step = 0 := by decide +kernel
theorem test_power_states : left (exec .powerStateEvaluate { sPower 2000000 { quietUs := 1000 } with threads := [] }) (fun t => t.lodge.k) = some 3
    ∧ left (exec .powerStateEvaluate (sPower 1999 {})) (fun t => t.lodge.k) = some 0
    ∧ left (exec .powerStateEvaluate { sPower 150000000 {} with domains := [] }) (fun t => (t.lodge.k, t.lodge.boot, t.cores)) = some (4, 0, []) := by decide +kernel
theorem test_k1 : left (exec .powerStateEvaluate (sPower 2000 { quietUs := 10 })) (fun t => (t.lodge.k, t.lodge.clockGated.length)) = some (1, 1023) := by decide +kernel
theorem test_wake_event : left (exec .wakeEvent { sHost {} with lodge := { boot := 1, k := 3 } }) (fun t => t.lodge.k) = some 0
    ∧ left (exec .wakeEvent { sHost {} with lodge := { boot := 0, k := 4 } }) (fun t => (t.lodge.resuming, t.lodge.step)) = some (true, 1) := by decide +kernel
def sLeaving (e : EventArgs) : State := { sHost e with lodge := { boot := 0, waking := true, step := 3 } }
theorem test_wakes : left (exec .lattolWrite (sLeaving { value := 5 })) (fun t => (t.lattol, t.held.length)) = some (0, 1)
    ∧ left (exec .lattolWrite { sHost { value := 5 } with lodge := { boot := 0, k := 4 } }) (fun t => (t.lattol, t.held.length, t.lodge.step)) = some (0, 1, 1)
    ∧ left (exec .hostMemWrite (sLeaving { addr := 8, bytes := [9] })) (fun t => (t.hbm.byte 8, t.held.length)) = some (0, 1)
    ∧ left (exec .snpInv { sHost { line := 3 } with lodge := { boot := 1, k := 3 } }) (fun t => t.lodge.k) = some 0
    ∧ ({ sHost { quietUs := 5, idle := [(7, 200)] } with lattol := 40000 } : State).idleUs 7 5 = 200 := by decide +kernel
theorem test_power_window : left (exec .powerWindow (sHost { milliwatts := 2800001, dutyPercent := 75, utilPercent := 75 })) (fun t => t.lodge.limiting) = some true
    ∧ left (exec .powerWindow { sHost { milliwatts := 2700000 } with lodge := { boot := 1, limiting := true } }) (fun t => t.lodge.limiting) = some true := by decide +kernel
/-- Cluster 0 above TH1, with one live thread, and every other slot disabled. -/
def off : Thread := { status := .disabled }
def hot (h : Thread) : State := { one {} with
  threads := (0, h) :: (List.range' 1 1023).map (fun k => (k, off))
  clusters := [(0, { queue := [(3, entry)] })], domains := [(0, { cols := 2, round := some ⟨some ⟨1, 0⟩, none, 0, [], [], false, false⟩ })]
  lodge := { boot := 1, temps := [(0, 1600)] } }
theorem get_of_range (v : Thread) (n a j : Nat) : Map.get {} ((List.range' a n).map (fun k => (k, v))) j = if a ≤ j ∧ j < a + n then v else {} := by
  induction n generalizing a with
  | zero =>
    have e : ¬(a ≤ j ∧ j < a + 0) := by omega
    simp only [List.range'_zero, List.map_nil, Map.get, e, if_false]
  | succ n ih =>
    simp only [List.range'_succ, List.map_cons, Map.get, ih]
    by_cases h : j = a
    · rw [if_pos h, if_pos (by omega)]
    · have e : (a ≤ j ∧ j < a + (n + 1)) ↔ (a + 1 ≤ j ∧ j < a + 1 + n) := by omega
      rw [if_neg h]
      simp only [e]
def worker : Thread := { thr [(1, num 5)] with task := some ⟨0, 3, 0⟩, domain := some 0, gsiz := 1, vt := ⟨5, 0⟩ }
theorem hyps_slot_disable : (hot worker).lodge.th1 < (hot worker).lodge.temp 0 ∧ (hot worker).gangWaits 0 = false ∧ (hot worker).mayDisable ⟨0, 0⟩ = true
    ∧ ((hot worker).core 0).ops = [] ∧ (hot worker).cur.spec = false ∧ (hot worker).cur.dup = false
    ∧ (hot worker).cur.rx = [] ∧ (hot worker).cur.domain = some 0 ∧ (hot worker).cur.trail = none ∧ ((hot worker).core 0).preempted = false ∧ ((hot worker).core 0).l1 = []
    ∧ ((hot worker).core 0).wbq = [] ∧ (∀ b ∈ (hot worker).clusters, b.2.lineQueue = [] ∧ b.2.hostReqs = [] ∧ b.2.peerReqs = []) ∧ (hot worker).cur.cmdsOut = 0
    ∧ (hot worker).cur.frame = none ∧ (hot worker).cur.lihhNow = none ∧ (hot worker).cur.getr = none ∧ (hot worker).cur.blockBuf = [] ∧ (hot worker).cur.past = false
    ∧ (hot worker).cur.status = .running
    ∧ (hot worker).owed 0 = [] ∧ ((hot worker).core 0).quiescing = false := by decide +kernel
theorem hyps_slots_disabled : ∀ i < 64, ∀ j < 15, (⟨0 + i, j⟩ : Tid) ≠ ⟨0, 0⟩ → ((hot worker).thread ⟨0 + i, j⟩).status = .disabled := by
  intro i hi j hj h
  have h0 : ¬(i * 16 + j = 0) := fun e => h (by simp only [Tid.mk.injEq]; omega)
  have h1 : 1 ≤ i * 16 + j ∧ i * 16 + j < 1 + 1023 := by omega
  simp only [State.thread, hot, tkey, Nat.zero_add, Map.get, h0, get_of_range, h1, and_self, if_true, if_false, off]
theorem test_slot_disable_idle : left (exec .slotDisable { hot {} with threads := [] }) (fun t => t.cur.status) = some .disabled := by decide +kernel
/-- A task of width 1 that no slot has room for is marked: core 0 has no slot but one live one, and the other cores are pre-empted. -/
def waits : State := { hot worker with
  threads := (0, worker) :: (List.range' 1 14).map (fun k => (k, off))
  cores := (List.range' 1 63).map (fun k => (k, { preempted := true }))
  clusters := [(0, { queue := [(3, entry), (4, { entry with spec := false, st := .queued, threads := [], vt := ⟨1, 0⟩ })] })] }
theorem hyps_gang_waits : waits.gangWaits 0 = true ∧ waits.roomless 0 = [4] ∧ waits.lodge.th1 < waits.lodge.temp 0 := by decide +kernel
theorem test_marks_room : left (exec .slotDisable waits) (fun t => (t.cluster 0).queue.map (fun e => (e.1, e.2.roomed))) = some [(3, false), (4, true)] := by decide +kernel
theorem test_slot_enable : left (exec .slotEnable { one { status := .disabled } with ev := {} }) (fun t => t.cur.status) = some .idle := by decide +kernel
theorem test_context : left (exec .contextMessageArrival { one {} {} { contexts := [worker] } with threads := [] }) (fun t => (t.cur.reg 1, t.cur.status, (t.cluster 0).contexts.length)) = some (num 5, .running, 0) := by
  decide +kernel
theorem hyps_context_message : (one {} {} { contexts := [worker] }).freeSlots 0 0 worker.dup ≠ []
    ∧ (∃ i < 64, (one {} {} { contexts := [worker] }).freeSlots 0 i worker.dup ≠ []) ∧ worker.domain = some 0 ∧ (one {} {} { contexts := [worker] }).contextRoom 0 0 worker = true
    ∧ worker.status = .running := by decide +kernel
theorem test_thermal : left (exec .thermalReading (sHost { temps := [(0, 1840)] })) (fun t => (t.lodge.boot, t.lodge.k, t.threads.length)) = some (3, 4, 0)
    ∧ left (exec .thermalReading (sHost { temps := [(0, 1500)] })) (fun t => t.lodge.temps) = some [(0, 1500)]
    ∧ left (exec .thermalReading (sHost { temps := [(0, 1840)] })) (fun t => t.lodge.log == [.trip 0 1840]) = some true
    ∧ (1500 : Int) ≤ up.th2 ∧ up.th2 < 1700 ∧ up.temps = [] := by decide +kernel
theorem hyps_all_idle : ∀ i < 64, ∀ j < 15, (({ sHost {} with threads := [] } : State).thread ⟨64 * 0 + i, j⟩).status = .idle := fun _ _ _ _ => rfl

/-! The queue of a line (R150): who is served keeps its place before those that wait behind it, and they wait for it. -/
def lineOf : Loc := { space := .hbm, addr := 64, home := 0 }
def queued (st : Status) : State :=
  let waits : Status := .parked (.home { op := .load 5 8 true, x := 64, base := 1, permD := true })
  { one { thr with status := st } {} { lineQueue := [{ key := lineKey lineOf, by_ := .thread ⟨0, 0⟩ }, { key := lineKey lineOf, by_ := .thread ⟨0, 1⟩ }] } with
    threads := [(0, { thr with status := st }), (1, { thr with status := waits })] }
theorem test_line_queue : (queued .running).firstAt lineOf (.thread ⟨0, 0⟩) = true
    ∧ (queued (.parked (.home { op := .load 5 8 true, x := 64, base := 1, permD := true }))).firstAt lineOf (.thread ⟨0, 1⟩) = false := by decide

/-! BringUp (R392 to R394). -/
def sBoot (n : Nat) (e : EventArgs := {}) (l : Lodge := {}) : State := { ({} : State) with lodge := { l with on := true, step := n }, ev := e, hbm := mem 0 1 5 }
theorem test_power_on : left (exec .powerOn State.reset) (fun t => (t.lodge.on, t.lodge.step, t.lodge.last.count)) = some (true, 1, 1) := by decide +kernel
theorem test_bring_up : left (exec .bringUpStepEnd (sBoot 8 { pass := true })) (fun t => (t.lodge.boot, t.lodge.step)) = some (1, 0)
    ∧ left (exec .bringUpStepEnd (sBoot 6 { pass := true })) (fun t => (t.lodge.step, t.hbm)) = some (7, {})
    ∧ left (exec .bringUpStepEnd (sBoot 3 { pass := true } { resuming := true })) (fun t => t.lodge.step) = some 6
    ∧ left (exec .bringUpStepEnd (sBoot 2)) (fun t => (t.lodge.boot, t.lodge.step)) = some (2, 0)
    ∧ left (exec .bringUpWatchdog (sBoot 8)) (fun t => (t.lodge.boot, t.lodge.step)) = some (1, 0)
    ∧ ((sBoot 7).lodge.before 8).failed = false ∧ ((sBoot 7 {} { copyA := { count := 1 }, copyB := { steps := [(8, { outcome := 4 })] } }).lodge.before 8).failed = true
    ∧ left (exec .bringUpStepEnd (sBoot 7 { pass := true } { copyA := { count := 1 }, copyB := { steps := [(8, { outcome := 4 })] } })) (fun t => (t.lodge.boot, t.lodge.step)) = some (1, 0) := by decide +kernel
theorem test_bring_up_alternate : left (exec .bringUpStepEnd (sBoot 2 {} { copyA := { count := 1, steps := [(2, { alternate := true })] } })) (fun t => (t.lodge.boot, t.lodge.step, (Map.get {} t.lodge.last.steps 2).outcome))
    = some (0, 2, 5) ∧ left (exec .lcmdReboot (sBoot 0 {} { boot := 2 })) (fun t => (t.lodge.step, t.hbm)) = some (1, {})
    ∧ left (exec .powerLoss (sBoot 3)) (fun t => (t.lodge.on, t.lodge.step, t.hbm)) = some (false, 0, {}) := by decide +kernel
theorem test_port_up : left (exec .faleusPortUp (sHost { port := 3, spare := true })) (fun t => (t.portsUp, t.portsSpare, t.portsSpareIn)) = some (8, 8, 0)
    ∧ left (exec .faleusPortUp (sHost { port := 3, spare := true, inbound := true })) (fun t => (t.portsUp, t.portsSpare, t.portsSpareIn)) = some (8, 0, 8) := by decide +kernel

/-! StepRunsTheDecodedWord and PrivilegedWords: the word that the next step issues. -/
def sNext (w : Nat) (h : Thread) : State := { one { h with pcc := cap 0 [permX] } with schedule := [.thread ⟨0, 0⟩], cores := [(0, { icache := [(0, { data := BitVec.ofNat 512 w })] })] }
def addWord : State := sNext 0x04A63800 (thr [(6, num 2), (7, num 3)])
theorem hyps_step : (addWord.schedule = [.thread ⟨0, 0⟩]) ∧ addWord.cur.dup = false ∧ addWord.cur.trail = none ∧ addWord.cur.status = .running ∧ addWord.cur.pendMchk = [] ∧ (addWord.core 0).quiescing = false ∧ ({ requests := [(true, ⟨1, 0⟩, 9)] } : Core).quiescing = true ∧ addWord.fetchAt 0 addWord.cur.pcc = .word 0x04A63800
    ∧ decode 0x04A63800 = .instr (.add 5 6 7) ∧ Instr.formatBad addWord.cur (.add 5 6 7) = false ∧ addWord.cur.refuses 0 (.add 5 6 7) 0x04A63800 = none
    ∧ (Instr.add 5 6 7).names.any addWord.cur.rxRegs.contains = false ∧ addWord.cur.poisonPend = [] ∧ addWord.cur.frame.any (fun f => f.holds (.add 5 6 7) 0x04A63800 || (f.active && !addWord.cur.spec && Instr.isTabt (.add 5 6 7))) = false := by decide +kernel
theorem test_step_issues : left (step addWord) (fun t => (t.cur.reg 5, t.cur.pc, t.cur.instret)) = some (num 5, 4, 1) := by decide +kernel
theorem test_step_event : left (step { one (thr []) with schedule := [.event .powerOn {}] }) (fun t => t.lodge.on) = some true ∧ left (step State.reset) (fun t => t.lodge.boot) = some 0 := by decide +kernel
theorem hyps_step_others : (addWord.setCur { addWord.cur with pendMchk := [5] }).cur.intrap = false ∧ (sNext 0 (thr [])).fetchAt 0 (sNext 0 (thr [])).cur.pcc = .word 0 ∧ decode 0 = .undef
    ∧ decode 0x04000040 = .rsvd ∧ (match (one (thr [])).fetchAt 0 (thr []).pcc with
      | .miss y => y == 1
      | _ => false) = true ∧ (match (sNext 0 (thr [])).fetchAt 0 (cap 2 [permX]) with
      | .trap _ => true
      | _ => false) = true ∧ Instr.formatBad ({ thr [] with fmtb := 0x7F }) (.mldbTile 0) = true
    ∧ (sNext 0 { thr [] with rx := [⟨farLoad, 0⟩] }).cur.rxRegs = [9] ∧ (Instr.add 9 6 7).names.any [(9 : RegNum)].contains = true
    ∧ ((thr []).refuses 0 .eret 0xC0000004).isSome = true ∧ frame.holds (.mclr 1 2) 0xA0607980 = true ∧ (0xFC800001 : Nat) / 2 ^ 23 = 0x1F9 := by decide +kernel
theorem hyps_privileged : (sNext 0xC0000004 (thr [])).cur.mode = false ∧ (sNext 0xC0000004 (thr [])).cur.intrap = false ∧ decode (encodeNat .eret) = .instr .eret
    ∧ (sNext 0xC0000004 (thr [])).cur.lihhNow = none ∧ (sNext 0xC0000004 (thr [])).cur.pendMchk = [] ∧ (sNext 0xC0000004 (thr [])).Plain
    ∧ (sNext (encodeNat .eret) (thr [])).fetchAt 0 (sNext (encodeNat .eret) (thr [])).cur.pcc = .word (encodeNat .eret) := by decide +kernel
theorem test_privileged : left (step (sNext (encodeNat .eret) (thr []))) (fun t => (t.cur.causeCode, t.cur.tval.toNat == encodeNat .eret, t.cur.mode)) = some (3, true, true)
    ∧ left (step (sNext (encodeNat (.csrr 5 .ptroot)) (thr []))) (fun t => (t.cur.causeCode, t.cur.reg 5)) = some (3, {}) := by decide +kernel
/-! RedundantPairs: slots 0 and 7 of core 0, at a load from an own-scratch address, a store, an addition. -/
def sPair (w : Nat) (q : Trail) (who : Nat) (h : Thread := {}) (rs : Map CReg := []) : State :=
  let h : Thread := { h with status := .running, regs := [(2, cap 64 allPerms), (6, num 2), (7, num 3)] ++ rs, pcc := cap 0 [permX], dup := true, task := some ⟨0, 0, 0⟩ }
  { one h {} { queue := [(0, { rcd := {}, vt := {}, spec := true, dup := true, width := 1 })] } with
    threads := [(0, h), (7, { h with trail := some q })], schedule := [.thread ⟨0, who⟩], cores := [(0, { icache := [(0, { data := BitVec.ofNat 512 w })] })] }
def storeWord : Nat := encodeNat (.st64 6 2 0 false)
def loadWord : Nat := encodeNat (.ldS64 5 2 0 false)
def oneLoad : Trail := { loads := [{ d := 5, count := 0, traps := 0, res := some (.value (num 9) none) }] }
theorem hyps_pair : (sPair storeWord {} 0).PairAt ⟨0, 0⟩ {} ∧ (sPair loadWord oneLoad 7).PairAt ⟨0, 0⟩ oneLoad ∧ decode storeWord = .instr (.st64 6 2 0 false)
    ∧ ((sPair storeWord {} 0).thread ⟨0, 0⟩).Clear (.st64 6 2 0 false) storeWord ∧ ((sPair storeWord {} 0).thread ⟨0, 7⟩).Clear (.st64 6 2 0 false) storeWord
    ∧ ((sPair storeWord {} 0).core 0).quiescing = false ∧ (sPair storeWord {} 0).pairClass (.st64 6 2 0 false) storeWord = .action
    ∧ (sPair loadWord {} 0).pairClass (.ldS64 5 2 0 false) loadWord = .load 5 ∧ (sPair 0x04A63800 {} 0).pairClass (.add 5 6 7) 0x04A63800 = .both
    ∧ ((sPair storeWord {} 0).thread ⟨0, 0⟩).sameTraps ((sPair storeWord {} 0).thread ⟨0, 7⟩) = true
    ∧ ((sPair storeWord {} 0).thread ⟨0, 0⟩).withOperands ((sPair storeWord {} 0).thread ⟨0, 7⟩) = (sPair storeWord {} 0).thread ⟨0, 0⟩
    ∧ (sPair storeWord {} 0).fetchAt 0 ((sPair storeWord {} 0).thread ⟨0, 7⟩).pcc = .word storeWord := by decide +kernel
theorem hyps_pair_load : ({ sPair loadWord oneLoad 7 with schedule := [], turn := ⟨0, 7⟩ }.loadTrap (.ldS64 5 2 0 false)).isNone = true := by decide +kernel
theorem test_pair_load : left (step (sPair loadWord oneLoad 7)) (fun t => ((t.thread ⟨0, 7⟩).reg 5, (t.thread ⟨0, 7⟩).pcc.addr, (t.thread ⟨0, 7⟩).trail.map (fun q => q.loads.length)))
    = some (num 9, 4, some 0) := by decide +kernel
theorem hyps_pair_full : let q : Trail := { loads := List.replicate 64 { d := 5, count := 0, traps := 0, res := some (.value (num 9) none) } }
    64 ≤ q.loads.length ∧ (sPair loadWord q 0).PairAt ⟨0, 0⟩ q := by decide +kernel
def takeWord : Nat := encodeNat (.lde 5 2 0)
/-- The leading thread goes on behind a store, and waits at an action that returns a value. -/
theorem test_pair_posts : left (step (sPair storeWord {} 0)) (fun t => ((t.thread ⟨0, 7⟩).trail.map (fun q => (q.posted, q.ahead.map (fun e => e.w))), (t.thread ⟨0, 0⟩).pcc.addr, t.scratch)) = some (some (none, [storeWord]), 4, {})
    ∧ left (step (sPair takeWord {} 0)) (fun t => ((t.thread ⟨0, 7⟩).trail.bind (fun q => q.posted), (t.thread ⟨0, 0⟩).pcc.addr)) = some (some takeWord, 0) := by decide +kernel
/-- An action behind which the leading thread has gone on. -/
def ahead (w n : Nat) : Trail := { ahead := List.replicate n ⟨w, ((sPair storeWord {} 0).thread ⟨0, 0⟩).operands, 0⟩ }
theorem hyps_pair_ahead : (sPair storeWord (ahead storeWord 1) 7).PairAt ⟨0, 0⟩ (ahead storeWord 1) ∧ 16 ≤ (ahead storeWord 16).ahead.length
    ∧ (sPair storeWord (ahead storeWord 16) 0).PairAt ⟨0, 0⟩ (ahead storeWord 16) ∧ ownWord 0x04A63800 = true ∧ Instr.silent (.st64 6 2 0 false) = true ∧ Instr.silent (.lde 5 2 0) = false
    ∧ (sPair takeWord {} 0).pairClass (.lde 5 2 0) takeWord = .action ∧ decode takeWord = .instr (.lde 5 2 0) ∧ ((sPair takeWord {} 0).thread ⟨0, 0⟩).Clear (.lde 5 2 0) takeWord := by decide +kernel
theorem test_pair_ahead : left (step (sPair storeWord (ahead 1 1) 7)) (fun t => ((t.core 0).mismatches, t.scratch)) = some (1, {})
    ∧ left (step (sPair storeWord (ahead storeWord 16) 0)) (fun t => (t.thread ⟨0, 0⟩).pcc.addr) = some 0
    ∧ left (step (sPair loadWord (ahead storeWord 1) 0)) (fun t => (t.thread ⟨0, 0⟩).pcc.addr) = some 0 := by decide +kernel
theorem test_pair_both : left (step (sPair 0x04A63800 {} 7)) (fun t => ((t.thread ⟨0, 7⟩).reg 5, (t.thread ⟨0, 7⟩).pcc.addr, (t.thread ⟨0, 0⟩).pcc.addr)) = some (num 5, 4, 0) := by decide +kernel
theorem test_pair_mismatch : left (step (sPair storeWord { posted := some 1 } 7)) (fun t => ((t.core 0).mismatches, (t.thread ⟨0, 0⟩).status, (t.domain 0).mchks.map (fun m => (m.kind, m.detail.toNat))))
      = some (1, .parked (.tendAcks true), [(6, storeWord)])
    ∧ left (step (sPair storeWord { posted := some 1 } 7 { spec := true })) (fun t => ((t.core 0).mismatches, (t.thread ⟨0, 0⟩).status, (t.cluster 0).aborts))
      = some (1, .parked .aborting, [(0, .requeue)]) := by decide +kernel
theorem test_with_fetch_word : left (step (State.reset.withFetchWord 32 0x082200FF)) (fun t => (t.cur.reg 1, t.cur.pc)) = some (num 255, 4) := by decide +kernel

/-! EncodedWordsDecode, DecodedWordsEncode, StepsKeepTheMemoryForm. -/
theorem hyps_encoding : (Instr.vadd 5 6 7 .i16 .satN).isEvent = false ∧ (Instr.vadd 5 6 7 .i16 .satN).wf = true ∧ decode (0x80A638A8 : BitVec 32).toNat = .instr (.vadd 5 6 7 .i16 .satN) := by decide +kernel
theorem hyps_memory_form : addWord.hbm.wf ∧ addWord.scratch.wf ∧ addWord.carved.wf ∧ addWord.host.wf ∧ left (step addWord) (fun t => t.cur.pc) = some 4 := by decide +kernel

end Sys2Proof.Tests
end

section
/-!
SUPPORT. How a turn is taken: what an issue position leaves, one equation for each branch of a thread's issue, and that no branch stops the machine.
-/
namespace Sys2Proof.Machine

/-! The issue position (R14, R16, R45). -/

/-- The clock of one core moves on. -/
theorem State.core_setCycle (s : State) (c d : Nat) (x : Word) :
    ∃ y, (s.setCore c { s.core c with cycle := x }).core d = { s.core d with cycle := y } := by
  by_cases hd : d = c
  · subst hd
    exact ⟨x, State.core_setCore s d _⟩
  · exact ⟨(s.core d).cycle, State.core_setCore_ne s _ hd⟩

/-- What taking a position does: the clock of the thread's core moves on, the count of free choices may, and the word counts. -/
theorem State.takePosition_eq (s : State) :
    ∃ x n, s.takePosition = ({ s.setCore s.turn.core { s.core s.turn.core with cycle := x } with freeCount := n } : State).setCur s.cur.issued := by
  by_cases h : s.turn.slot = 15
  · exact ⟨_, _, by rw [State.takePosition, if_pos h]; rfl⟩
  · exact ⟨_, _, by rw [State.takePosition, if_neg h]; rfl⟩

@[simp] theorem State.takePosition_cur (s : State) : s.takePosition.cur = s.cur.issued := by
  obtain ⟨x, n, h⟩ := s.takePosition_eq
  rw [h, State.cur_setCur]

theorem State.takePosition_thread_ne (s : State) {u : Tid} (hu : tkey u ≠ tkey s.turn) : s.takePosition.thread u = s.thread u := by
  obtain ⟨x, n, h⟩ := s.takePosition_eq
  rw [h]
  exact State.thread_setThread_ne _ _ hu

theorem State.takePosition_core (s : State) (c : Nat) : ∃ y, s.takePosition.core c = { s.core c with cycle := y } := by
  obtain ⟨x, n, h⟩ := s.takePosition_eq
  rw [h]
  exact State.core_setCycle s s.turn.core c x

theorem State.takePosition_frame (s : State) :
    s.takePosition = { s with threads := s.takePosition.threads, cores := s.takePosition.cores, freeCount := s.takePosition.freeCount } := by
  obtain ⟨x, n, h⟩ := s.takePosition_eq
  rw [h]
  rfl

/-! A machine check that waits for the thread (R348). -/

theorem State.takeMchk_nil {s : State} (h : s.cur.pendMchk = []) : s.takeMchk = none := by
  rw [State.takeMchk, h]

theorem State.takeMchk_cons {s : State} {a : Nat} {as : List Nat} (h : s.cur.pendMchk = a :: as) (hi : s.cur.intrap = false)
    (hl : s.cur.lihhNow = none) (hs : s.turn.slot ≠ 15) :
    s.takeMchk = some ((s.dropReads s.turn).setCur ({ (s.dropReads s.turn).cur with pendMchk := as }.enter ⟨.mchk, a⟩ true s.cur.pcc)) := by
  simp [State.takeMchk, h, hi, hl, hs]

/-! The decoded word (R36, R37, R39, R91, R232). -/

section
variable (go : Instr → Nat → State → Out) {s : State} {i : Instr} {w : Nat}

theorem State.issueInstr_refuses {e : TrapVal} (h : s.cur.refuses s.turn.slot i w = some e) :
    s.issueInstr go i w = .next (s.takePosition.raiseAt s.cur.epc e) := by
  simp only [State.issueInstr, h]

theorem State.issueInstr_rx (h : s.cur.refuses s.turn.slot i w = none) (hr : i.names.any s.cur.rxRegs.contains = true) :
    s.issueInstr go i w = .next s := by
  simp only [State.issueInstr, h, hr, if_true]

theorem State.issueInstr_held (h : s.cur.refuses s.turn.slot i w = none) (hr : i.names.any s.cur.rxRegs.contains = false)
    (hf : s.cur.frame.any (fun f => f.holds i w || (f.active && !s.cur.spec && Instr.isTabt i)) = true) :
    s.issueInstr go i w = .next (s.park .frame) := by
  simp only [State.issueInstr, h, hr, hf, if_true, Bool.false_eq_true, if_false]

theorem State.issueInstr_goes (h : s.cur.refuses s.turn.slot i w = none) (hr : i.names.any s.cur.rxRegs.contains = false)
    (hf : s.cur.frame.any (fun f => f.holds i w || (f.active && !s.cur.spec && Instr.isTabt i)) = false)
    (hp : ∀ e ∈ s.cur.poisonPend, ∀ r ∈ i.regs.1, r.val ≠ e.1) : s.issueInstr go i w = go i w s := by
  have hnone : s.cur.poisonPend.find? (fun e => i.regs.1.any (fun r => r.val == e.1)) = none := by
    simpa [List.find?_eq_none] using hp
  simp only [State.issueInstr, h, hr, hf, hnone, Bool.false_eq_true, if_false]

end

/-! The fetched word (R36, R61). -/

section
variable (go : Instr → Nat → State → Out) {s : State} {w : Nat}

theorem State.issueWith_mchk {x : State} (h : s.takeMchk = some x) : s.issueWith go = .next x := by
  simp only [State.issueWith, h]

theorem State.issueWith_trap {e : TrapVal} (hm : s.takeMchk = none) (h : s.fetchAt s.turn.core s.cur.pcc = .trap e) :
    s.issueWith go = .next (s.takePosition.raiseAt s.cur.epc e) := by
  simp only [State.issueWith, hm, h]

theorem State.issueWith_miss (hm : s.takeMchk = none) (h : s.fetchAt s.turn.core s.cur.pcc = .miss w) :
    s.issueWith go = .next (s.park (.fetch w)) := by
  simp only [State.issueWith, hm, h]

variable (hm : s.takeMchk = none) (h : s.fetchAt s.turn.core s.cur.pcc = .word w)
include hm h

theorem State.issueWith_undef (hd : decode w = .undef) : s.issueWith go = .next (s.takePosition.raiseAt s.cur.epc ⟨.undef, w⟩) := by
  simp only [State.issueWith, hm, h, hd]

theorem State.issueWith_rsvd (hd : decode w = .rsvd) :
    s.issueWith go = .next (if w / 2 ^ 23 = 0x1F9 then s.badElect w else s.takePosition.raiseAt s.cur.epc ⟨.rsvd, w⟩) := by
  simp only [State.issueWith, hm, h, hd]

theorem State.issueWith_formatBad {i : Instr} (hd : decode w = .instr i) (hf : Instr.formatBad s.cur i = true) :
    s.issueWith go = .next (s.takePosition.raiseAt s.cur.epc ⟨.rsvd, w⟩) := by
  simp only [State.issueWith, hm, h, hd, hf, if_true]

theorem State.issueWith_instr {i : Instr} (hd : decode w = .instr i) (hf : Instr.formatBad s.cur i = false) :
    s.issueWith go = s.issueInstr go i w := by
  simp only [State.issueWith, hm, h, hd, hf, Bool.false_eq_true, if_false]

end

/-! The turn of a thread (R15, R36, R337, R341). -/

@[simp] theorem State.cur_turn (s : State) (t : Tid) : ({ s with turn := t } : State).cur = s.thread t := rfl
@[simp] theorem State.thread_turn (s : State) (t u : Tid) : ({ s with turn := t } : State).thread u = s.thread u := rfl
@[simp] theorem State.core_turn (s : State) (t : Tid) (c : Nat) : ({ s with turn := t } : State).core c = s.core c := rfl

section
variable {s : State} {t : Tid}

theorem State.issue_notRunning (h : (s.thread t).status ≠ .running) : s.issue t = .next { s with turn := t } := by
  simp [State.issue, h]

theorem State.issue_quiescing (hq : (s.core t.core).quiescing = true) (h15 : t.slot ≠ 15) (htr : (s.thread t).trail = none) :
    s.issue t = .next { s with turn := t } := by
  simp [State.issue, hq, h15, htr]

/-- A running thread in no redundant pair issues for itself. -/
theorem State.issue_alone (hr : (s.thread t).status = .running) (hq : (s.core t.core).quiescing = false ∨ t.slot = 15)
    (hd : (s.thread t).dup = false) (htr : (s.thread t).trail = none) :
    s.issue t = ({ s with turn := t } : State).issueWith issueAlone := by
  have hlead : ({ s with turn := t } : State).trailOf t = none := by simp [State.trailOf, hd]
  have hfree : ((s.core t.core).quiescing && t.slot != 15) = false := by rcases hq with hq | hq <;> simp [hq]
  simp [State.issue, hr, hfree, htr, hlead]

end

/-! One step (R8). -/

section
variable {s : State} {rest : List Turn}

theorem step_thread {t : Tid} (h : s.schedule = .thread t :: rest) : step s = ({ s with schedule := rest } : State).issue t := by
  rw [step, h]
  rfl

/-- A running thread in no redundant pair, whose core does not keep it back, issues for itself. -/
theorem step_alone {t : Tid} (h : s.schedule = .thread t :: rest) (hr : (s.thread t).status = .running)
    (hq : (s.core t.core).quiescing = false ∨ t.slot = 15) (hd : (s.thread t).dup = false) (htr : (s.thread t).trail = none) :
    step s = ({ s with schedule := rest, turn := t } : State).issueWith issueAlone :=
  (step_thread h).trans (State.issue_alone (s := { s with schedule := rest }) hr hq hd htr)

theorem step_event {i : Instr} {ev : EventArgs} (h : s.schedule = .event i ev :: rest) (hi : i.isEvent = true) :
    step s = exec i { s with schedule := rest, ev := ev } := by
  rw [step, h]
  exact if_pos hi

theorem step_due {k : Nat} {tn : Turn} (h : s.schedule = []) (hd : s.due = some (k, tn)) : step s = ({ s with pace := k } : State).take tn := by
  simp only [step, h, State.ownStep, hd]

theorem step_rest (h : s.schedule = []) (hd : s.due = none) : step s = .next s := by
  simp only [step, h, State.ownStep, hd]

end

/-! No outcome of the model is a fault or a refusal (R8, R36, R47). -/

/-- The outcome is a next state. -/
def GoesOn (o : Out) : Prop := ∃ t, o = .next t

theorem goesOn_next (s : State) : GoesOn (.next s) := ⟨s, rfl⟩

theorem GoesOn.ite {c : Prop} [Decidable c] {a b : Out} (ha : GoesOn a) (hb : GoesOn b) : GoesOn (if c then a else b) := by
  split
  · exact ha
  · exact hb

theorem State.event_goesOn (s : State) (r : Option State) : GoesOn (s.event r) := goesOn_next _

theorem execTrellisRowArrival_goesOn (s : State) : GoesOn (execTrellisRowArrival s) := by
  unfold execTrellisRowArrival
  split
  · exact s.event_goesOn _
  · exact goesOn_next _
  · exact goesOn_next _

/-- Every meaning ends in a next state. All but six are one expression that says so; those six choose between events and turns that do nothing. -/
theorem exec_goesOn (i : Instr) (s : State) : GoesOn (exec i s) := by
  cases i
  case chainOpenArrival => exact .ite (s.event_goesOn _) (goesOn_next _)
  case chainCloseArrival => exact .ite (s.event_goesOn _) (goesOn_next _)
  case trellisRowArrival => exact execTrellisRowArrival_goesOn s
  case resumeNotice => exact .ite (s.event_goesOn _) (goesOn_next _)
  case slotDisable => exact .ite (goesOn_next _) (.ite (goesOn_next _) (s.event_goesOn _))
  case slotEnable => exact .ite (s.event_goesOn _) (goesOn_next _)
  all_goals exact goesOn_next _

section
variable {go : Instr → Nat → State → Out}

theorem State.poisonAt_goesOn (s : State) (r : Nat) (e : TrapVal) {out : Out} (h : GoesOn out) : GoesOn (s.poisonAt r e out) := by
  obtain ⟨x, rfl⟩ := h
  exact .ite (goesOn_next _) (goesOn_next _)

variable (hgo : ∀ i w s, GoesOn (go i w s))
include hgo

theorem State.issueInstr_goesOn (s : State) (i : Instr) (w : Nat) : GoesOn (s.issueInstr go i w) := by
  unfold State.issueInstr
  dsimp only
  split
  · exact goesOn_next _
  · refine .ite (goesOn_next _) (.ite (goesOn_next _) ?_)
    split
    · exact State.poisonAt_goesOn _ _ _ (hgo _ _ _)
    · exact hgo _ _ _

theorem State.issueWith_goesOn (s : State) : GoesOn (s.issueWith go) := by
  unfold State.issueWith
  dsimp only
  split
  · exact goesOn_next _
  · split
    · exact goesOn_next _
    · exact goesOn_next _
    · split
      · exact goesOn_next _
      · exact goesOn_next _
      · exact .ite (goesOn_next _) (s.issueInstr_goesOn hgo _ _)

end

theorem issueAlone_goesOn (i : Instr) (w : Nat) (s : State) : GoesOn (issueAlone i w s) := exec_goesOn _ _

/-! The leading thread of a redundant pair (R341). -/

theorem issueLeader_goesOn (q : Trail) (i : Instr) (w : Nat) (s : State) : GoesOn (issueLeader q i w s) := by
  unfold issueLeader
  dsimp only
  split
  · exact .ite (goesOn_next _) (exec_goesOn _ _)
  · exact .ite (goesOn_next _) (exec_goesOn _ _)
  · exact .ite (goesOn_next _) (.ite (goesOn_next _) (goesOn_next _))

theorem State.issueLeading_goesOn (s : State) : GoesOn s.issueLeading := by
  unfold State.issueLeading
  dsimp only
  split
  · exact goesOn_next _
  · refine .ite (goesOn_next _) ?_
    split
    · exact .ite (goesOn_next _) (goesOn_next _)
    · exact s.issueWith_goesOn (issueLeader_goesOn _)

/-! The trailing thread of a redundant pair (R341, R342). -/

theorem State.pairCompare_goesOn (s : State) (q : Trail) (i : Instr) (w p : Nat) : GoesOn (s.pairCompare q i w p) := by
  unfold State.pairCompare
  dsimp only
  refine .ite ?_ (goesOn_next _)
  obtain ⟨x, hx⟩ := exec_goesOn i ({ s with turn := leadTid s.turn } : State).takePosition
  rw [hx]
  exact goesOn_next _

theorem State.pairAhead_goesOn (s : State) (q : Trail) (i : Instr) (w : Nat) (e : Posted) : GoesOn (s.pairAhead q i w e) := by
  unfold State.pairAhead
  dsimp only
  refine .ite (goesOn_next _) (.ite ?_ (goesOn_next _))
  split
  · exact goesOn_next _
  · next h => obtain ⟨x, hx⟩ := exec_goesOn i _; rw [hx] at h; cases h
  · next h => obtain ⟨x, hx⟩ := exec_goesOn i _; rw [hx] at h; cases h

theorem issueTrailer_goesOn (q : Trail) (i : Instr) (w : Nat) (s : State) : GoesOn (issueTrailer q i w s) := by
  unfold issueTrailer
  split
  · exact exec_goesOn _ _
  · exact goesOn_next _
  · split
    · exact s.pairAhead_goesOn _ _ _ _
    · exact goesOn_next _
    · exact s.pairCompare_goesOn _ _ _ _

theorem State.trailTurn_goesOn (s : State) (q : Trail) : GoesOn (s.trailTurn q) := by
  unfold State.trailTurn
  split
  · exact goesOn_next _
  · exact s.issueWith_goesOn (issueTrailer_goesOn q)

theorem State.trailSettle_goesOn (s : State) (q : Trail) {k o : Out} (hk : GoesOn k) (ho : GoesOn o) : GoesOn (s.trailSettle q k o) := by
  obtain ⟨x, rfl⟩ := ho
  unfold State.trailSettle
  dsimp only
  split
  · exact goesOn_next _
  · split
    · exact hk
    · exact hk
    · exact .ite (goesOn_next _) hk
  · exact hk
  · exact goesOn_next _

theorem State.issueTrailing_goesOn (s : State) : GoesOn s.issueTrailing := by
  unfold State.issueTrailing
  split
  · exact goesOn_next _
  · refine .ite (goesOn_next _) (State.trailSettle_goesOn _ _ ?_ (State.trailTurn_goesOn _ _))
    exact .ite (goesOn_next _) (State.trailSettle_goesOn _ _ (goesOn_next _) (State.trailTurn_goesOn _ _))

theorem State.issue_goesOn (s : State) (t : Tid) : GoesOn (s.issue t) :=
  .ite (goesOn_next _) (.ite (State.issueTrailing_goesOn _) (.ite (State.issueLeading_goesOn _) (State.issueWith_goesOn issueAlone_goesOn _)))

theorem State.take_goesOn (s : State) (tn : Turn) : GoesOn (s.take tn) := by
  cases tn with
  | thread t => exact s.issue_goesOn t
  | event i ev => exact .ite (exec_goesOn _ _) (goesOn_next _)

theorem State.ownStep_goesOn (s : State) : GoesOn s.ownStep := by
  unfold State.ownStep
  split
  · exact State.take_goesOn _ _
  · exact goesOn_next _

theorem step_goesOn (s : State) : GoesOn (step s) := by
  unfold step
  split
  · exact State.take_goesOn _ _
  · exact s.ownStep_goesOn

/-- Settles O58: a step takes a turn, a turn issues a word or performs an event, and every meaning ends in a next state. -/
theorem everyStepGoesOn : Obligations.EveryStepGoesOn := step_goesOn

/-! A step of a thread in no redundant pair. -/

/-- Settles O52: a thread's turn goes branch by branch through the equations of `issue`, `issueWith` and `issueInstr`; what its position leaves is
`takePosition_eq`. -/
theorem stepRunsTheDecodedWord : Obligations.StepRunsTheDecodedWord := by
  intro s t rest w a as i e ev k tn h s1 s2
  refine ⟨fun hs hdup htr => ?_, step_event, step_due, step_rest⟩
  have hissue : h.status = .running → ((s.core t.core).quiescing = false ∨ t.slot = 15) → step s = s1.issueWith issueAlone :=
    fun hr hq => step_alone hs hr hq hdup htr
  refine ⟨fun hr => (step_thread hs).trans (State.issue_notRunning hr),
    fun hq h15 => (step_thread hs).trans (State.issue_quiescing hq h15 htr),
    fun hr hq hp hi hl h15 => (hissue hr (.inl hq)).trans (State.issueWith_mchk _ (State.takeMchk_cons (s := s1) hp hi hl h15)),
    fun hr hq hp => ?_,
    s1.takePosition_cur, fun u hu => s1.takePosition_thread_ne hu, s1.takePosition_core, s1.takePosition_frame⟩
  rw [hissue hr hq]
  have hm : s1.takeMchk = none := State.takeMchk_nil hp
  refine ⟨State.issueWith_trap _ hm, State.issueWith_miss _ hm, fun hw => ⟨State.issueWith_undef _ hm hw, fun hd hne => ?_, fun hd heq => ?_,
    State.issueWith_formatBad _ hm hw, fun hd hf => ?_⟩⟩
  · rw [State.issueWith_rsvd _ hm hw hd, if_neg hne]
    rfl
  · rw [State.issueWith_rsvd _ hm hw hd, if_pos heq]
    rfl
  · rw [State.issueWith_instr _ hm hw hd hf]
    exact ⟨State.issueInstr_refuses (s := s1) _, fun hn =>
      ⟨State.issueInstr_rx (s := s1) _ hn, State.issueInstr_held (s := s1) _ hn, State.issueInstr_goes (s := s1) _ hn⟩⟩

end Sys2Proof.Machine
end

section
/-!
SUPPORT. The integer instructions of major 0x01 (R63 to R66): how a scalar result and a trap answer a statement, and what each result says of the
bits and the values of its operands.
-/
namespace Sys2Proof.Machine

/-! Scalar results and traps as the statements name them (R47, R63). -/

/-- A scalar result, given by any expression that has its value. -/
theorem gives_scalar {i : Instr} {s : State} {d : RegNum} {v w : Word} (h : s.Plain) (he : exec i s = .next (scalar d w s)) (hv : w = v) :
    Gives i s d v := hv ▸ gives_of h he

/-- A meaning that raises a trap takes it. -/
theorem takesTrap_of {i : Instr} {s : State} {e : TrapVal} (h : s.Traps) (he : exec i s = .next (s.raise e)) : TakesTrap i s e :=
  he.trans (congrArg _ (State.raise_traps h e))

/-- A choice made by an equivalent condition. -/
theorem ite_of_iff {α : Type} {p q : Prop} [Decidable p] [Decidable q] (h : p ↔ q) {x y : α} : (if p then x else y) = if q then x else y :=
  ite_congr (propext h) (fun _ => rfl) (fun _ => rfl)

theorem ofBool_of_iff {b : Bool} {p : Prop} [Decidable p] (h : b = true ↔ p) : ofBool b = if p then 1 else 0 := ite_of_iff h

/-! Shift amounts and fields of a word (R4, R64). -/

theorem wfld_zero_six (y : Word) : wfld y 0 6 = y.toNat % 64 := by simp [wfld, fld]

theorem toNat_and_63 (y : Word) : (y &&& 63).toNat = y.toNat % 64 := by
  rw [BitVec.toNat_and]
  exact Nat.and_two_pow_sub_one_eq_mod y.toNat 6

theorem wfld_eq_and_63 (y : Word) : wfld y 0 6 = (y &&& 63).toNat := by rw [wfld_zero_six, toNat_and_63]

theorem wordOf_getLsbD (n : Nat) {i : Nat} (hi : i < 64) : (wordOf n).getLsbD i = n.testBit i := by
  rw [wordOf, BitVec.getLsbD_ofNat, decide_eq_true hi, Bool.true_and]

/-! Products (R64): the upper half, with the lower half as what is left. -/

theorem mulh_split (x y : Word) :
    ∃ lo : Nat, lo < 2 ^ 64 ∧ x.toInt * y.toInt = (BitVec.ofInt 64 (x.toInt * y.toInt / 2 ^ 64)).toInt * 2 ^ 64 + (lo : Nat) := by
  have hle : x.toInt * y.toInt ≤ 2 ^ 126 := BitVec.toInt_mul_toInt_le
  have hge : -2 ^ 126 ≤ x.toInt * y.toInt := BitVec.le_toInt_mul_toInt
  have hhi : (BitVec.ofInt 64 (x.toInt * y.toInt / 2 ^ 64)).toInt = x.toInt * y.toInt / 2 ^ 64 :=
    BitVec.toInt_ofInt_eq_self (by decide) (by omega) (by omega)
  exact ⟨(x.toInt * y.toInt % 2 ^ 64).toNat, by omega, by rw [hhi]; omega⟩

theorem mulhn_split (x y : Word) :
    ∃ lo : Nat, lo < 2 ^ 64 ∧ x.toNat * y.toNat = (wordOf (x.toNat * y.toNat / 2 ^ 64)).toNat * 2 ^ 64 + lo := by
  have hlt : x.toNat * y.toNat < 2 ^ 64 * 2 ^ 64 := Nat.mul_lt_mul'' x.isLt y.isLt
  exact ⟨x.toNat * y.toNat % 2 ^ 64, by omega, by rw [wordOf, BitVec.toNat_ofNat]; omega⟩

/-! Rotation and counting (R64). -/

theorem getLsbD_rotateRight_mod (x : Word) {n i : Nat} (hn : n < 64) (hi : i < 64) : (x.rotateRight n).getLsbD i = x.getLsbD ((i + n) % 64) := by
  rw [BitVec.getLsbD_rotateRight, Nat.mod_eq_of_lt hn]
  by_cases h : i < 64 - n
  · rw [decide_eq_true h, cond_true, Nat.add_comm, Nat.mod_eq_of_lt (by omega)]
  · rw [decide_eq_false h, cond_false, decide_eq_true hi, Bool.true_and, show (i + n) % 64 = i - (64 - n) by omega]

theorem lt_two_pow_bitLen (m : Nat) : m < 2 ^ bitLen m := by
  unfold bitLen
  split
  · omega
  · exact Nat.lt_log2_self

theorem bitLen_le_of_lt {m k : Nat} (h : m < 2 ^ k) : bitLen m ≤ k := by
  unfold bitLen
  split
  · omega
  · next h0 => exact (Nat.log2_lt h0).mpr h

theorem testBit_bitLen_pred {m : Nat} (h : 0 < bitLen m) : m.testBit (bitLen m - 1) = true := by
  have h0 : m ≠ 0 := by
    rintro rfl
    exact absurd h (by decide)
  rw [bitLen, if_neg h0, Nat.add_sub_cancel]
  exact Nat.testBit_log2 h0

/-- CLZ counts the zeros above the highest set bit. -/
theorem clz64_spec (x : Word) : ∃ n ≤ 64, clz64 x = BitVec.ofNat 64 n
    ∧ (∀ i < n, x.getLsbD (63 - i) = false) ∧ (n < 64 → x.getLsbD (63 - n) = true) := by
  have hle : bitLen x.toNat ≤ 64 := bitLen_le_of_lt x.isLt
  refine ⟨64 - bitLen x.toNat, by omega, rfl, fun i hi => ?_, fun hn => ?_⟩
  · exact Nat.testBit_lt_two_pow (Nat.lt_of_lt_of_le (lt_two_pow_bitLen _) (Nat.pow_le_pow_right (by decide) (by omega)))
  · rw [show 63 - (64 - bitLen x.toNat) = bitLen x.toNat - 1 by omega]
    exact testBit_bitLen_pred (by omega)

/-- CTZ counts the zeros below the lowest set bit. -/
theorem ctz64_spec (x : Word) : ∃ n ≤ 64, ctz64 x = BitVec.ofNat 64 n ∧ (∀ i < n, x.getLsbD i = false) ∧ (n < 64 → x.getLsbD n = true) := by
  unfold ctz64
  cases h : (List.range 64).find? (fun i => x.getLsbD i) with
  | none =>
    rw [List.find?_eq_none] at h
    exact ⟨64, Nat.le_refl 64, rfl, fun i hi => by simpa using h i (List.mem_range.mpr hi), fun hn => absurd hn (Nat.lt_irrefl 64)⟩
  | some n =>
    obtain ⟨hbit, hmem, hbelow⟩ := List.find?_range_eq_some.mp h
    exact ⟨n, Nat.le_of_lt (List.mem_range.mp hmem), rfl, fun i hi => by simpa using hbelow i hi, fun _ => hbit⟩

theorem popcount_eq_countP (x : Word) : popcount x = (List.range 64).countP (fun i => x.getLsbD i) := List.countP_eq_length_filter.symm

/-- Settles O1: each result is the model's expression, or a value that its defining property fixes. -/
theorem integerResults : Obligations.IntegerResults := by
  refine ⟨fun s d a b c h => ⟨gives_scalar h rfl rfl, gives_scalar h rfl rfl, gives_scalar h rfl rfl, gives_scalar h rfl rfl,
    gives_scalar h rfl rfl, gives_scalar h rfl rfl, gives_scalar h rfl rfl, ?shl, ?shr, ?sha, ?min, ?max, ?minn, ?maxn, ?seq, ?sne, ?slt, ?sltn,
    ?sle, ?slen, ?sel⟩, fun s d a b h => ⟨?mulh, ?mulhn, ?rotr, ?clz, ?ctz, ?popc⟩⟩
  case shl => exact gives_scalar h rfl (by rw [wfld_eq_and_63])
  case shr => exact gives_scalar h rfl (by rw [wfld_eq_and_63])
  case sha => exact gives_scalar h rfl (by rw [wfld_eq_and_63])
  case min => exact gives_scalar h rfl (ite_of_iff BitVec.sle_iff_toInt_le.symm)
  case max => exact gives_scalar h rfl (ite_of_iff BitVec.sle_iff_toInt_le.symm)
  case minn => exact gives_scalar h rfl (ite_of_iff BitVec.le_def.symm)
  case maxn => exact gives_scalar h rfl (ite_of_iff BitVec.le_def.symm)
  case seq => exact gives_scalar h rfl (ofBool_of_iff beq_iff_eq)
  case sne => exact gives_scalar h rfl ((ofBool_of_iff bne_iff_ne).trans (ite_not ..))
  case slt => exact gives_scalar h rfl (ofBool_of_iff (decide_eq_true_iff.trans BitVec.slt_iff_toInt_lt.symm))
  case sltn => exact gives_scalar h rfl (ofBool_of_iff (decide_eq_true_iff.trans BitVec.lt_def.symm))
  case sle => exact gives_scalar h rfl (ofBool_of_iff (decide_eq_true_iff.trans BitVec.sle_iff_toInt_le.symm))
  case slen => exact gives_scalar h rfl (ofBool_of_iff (decide_eq_true_iff.trans BitVec.le_def.symm))
  case sel => exact gives_scalar h rfl (ite_not ..)
  case mulh =>
    obtain ⟨lo, hlo, heq⟩ := mulh_split (s.word a) (s.word b)
    exact ⟨_, lo, gives_scalar h rfl rfl, hlo, heq⟩
  case mulhn =>
    obtain ⟨lo, hlo, heq⟩ := mulhn_split (s.word a) (s.word b)
    exact ⟨_, lo, gives_scalar h rfl rfl, hlo, heq⟩
  case rotr =>
    refine ⟨_, gives_scalar h rfl (by rw [wfld_eq_and_63]), fun i hi => getLsbD_rotateRight_mod _ ?_ hi⟩
    rw [toNat_and_63]
    exact Nat.mod_lt _ (by decide)
  case clz =>
    obtain ⟨n, hn, heq, hbits⟩ := clz64_spec (s.word a)
    exact ⟨n, hn, gives_scalar h rfl heq, hbits⟩
  case ctz =>
    obtain ⟨n, hn, heq, hbits⟩ := ctz64_spec (s.word a)
    exact ⟨n, hn, gives_scalar h rfl heq, hbits⟩
  case popc => exact gives_scalar h rfl (congrArg wordOf (popcount_eq_countP _))

/-! Division (R65). -/

/-- A division by zero traps with the instruction word. -/
theorem takesTrap_division {i : Instr} {s : State} {d b : RegNum} {r : Word} (ht : s.Traps) (hb : s.word b = 0)
    (he : exec i s = .next (division i d b r s)) : TakesTrap i s ⟨.divz, encodeNat i⟩ :=
  takesTrap_of ht (he.trans (congrArg _ (if_pos hb)))

/-- A division by any other value gives its result. -/
theorem gives_division {i : Instr} {s : State} {d b : RegNum} {r : Word} (h : s.Plain) (hb : s.word b ≠ 0)
    (he : exec i s = .next (division i d b r s)) : Gives i s d r :=
  gives_scalar h (he.trans (congrArg _ (if_neg hb))) rfl

/-- The quotient of two words fits a word, but for −2^63 ÷ −1. -/
theorem toInt_ofInt_tdiv {x y : Word} (h : ¬(x.toInt = -2 ^ 63 ∧ y.toInt = -1)) :
    (BitVec.ofInt 64 (x.toInt.tdiv y.toInt)).toInt = x.toInt.tdiv y.toInt := by
  rw [BitVec.toInt_ofInt, ← BitVec.toInt_sdiv]
  refine BitVec.toInt_sdiv_of_ne_or_ne x y ?_
  refine Decidable.not_and_iff_not_or_not.mp fun hc => ?_
  obtain ⟨hx, hy⟩ := hc
  subst hx hy
  exact h (by decide)

theorem toInt_ofInt_tmod (x y : Word) : (BitVec.ofInt 64 (x.toInt.tmod y.toInt)).toInt = x.toInt.tmod y.toInt := by
  rw [← BitVec.toInt_srem, BitVec.ofInt_toInt]

/-- Settles O2: a divisor other than zero gives the quotient or the remainder, which a word holds but for −2^63 ÷ −1; a zero divisor traps. -/
theorem division_holds : Obligations.Division := by
  intro s d a b h x y
  refine ⟨fun hy => ⟨⟨_, gives_division h hy rfl, ?div⟩, ⟨_, gives_division h hy rfl, ?rem⟩, ⟨_, gives_division h hy rfl, ?divn⟩,
    ⟨_, gives_division h hy rfl, ?remn⟩⟩, fun hy ht => ⟨takesTrap_division ht hy rfl, takesTrap_division ht hy rfl,
    takesTrap_division ht hy rfl, takesTrap_division ht hy rfl⟩⟩
  case div =>
    split
    · next hov =>
      rw [show (s.word a).toInt = -2 ^ 63 from hov.1, show (s.word b).toInt = -1 from hov.2]
      decide
    · next hov => exact toInt_ofInt_tdiv hov
  case rem =>
    split
    · next hov =>
      rw [show (s.word a).toInt = -2 ^ 63 from hov.1, show (s.word b).toInt = -1 from hov.2]
      decide
    · rw [toInt_ofInt_tmod, Int.tmod_def, Int.mul_comm]
  case divn => exact Nat.mod_eq_of_lt (Nat.lt_of_le_of_lt (Nat.div_le_self ..) (s.word a).isLt)
  case remn => exact Nat.mod_eq_of_lt (Nat.lt_of_le_of_lt (Nat.mod_le ..) (s.word a).isLt)

/-! Bit fields (R66): the field of `x` as bits `fieldPos y` to `fieldPos y + fieldLen y - 1`. -/

theorem fieldPos_eq (y : Word) : fieldPos y = y.toNat % 64 := wfld_zero_six y

theorem fieldLen_eq (y : Word) : fieldLen y = min (y.toNat % 64 + y.toNat / 256 % 64 + 1) 64 - y.toNat % 64 := by
  simp [fieldLen, fieldPos_eq, wfld, fld]

/-- A field has at least one bit. -/
theorem fieldLen_pos (y : Word) : 0 < fieldLen y := by
  rw [fieldLen_eq]
  omega

/-- The field as a bit vector of its own width. -/
def fieldBits (x y : Word) : BitVec (fieldLen y) := x.extractLsb' (fieldPos y) (fieldLen y)

theorem fieldBits_getLsbD (x y : Word) (i : Nat) : (fieldBits x y).getLsbD i = (decide (i < fieldLen y) && x.getLsbD (fieldPos y + i)) :=
  BitVec.getLsbD_extractLsb' ..

theorem fieldBits_toNat (x y : Word) : (fieldBits x y).toNat = x.toNat / 2 ^ fieldPos y % 2 ^ fieldLen y := by
  rw [fieldBits, BitVec.extractLsb'_toNat, Nat.shiftRight_eq_div_pow]

theorem fieldBits_msb (x y : Word) : (fieldBits x y).msb = x.getLsbD (fieldPos y + (fieldLen y - 1)) := by
  have hpos := fieldLen_pos y
  rw [BitVec.msb_eq_getLsbD_last, fieldBits_getLsbD, decide_eq_true (by omega), Bool.true_and]

theorem extractN_eq_setWidth (x y : Word) : extractN x y = (fieldBits x y).setWidth 64 := by
  rw [extractN, ← fieldBits_toNat, wordOf, BitVec.ofNat_toNat]

/-- EXTB reads the field as a signed number. -/
theorem extractS_eq_signExtend (x y : Word) : extractS x y = (fieldBits x y).signExtend 64 := by
  have hpos := fieldLen_pos y
  have hmsb : (x.toNat / 2 ^ fieldPos y % 2 ^ fieldLen y) / 2 ^ (fieldLen y - 1) % 2 = 1 ↔ (fieldBits x y).msb = true := by
    rw [← fieldBits_toNat, BitVec.msb_eq_getLsbD_last, BitVec.getLsbD, Nat.testBit_eq_decide_div_mod_eq, decide_eq_true_iff]
  unfold extractS
  rw [BitVec.signExtend, BitVec.toInt_eq_msb_cond, fieldBits_toNat]
  by_cases h : (fieldBits x y).msb = true
  · simp only [if_pos (hmsb.mpr h), if_pos h]
    exact congrArg (fun z : Int => BitVec.ofInt 64 (_ - z)) (Int.natCast_pow 2 _).symm
  · simp only [if_neg (mt hmsb.mp h), if_neg h, wordOf, BitVec.ofInt_natCast]

/-- The mask of the bits from `p` to `p + n - 1`. -/
theorem mask_getLsbD (p n : Nat) {i : Nat} (hi : i < 64) : (wordOf ((2 ^ n - 1) * 2 ^ p)).getLsbD i = (decide (p ≤ i) && decide (i < p + n)) := by
  rw [wordOf_getLsbD _ hi, Nat.testBit_mul_two_pow, Nat.testBit_two_pow_sub_one]
  by_cases h : p ≤ i
  · simp only [h, decide_true, Bool.true_and]
    exact decide_eq_decide.mpr (by omega)
  · simp [h]

theorem insertField_getLsbD (d x y : Word) {i : Nat} (hi : i < 64) : (insertField d x y).getLsbD i =
    if fieldPos y ≤ i ∧ i < fieldPos y + fieldLen y then x.getLsbD (i - fieldPos y) else d.getLsbD i := by
  unfold insertField
  simp only [BitVec.getLsbD_or, BitVec.getLsbD_and, BitVec.getLsbD_not, BitVec.getLsbD_shiftLeft, hi, decide_true, Bool.true_and, mask_getLsbD]
  by_cases h : fieldPos y ≤ i ∧ i < fieldPos y + fieldLen y
  · simp [h]
  · rw [if_neg h, show (decide (fieldPos y ≤ i) && decide (i < fieldPos y + fieldLen y)) = false by simpa using h]
    simp

/-- Settles O3: EXTBN and EXTB extend the field by zeros and by its top bit; INSB replaces it under its mask. -/
theorem bitFields : Obligations.BitFields := by
  intro s d a b h x pos n
  have hpos : fieldPos (s.word b) = pos := fieldPos_eq _
  have hlen : fieldLen (s.word b) = n := fieldLen_eq _
  have hn := fieldLen_pos (s.word b)
  refine ⟨⟨_, gives_scalar h rfl rfl, fun i hi => ?_⟩, ⟨_, gives_scalar h rfl rfl, fun i hi => ?_⟩, ⟨_, gives_scalar h rfl rfl, fun i hi => ?_⟩⟩
  · rw [extractN_eq_setWidth, BitVec.getLsbD_setWidth, decide_eq_true hi, Bool.true_and, fieldBits_getLsbD, hpos, hlen]
  · rw [extractS_eq_signExtend, BitVec.getLsbD_signExtend, decide_eq_true hi, Bool.true_and, fieldBits_getLsbD, fieldBits_msb, hpos, hlen]
    rw [hlen] at hn
    split
    · next hin => rw [decide_eq_true hin, Bool.true_and, Nat.min_eq_left (by omega)]
    · next hin => rw [Nat.min_eq_right (by omega)]
  · rw [insertField_getLsbD _ _ _ hi, hpos, hlen]

end Sys2Proof.Machine
end

section
/-!
SUPPORT. Immediates and the upper parts of constants (R67 to R69), and transfers of control within the PCC (R72 to R75): where a transfer goes on,
what it links, and how its target's checks fail.
-/
namespace Sys2Proof.Machine

/-! The upper parts of constants (R69). -/

/-- A chained LIH keeps bits 63:32 and puts its immediate into bits 31:16. -/
theorem lih_chained_getLsbD (x : Word) (imm : BitVec 16) {i : Nat} (hi : i < 64) :
    (((x >>> 32) <<< 32) ||| ((imm.setWidth 64 : Word) <<< 16)).getLsbD i
      = if 32 ≤ i then x.getLsbD i else decide (16 ≤ i) && imm.getLsbD (i - 16) := by
  simp only [BitVec.getLsbD_or, BitVec.getLsbD_shiftLeft, BitVec.getLsbD_ushiftRight, BitVec.getLsbD_setWidth, hi, decide_true, Bool.true_and]
  by_cases h : 32 ≤ i
  · have himm : imm.getLsbD (i - 16) = false := BitVec.getLsbD_of_ge _ _ (by omega)
    rw [if_pos h, himm, show 32 + (i - 32) = i by omega]
    simp [show ¬i < 32 by omega]
  · rw [if_neg h]
    simp [show i < 32 by omega, show i - 16 < 64 by omega, ← decide_not]

/-! The target of a transfer (R27, R75). -/

theorem branchTarget_lt (s : State) (disp : Int) : branchTarget s disp < 2 ^ 64 := by
  have hlt := Int.emod_lt_of_pos ((s.cur.pc : Int) + 4 * disp) (show (0 : Int) < 2 ^ 64 by decide)
  exact (Int.toNat_lt' (by decide)).mpr hlt

/-- A displacement counts words: the target is as aligned as the PC. -/
theorem branchTarget_aligned {s : State} (disp : Int) (h : s.cur.pc % 4 = 0) : branchTarget s disp % 4 = 0 := by
  have htarget : branchTarget s disp = (((s.cur.pc : Int) + 4 * disp) % 2 ^ 64).toNat := rfl
  omega

theorem CReg.inBounds_iff (c : CReg) (x n : Nat) : c.inBounds x n = true ↔ c.base ≤ x ∧ x + n ≤ c.top := by
  simp [CReg.inBounds]

/-- The bytes of a word at `t` lie within the bounds of the PCC. -/
abbrev State.Inside (s : State) (t : Nat) : Prop := s.cur.pcc.base ≤ t ∧ t + 4 ≤ s.cur.pcc.top

theorem transfer_outside {s : State} {t : Nat} (link : Option RegNum) (ht : t < 2 ^ 64) (ho : ¬s.Inside t) :
    transfer t link s = s.raise ⟨.capBnd, t⟩ := by
  have hb : s.cur.pcc.inBounds t 4 = false := Bool.eq_false_iff.mpr (mt (CReg.inBounds_iff ..).mp ho)
  simp only [transfer, Nat.mod_eq_of_lt ht, hb, Bool.not_false, if_true]

theorem transfer_goes {s : State} {t : Nat} (ht : t < 2 ^ 64) (hi : s.Inside t) (ha : t % 4 = 0) :
    transfer t none s = s.setCur { s.cur with pcc := s.cur.pcc.withAddr t } := by
  have hb : s.cur.pcc.inBounds t 4 = true := (CReg.inBounds_iff ..).mpr hi
  simp only [transfer, Thread.setPc, Nat.mod_eq_of_lt ht, hb, ha, Bool.not_true, Bool.false_eq_true, if_false, ne_eq, not_true]

theorem transfer_misaligned {s : State} {t : Nat} (link : Option RegNum) (ht : t < 2 ^ 64) (hi : s.Inside t) (ha : t % 4 ≠ 0) :
    transfer t link s = s.raise ⟨.align, t⟩ := by
  have hb : s.cur.pcc.inBounds t 4 = true := (CReg.inBounds_iff ..).mpr hi
  simp only [transfer, Nat.mod_eq_of_lt ht, hb, Bool.not_true, Bool.false_eq_true, if_false, if_pos ha]

@[simp] theorem Thread.pcc_setReg (h : Thread) (r : RegNum) (v : CReg) : (h.setReg r v).pcc = h.pcc := by
  unfold Thread.setReg
  split <;> rfl

theorem transfer_links {s : State} {t : Nat} (r : RegNum) (ht : t < 2 ^ 64) (hi : s.Inside t) (ha : t % 4 = 0) :
    Wrote s (transfer t (some r) s) r (untagged (BitVec.ofNat 64 (s.cur.pc + 4))) (s.cur.pcc.withAddr t) := by
  have hpcc : (s.cur.setReg r (untagged (BitVec.ofNat 64 (s.cur.pc + 4)))).setPc t
      = { s.cur.setReg r (untagged (BitVec.ofNat 64 (s.cur.pc + 4))) with pcc := s.cur.pcc.withAddr t } := by
    rw [Thread.setPc, Nat.mod_eq_of_lt ht, Thread.pcc_setReg]
  have hlink : s.writeWord r (wordOf (s.cur.pc + 4)) = s.setCur (s.cur.setReg r (untagged (BitVec.ofNat 64 (s.cur.pc + 4)))) := rfl
  have hb : s.cur.pcc.inBounds t 4 = true := (CReg.inBounds_iff ..).mpr hi
  have hgo : transfer t (some r) s = (s.writeWord r (wordOf (s.cur.pc + 4))).setCur ((s.writeWord r (wordOf (s.cur.pc + 4))).cur.setPc t) := by
    simp only [transfer, Nat.mod_eq_of_lt ht, hb, ha, Bool.not_true, Bool.false_eq_true, if_false, ne_eq, not_true]
  rw [hgo, hlink, State.setCur_setCur, State.cur_setCur, hpcc]
  exact Wrote.setCur ..

/-! Conditional branches (R72). -/

/-- What a conditional branch does: it goes to its target, traps at a target outside the PCC, or goes on with the next word. -/
def BranchYields (s : State) (disp : Int) (taken : Prop) (i : Instr) : Prop :=
  (taken → s.Inside (branchTarget s disp) → s.cur.pc % 4 = 0 → GoesTo i s (s.cur.pcc.withAddr (branchTarget s disp)))
  ∧ (taken → ¬s.Inside (branchTarget s disp) → s.Traps → TakesTrap i s ⟨.capBnd, branchTarget s disp⟩)
  ∧ (¬taken → GoesTo i s s.pccNext)

theorem branchYields_of {i : Instr} {s : State} {disp : Int} {b : Bool} {taken : Prop} (h : s.Plain)
    (he : exec i s = .next (branch b disp s)) (hb : b = true ↔ taken) : BranchYields s disp taken i := by
  have hlt := branchTarget_lt s disp
  refine ⟨fun ht hi ha => ?_, fun ht ho htr => takesTrap_of htr ?_, fun hn => ?_⟩
  · rw [GoesTo, he, branch, if_pos (hb.mpr ht), transfer_goes hlt hi (branchTarget_aligned disp ha)]
  · rw [he, branch, if_pos (hb.mpr ht), transfer_outside none hlt ho]
  · rw [GoesTo, he, branch, if_neg (mt hb.mp hn), State.finish_plain h]

/-- Settles O4: the immediates are scalar results; the twelve branches are one meaning under their conditions; the four jumps are one transfer. -/
theorem immediatesAndBranches : Obligations.ImmediatesAndBranches := by
  refine ⟨fun s d a imm n h => ⟨gives_scalar h rfl rfl, gives_scalar h rfl rfl, gives_scalar h rfl rfl, gives_scalar h rfl rfl, ?slti,
      gives_scalar h rfl rfl, gives_scalar h rfl rfl, gives_scalar h rfl rfl, ?chained, ?alone, ?lihh⟩,
    fun s a b d d12 d18 d26 h => ⟨branchYields_of h rfl beq_iff_eq, branchYields_of h rfl bne_iff_ne,
      branchYields_of h rfl decide_eq_true_iff, branchYields_of h rfl decide_eq_true_iff, branchYields_of h rfl decide_eq_true_iff,
      branchYields_of h rfl decide_eq_true_iff, branchYields_of h rfl beq_iff_eq, branchYields_of h rfl bne_iff_ne,
      branchYields_of h rfl decide_eq_true_iff, branchYields_of h rfl decide_eq_true_iff, branchYields_of h rfl decide_eq_true_iff,
      branchYields_of h rfl decide_eq_true_iff, ?direct, ?directOut, ?register, ?registerOut, ?registerAlign⟩⟩
  case slti =>
    refine gives_scalar h rfl (ofBool_of_iff ?_)
    rw [decide_eq_true_iff, BitVec.slt_iff_toInt_lt, BitVec.toInt_signExtend_of_le (by decide)]
  case chained =>
    rintro ⟨hprev, hd⟩
    exact ⟨_, gives_scalar h (congrArg _ (if_pos ⟨hprev, hd, h.1⟩)) rfl, fun i hi => lih_chained_getLsbD _ imm hi⟩
  case alone =>
    exact fun hn => gives_scalar h (congrArg _ (if_neg fun hc => hn ⟨hc.1, hc.2.1⟩)) rfl
  case lihh =>
    exact ⟨_, congrArg _ (if_pos h.1), Wrote.result_cap h d _⟩
  case direct =>
    intro ha hi
    have ht := branchTarget_lt s d26.toInt
    have hta := branchTarget_aligned d26.toInt ha
    exact ⟨congrArg _ (transfer_goes ht hi hta), _, rfl, transfer_links 31 ht hi hta⟩
  case directOut =>
    intro htr ho
    have ht := branchTarget_lt s d26.toInt
    exact ⟨takesTrap_of htr (congrArg _ (transfer_outside none ht ho)), takesTrap_of htr (congrArg _ (transfer_outside (some 31) ht ho))⟩
  case register =>
    intro hi ha
    have ht := (s.word a).isLt
    exact ⟨congrArg _ (transfer_goes ht hi ha), _, rfl, transfer_links d ht hi ha⟩
  case registerOut =>
    intro htr ho
    have ht := (s.word a).isLt
    exact ⟨takesTrap_of htr (congrArg _ (transfer_outside none ht ho)), takesTrap_of htr (congrArg _ (transfer_outside (some d) ht ho))⟩
  case registerAlign =>
    intro htr hi ha
    have ht := (s.word a).isLt
    exact ⟨takesTrap_of htr (congrArg _ (transfer_misaligned none ht hi ha)),
      takesTrap_of htr (congrArg _ (transfer_misaligned (some d) ht hi ha))⟩

end Sys2Proof.Machine
end

section
/-!
SUPPORT. The fields of a capability (R41, R42): what each way of rebuilding one keeps, and the bounds that a capability made from encoded bounds
decodes to (R78).
-/
namespace Sys2Proof.Machine

/-! Capabilities that agree in their low bits agree in the fields that lie there. -/

theorem lo64_eq_extract (q : Quad) : lo64 q = q.extractLsb' 0 64 := by
  ext i hi
  simp [lo64]

theorem CReg.field_congr {c r : CReg} {n lo len : Nat} (h : r.val.setWidth n = c.val.setWidth n) (hle : lo + len ≤ n) :
    r.val.extractLsb' lo len = c.val.extractLsb' lo len := by
  rw [← BitVec.extractLsb'_setWidth_of_le hle, h, BitVec.extractLsb'_setWidth_of_le hle]

theorem CReg.len_congr {c r : CReg} (h : r.val.setWidth 112 = c.val.setWidth 112) : r.len = c.len := by
  rw [CReg.len, CReg.len, CReg.lm, CReg.lm, CReg.exp, CReg.exp, CReg.field_congr h (by decide), CReg.field_congr h (by decide)]

theorem CReg.base_congr {c r : CReg} (h : r.val.setWidth 112 = c.val.setWidth 112) : r.base = c.base := by
  have haddr : r.addr = c.addr := by
    rw [CReg.addr, CReg.addr, lo64_eq_extract, lo64_eq_extract, CReg.field_congr h (by decide)]
  have hbm : r.bm = c.bm := congrArg BitVec.toNat (CReg.field_congr h (by decide))
  have hexp : r.exp = c.exp := congrArg BitVec.toNat (CReg.field_congr h (by decide))
  rw [CReg.base, CReg.base, haddr, hbm, hexp]

theorem CReg.top_congr {c r : CReg} (h : r.val.setWidth 112 = c.val.setWidth 112) : r.top = c.top := by
  rw [CReg.top, CReg.top, CReg.base_congr h, CReg.len_congr h]

/-- Everything below the object type stays under another object type. -/
theorem CReg.withOtype_low (c : CReg) (t : Nat) {n : Nat} (hn : n ≤ 124) : (c.withOtype t).val.setWidth n = c.val.setWidth n := by
  have h : (c.withOtype t).val.setWidth 124 = c.val.setWidth 124 := BitVec.setWidth_append_eq_right
  rw [← BitVec.setWidth_setWidth_of_le _ hn, h, BitVec.setWidth_setWidth_of_le _ hn]

@[simp] theorem CReg.withOtype_perms (c : CReg) (t : Nat) : (c.withOtype t).perms = c.perms := CReg.field_congr (c.withOtype_low t (Nat.le_refl 124)) (by decide)

@[simp] theorem CReg.withOtype_otype (c : CReg) (t : Nat) : (c.withOtype t).otype = t % 16 := by
  have h : (c.withOtype t).val.extractLsb' 124 4 = BitVec.ofNat 4 t := BitVec.extractLsb'_append_eq_left
  rw [CReg.otype, h, BitVec.toNat_ofNat]

/-- Everything below the permissions stays under other permissions. -/
theorem CReg.withPerms_low (c : CReg) (p : BitVec 12) : (c.withPerms p).val.setWidth 112 = c.val.setWidth 112 := BitVec.setWidth_append_eq_right

@[simp] theorem CReg.withPerms_perms (c : CReg) (p : BitVec 12) : (c.withPerms p).perms = p := by
  have h : (c.withPerms p).val.extractLsb' 112 12 = (c.val.extractLsb' 124 4 ++ p).extractLsb' 0 12 :=
    BitVec.extractLsb'_append_eq_of_le (by decide)
  rw [CReg.perms, h, BitVec.extractLsb'_append_eq_right]

theorem CReg.withAddr_low (c : CReg) (a : Nat) : (c.withAddr a).val.extractLsb' 0 64 = wordOf a := BitVec.extractLsb'_append_eq_right

/-- Everything above the address stays under another address. -/
theorem CReg.withAddr_high (c : CReg) (a : Nat) {lo len : Nat} (hlo : 64 ≤ lo) (hle : lo + len ≤ 128) :
    (c.withAddr a).val.extractLsb' lo len = c.val.extractLsb' lo len := by
  have h : (c.withAddr a).val.extractLsb' lo len = (hi64 c.val).extractLsb' (lo - 64) len := BitVec.extractLsb'_append_eq_of_le hlo
  rw [h, hi64, BitVec.extractLsb'_setWidth_of_le (by omega)]
  ext i hi
  simp [show 64 + (lo - 64 + i) = lo + i by omega]

/-! Encoded bounds (R78) decode to what was encoded (R42). -/

theorem mkCap_addr {a : Nat} (bm lm e : Nat) (p : BitVec 12) (ot : Nat) (ha : a < 2 ^ 64) : (mkCap a bm lm e p ot).addr = a := by
  have h : (mkCap a bm lm e p ot).val.extractLsb' 0 64 = BitVec.ofNat 64 a := BitVec.extractLsb'_append_eq_right
  rw [CReg.addr, lo64_eq_extract, h, BitVec.toNat_ofNat, Nat.mod_eq_of_lt ha]

theorem mkCap_bm (a : Nat) {bm : Nat} (lm e : Nat) (p : BitVec 12) (ot : Nat) (h : bm < 2 ^ 21) : (mkCap a bm lm e p ot).bm = bm := by
  rw [CReg.bm, mkCap, BitVec.extractLsb'_append_eq_of_le (by decide), BitVec.extractLsb'_append_eq_right, BitVec.toNat_ofNat, Nat.mod_eq_of_lt h]

theorem mkCap_lm (a bm : Nat) {lm : Nat} (e : Nat) (p : BitVec 12) (ot : Nat) (h : lm < 2 ^ 21) : (mkCap a bm lm e p ot).lm = lm := by
  rw [CReg.lm, mkCap, BitVec.extractLsb'_append_eq_of_le (by decide), BitVec.extractLsb'_append_eq_of_le (by decide),
    BitVec.extractLsb'_append_eq_right, BitVec.toNat_ofNat, Nat.mod_eq_of_lt h]

theorem mkCap_exp (a bm lm : Nat) {e : Nat} (p : BitVec 12) (ot : Nat) (h : e < 2 ^ 6) : (mkCap a bm lm e p ot).exp = e := by
  rw [CReg.exp, mkCap, BitVec.extractLsb'_append_eq_of_le (by decide), BitVec.extractLsb'_append_eq_of_le (by decide),
    BitVec.extractLsb'_append_eq_of_le (by decide), BitVec.extractLsb'_append_eq_right, BitVec.toNat_ofNat, Nat.mod_eq_of_lt h]

@[simp] theorem mkCap_perms (a bm lm e : Nat) (p : BitVec 12) (ot : Nat) : (mkCap a bm lm e p ot).perms = p := by
  rw [CReg.perms, mkCap, BitVec.extractLsb'_append_eq_of_le (by decide), BitVec.extractLsb'_append_eq_of_le (by decide),
    BitVec.extractLsb'_append_eq_of_le (by decide), BitVec.extractLsb'_append_eq_of_le (by decide), BitVec.extractLsb'_append_eq_right]

/-- A sum of two natural numbers of units, as an integer. -/
theorem natCast_units (x k y e : Nat) : (x : Int) * 2 ^ k + (y : Int) * 2 ^ e = ((x * 2 ^ k + y * 2 ^ e : Nat) : Int) := by
  simp only [Int.natCast_add, Int.natCast_mul, Int.natCast_pow, Int.cast_ofNat_Int]

/-- An address is its own residue modulo 2^64. -/
theorem toNat_emod_of_lt {n : Nat} (h : n < 2 ^ 64) : ((n : Int).emod (2 ^ 64)).toNat = n := by
  have hmod : (n : Int).emod (2 ^ 64) = n := Int.emod_eq_of_lt (by omega) (by omega)
  rw [hmod, Int.toNat_natCast]

/-- A base mantissa taken from the address itself decodes to the address, rounded down to its unit. -/
theorem mkCap_base {a : Nat} (lm : Nat) {e : Nat} (p : BitVec 12) (ot : Nat) (ha : a < 2 ^ 64) (he : e < 2 ^ 6) :
    (mkCap a (a / 2 ^ e % 2 ^ 21) lm e p ot).base = a / 2 ^ e * 2 ^ e := by
  have hsplit : a / 2 ^ (e + 21) * 2 ^ (e + 21) + a / 2 ^ e % 2 ^ 21 * 2 ^ e = a / 2 ^ e * 2 ^ e := by
    rw [Nat.pow_add, ← Nat.div_div_eq_div_mul, Nat.mul_comm (2 ^ e), ← Nat.mul_assoc, ← Nat.add_mul, Nat.div_add_mod']
  have hle : a / 2 ^ e * 2 ^ e ≤ a := Nat.div_mul_le_self ..
  rw [CReg.base, mkCap_addr _ _ _ _ _ ha, mkCap_bm _ _ _ _ _ (Nat.mod_lt _ (by decide)), mkCap_exp _ _ _ _ _ he, if_neg (Nat.lt_irrefl _)]
  rw [Int.sub_zero, natCast_units, hsplit]
  exact toNat_emod_of_lt (by omega)

theorem mkCap_top {a : Nat} {lm e : Nat} (p : BitVec 12) (ot : Nat) (ha : a < 2 ^ 64) (hlm : lm < 2 ^ 21) (he : e < 2 ^ 6) :
    (mkCap a (a / 2 ^ e % 2 ^ 21) lm e p ot).top = (a / 2 ^ e + lm) * 2 ^ e := by
  rw [CReg.top, CReg.len, mkCap_base lm p ot ha he, mkCap_lm _ _ _ _ _ hlm, mkCap_exp _ _ _ _ _ he, Nat.add_mul]

/-- What an encoding of bounds consists of. -/
theorem encodeBounds_some {base top e bm lm rb rt : Nat} (h : encodeBounds base top = some (e, bm, lm, rb, rt)) :
    e < 44 ∧ bm = base / 2 ^ e % 2 ^ 21 ∧ lm = (top + 2 ^ e - 1) / 2 ^ e - base / 2 ^ e ∧ lm < 2 ^ 21
    ∧ rb = base / 2 ^ e * 2 ^ e ∧ rt = (top + 2 ^ e - 1) / 2 ^ e * 2 ^ e := by
  obtain ⟨k, hk, hfit⟩ := List.exists_of_findSome?_eq_some h
  rw [List.mem_range] at hk
  dsimp only at hfit
  split at hfit
  · next hle =>
    simp only [Option.some.injEq, Prod.mk.injEq] at hfit
    obtain ⟨rfl, rfl, rfl, rfl, rfl⟩ := hfit
    exact ⟨hk, rfl, rfl, by omega, rfl, rfl⟩
  · cases hfit

/-- The capability of encoded bounds decodes to the rounded bounds. -/
theorem encodeBounds_decodes {a l e bm lm rb rt : Nat} (p : BitVec 12) (ot : Nat) (ha : a < 2 ^ 64)
    (h : encodeBounds a (a + l) = some (e, bm, lm, rb, rt)) : (mkCap a bm lm e p ot).base = rb ∧ (mkCap a bm lm e p ot).top = rt := by
  obtain ⟨he, rfl, hlm, hfit, rfl, rfl⟩ := encodeBounds_some h
  have hpow : 0 < 2 ^ e := Nat.two_pow_pos e
  have hmono : a / 2 ^ e ≤ (a + l + 2 ^ e - 1) / 2 ^ e := Nat.div_le_div_right (by omega)
  refine ⟨mkCap_base lm p ot ha (by omega), ?_⟩
  rw [mkCap_top p ot ha hfit (by omega), show a / 2 ^ e + lm = (a + l + 2 ^ e - 1) / 2 ^ e by omega]

theorem CReg.addr_lt (c : CReg) : c.addr < 2 ^ 64 := (lo64 c.val).isLt

end Sys2Proof.Machine
end

section
/-!
SUPPORT. Deriving a capability from another (R76 to R78): moving the address, and that no derivation widens bounds or adds permissions.
-/
namespace Sys2Proof.Machine

/-! Moving the address (R77). -/

theorem wordOf_mod (a : Nat) : wordOf (a % 2 ^ 64) = wordOf a :=
  BitVec.eq_of_toNat_eq (by rw [wordOf, wordOf, BitVec.toNat_ofNat, BitVec.toNat_ofNat, Nat.mod_mod])

theorem moveAddr_low (c : CReg) (a : Nat) : (moveAddr c a).val.extractLsb' 0 64 = wordOf a := (c.withAddr_low _).trans (wordOf_mod a)

theorem moveAddr_high (c : CReg) (a : Nat) {lo len : Nat} (hlo : 64 ≤ lo) (hle : lo + len ≤ 128) :
    (moveAddr c a).val.extractLsb' lo len = c.val.extractLsb' lo len := c.withAddr_high _ hlo hle

/-- The tag stays exactly when the source is unsealed and the new address decodes to the same base and length. -/
theorem moveAddr_tag_iff (c : CReg) (a : Nat) :
    (moveAddr c a).tag = true ↔ c.tag = true ∧ c.otype = 0 ∧ (moveAddr c a).base = c.base ∧ (moveAddr c a).len = c.len := by
  have htag : (moveAddr c a).tag = (c.tag && c.otype == 0 && (moveAddr c a).base == c.base && (moveAddr c a).len == c.len) := rfl
  rw [htag]
  simp only [Bool.and_eq_true, beq_iff_eq, and_assoc]

/-- An instruction whose result is its source with the address `a`. -/
theorem movesAddr {i : Instr} {s : State} {d : RegNum} {c : CReg} {a : Nat} {v : Word} (h : s.Plain)
    (he : exec i s = .next (capResult d (moveAddr c a) s)) (hv : wordOf a = v) :
    ∃ r : CReg, GivesCap i s d r ∧ r.val.extractLsb' 0 64 = v ∧ r.val.extractLsb' 64 64 = c.val.extractLsb' 64 64
      ∧ (r.tag = true ↔ c.tag = true ∧ c.otype = 0 ∧ r.base = c.base ∧ r.len = c.len) :=
  ⟨_, givesCap_of h he, (moveAddr_low c a).trans hv, moveAddr_high c a (Nat.le_refl 64) (Nat.le_refl 128), moveAddr_tag_iff c a⟩

theorem wordOf_toNat (x : Word) : wordOf x.toNat = x := (BitVec.ofNat_toNat ..).trans (BitVec.setWidth_eq x)

/-- A sum of two words, taken modulo 2^64. -/
theorem wordOf_add_toNat (x y : Word) : wordOf (x.toNat + y.toNat) = x + y := by
  rw [wordOf, BitVec.ofNat_add]
  exact congr (congrArg HAdd.hAdd (wordOf_toNat x)) (wordOf_toNat y)

/-- Settles O6: the three instructions move the address of one source, each to its own address. -/
theorem addressMoves : Obligations.AddressMoves := by
  intro s d a b imm h
  exact ⟨movesAddr h rfl (wordOf_toNat (s.word b)), movesAddr h rfl (wordOf_add_toNat (s.word a) (s.word b)),
    movesAddr h rfl (wordOf_add_toNat (s.word a) (imm.signExtend 64))⟩

/-! What a derived capability grants (R76). -/

/-- `c` grants all that `r` does: it is tagged, and the bounds and permissions of `r` lie within its own. -/
structure CReg.Covers (c r : CReg) : Prop where
  tag : c.tag = true
  base : c.base ≤ r.base
  top : r.top ≤ c.top
  perms : ∀ p : Nat, r.has p = true → c.has p = true

/-- The state after a derivation from `c` into `d`: a result that grants no more than `c`, or a trap. -/
inductive Derived (s : State) (d : RegNum) (c : CReg) : State → Prop
  | result (r : CReg) (h : r.tag = true → c.Covers r) : Derived s d c (capResult d r s)
  | trap (e : TrapVal) : Derived s d c (s.raise e)

/-- A checked derivation traps, or goes on with its check passed. -/
theorem Derived.checked {s : State} {d : RegNum} {c : CReg} (o : Option TrapVal) {k : State → State}
    (hk : o = none → Derived s d c (k s)) : Derived s d c (s.checked o k) := by
  cases o with
  | none => exact hk rfl
  | some e => exact .trap e

/-- A result that agrees with its source below the permissions. -/
theorem CReg.Covers.of_low {c r : CReg} (ht : c.tag = true) (h : r.val.setWidth 112 = c.val.setWidth 112)
    (hp : ∀ p : Nat, r.has p = true → c.has p = true) : c.Covers r :=
  ⟨ht, Nat.le_of_eq (CReg.base_congr h).symm, Nat.le_of_eq (CReg.top_congr h), hp⟩

theorem covers_moveAddr {c : CReg} {a : Nat} (h : (moveAddr c a).tag = true) : c.Covers (moveAddr c a) := by
  obtain ⟨ht, -, hbase, hlen⟩ := (moveAddr_tag_iff c a).mp h
  have hperms : (moveAddr c a).perms = c.perms := moveAddr_high c a (by decide) (by decide)
  refine ⟨ht, Nat.le_of_eq hbase.symm, ?_, fun p hp => ?_⟩
  · exact Nat.le_of_eq (by rw [CReg.top, CReg.top, hbase, hlen])
  · rwa [CReg.has, hperms] at hp

theorem covers_withOtype {c : CReg} (t : Nat) (h : (c.withOtype t).tag = true) : c.Covers (c.withOtype t) :=
  .of_low h (c.withOtype_low t (by decide)) fun p hp => by rwa [CReg.has, CReg.withOtype_perms] at hp

theorem covers_candp {c : CReg} {p : BitVec 12} {u : Bool} (h : (c.tag && u) = true) :
    c.Covers { c.withPerms (c.perms &&& p) with tag := c.tag && u } := by
  refine .of_low (Bool.and_eq_true_iff.mp h).1 (c.withPerms_low _) fun q hq => ?_
  have hperms : (c.withPerms (c.perms &&& p)).perms.getLsbD q = true := hq
  rw [CReg.withPerms_perms, BitVec.getLsbD_and, Bool.and_eq_true] at hperms
  exact hperms.1

theorem checkTag_none {c : CReg} {tv : Nat} {sentryOk : Bool} {perms : List Nat} (h : checkTag c tv sentryOk perms = none) : c.tag = true := by
  cases ht : c.tag with
  | true => rfl
  | false =>
    rw [checkTag, ht] at h
    cases h

theorem derived_setBounds (exactly : Bool) (d a b : RegNum) (s : State) : Derived s d (s.reg a) (setBounds exactly d a b s) := by
  unfold setBounds
  dsimp only
  split
  · exact .trap _
  · next hcheck =>
    split
    · exact .trap _
    · next e bm lm rb rt hbounds =>
      split
      · exact .trap _
      · next hin =>
        split
        · exact .trap _
        · obtain ⟨hbase, htop⟩ := encodeBounds_decodes (s.reg a).perms 0 (s.reg a).addr_lt hbounds
          refine .result _ fun _ => ⟨checkTag_none hcheck, by omega, by omega, fun p hp => ?_⟩
          rwa [CReg.has, mkCap_perms] at hp

/-- Every deriving instruction gives a result that its source covers, or traps. -/
theorem exec_derived {s : State} {d a b : RegNum} {imm : BitVec 16} {i : Instr}
    (hi : i ∈ [Instr.csadr d a b, .cinc d a b, .cinci d a imm, .cbnd d a b, .cbndx d a b, .candp d a b, .cseal d a b, .cunsl d a b,
      .csent d a, .cclrt d a, .cmov d a]) : ∃ t, exec i s = .next t ∧ Derived s d (s.reg a) t := by
  simp only [List.mem_cons, List.not_mem_nil, or_false] at hi
  rcases hi with rfl | rfl | rfl | rfl | rfl | rfl | rfl | rfl | rfl | rfl | rfl
  · exact ⟨_, rfl, .result _ covers_moveAddr⟩
  · exact ⟨_, rfl, .result _ covers_moveAddr⟩
  · exact ⟨_, rfl, .result _ covers_moveAddr⟩
  · exact ⟨_, rfl, derived_setBounds false d a b s⟩
  · exact ⟨_, rfl, derived_setBounds true d a b s⟩
  · exact ⟨_, rfl, .result _ covers_candp⟩
  · exact ⟨_, rfl, .checked _ fun _ => .checked _ fun _ => .result _ (covers_withOtype _)⟩
  · exact ⟨_, rfl, .checked _ fun _ => .checked _ fun _ => .checked _ fun _ => .result _ (covers_withOtype _)⟩
  · exact ⟨_, rfl, .checked _ fun _ => .result _ (covers_withOtype _)⟩
  · exact ⟨_, rfl, .result _ nofun⟩
  · exact ⟨_, rfl, .result _ fun h => .of_low h rfl fun _ => id⟩

/-- Settles O8: a trap sets INTRAP, and any other outcome of a deriving instruction is a result that the source covers. -/
theorem derivationNeverGrows : Obligations.DerivationNeverGrows := by
  intro s d a b imm i h htr hi hd t he hintrap htag
  obtain ⟨t', he', hderived⟩ := exec_derived hi
  obtain rfl : t' = t := by
    rw [he] at he'
    cases he'
    rfl
  cases hderived with
  | result r hcovers =>
    have hr : (capResult d r s).reg d = r := (Wrote.result_cap h d r).result.trans (if_neg hd)
    rw [hr] at htag ⊢
    obtain ⟨ht, hbase, htop, hperms⟩ := hcovers htag
    exact ⟨ht, hbase, htop, hperms⟩
  | trap e =>
    rw [State.raise_traps htr, State.cur_setCur] at hintrap
    cases hintrap

end Sys2Proof.Machine
end

section
/-!
SUPPORT. Sealing, unsealing and the capability jumps (R79 to R81): the checks of R43 in their order, one lemma for each that fails and one for all
that pass.
-/
namespace Sys2Proof.Machine

/-! The checks of the tag, the seal and the permissions (R43). -/

section
variable {c : CReg} (tv : Nat) {sentryOk : Bool} {perms : List Nat}

theorem checkTag_untagged (ht : c.tag = false) : checkTag c tv sentryOk perms = some ⟨.capTag, tv⟩ := by
  simp [checkTag, ht]

theorem checkTag_sealed (ht : c.tag = true) (ho : ¬(c.otype = 0 ∨ sentryOk = true ∧ c.otype = 15)) :
    checkTag c tv sentryOk perms = some ⟨.capSeal, tv⟩ := by
  rw [not_or] at ho
  simp [checkTag, ht, ho]

theorem checkTag_lacking (ht : c.tag = true) (ho : c.otype = 0 ∨ sentryOk = true ∧ c.otype = 15) (hp : perms.all c.has = false) :
    checkTag c tv sentryOk perms = some ⟨.capPerm, tv⟩ := by
  rcases ho with h | ⟨hs, h⟩
  · simp [checkTag, ht, h, hp]
  · simp [checkTag, ht, hs, h, hp]

theorem checkTag_passes (ht : c.tag = true) (ho : c.otype = 0 ∨ sentryOk = true ∧ c.otype = 15) (hp : perms.all c.has = true) :
    checkTag c tv sentryOk perms = none := by
  rcases ho with h | ⟨hs, h⟩
  · simp [checkTag, ht, h, hp]
  · simp [checkTag, ht, hs, h, hp]

end

theorem State.checked_some {s : State} {o : Option TrapVal} {e : TrapVal} (h : o = some e) (k : State → State) : s.checked o k = s.raise e := by
  rw [h, State.checked]

theorem State.checked_none {s : State} {o : Option TrapVal} (h : o = none) (k : State → State) : s.checked o k = k s := by
  rw [h, State.checked]

/-! Sealing and unsealing under an authority (R79). -/

/-- The authority `y` passes its checks up to the bounds (rows 3 to 6 of Table 4-9); CSEAL also needs an object type from 1 to 14. -/
structure CReg.Authority (y : CReg) : Prop where
  tag : y.tag = true
  unsealed : y.otype = 0
  perm : y.has permY = true
  base : y.base ≤ y.addr
  top : y.addr < y.top

theorem CReg.Authority.seals {y : CReg} (hy : y.Authority) (b : RegNum) (types : Bool) :
    sealAuthority y b types = if types = true ∧ ¬(1 ≤ y.addr ∧ y.addr ≤ 14) then some ⟨.capBnd, y.addr⟩ else none := by
  have hcheck : checkTag y b.val false [permY] = none := checkTag_passes _ hy.tag (.inl hy.unsealed) (by simp [hy.perm])
  have hbase := hy.base
  have htop := hy.top
  simp only [sealAuthority, hcheck]
  refine ite_of_iff ⟨fun h => ?_, fun h => .inr (.inr h)⟩
  rcases h with h | h | h
  · omega
  · omega
  · exact h

theorem execCseal_unsealed {s : State} {a : RegNum} (d b : RegNum) (ht : (s.reg a).tag = true) (ho : (s.reg a).otype = 0) :
    exec (.cseal d a b) s = .next (s.checked (sealAuthority (s.reg b) b true) fun s' =>
      capResult d ((s.reg a).withOtype ((s'.reg b).addr % 16)) s') :=
  congrArg _ (State.checked_none (checkTag_passes a.val ht (.inl ho) rfl) _)

theorem execCunsl_sealed {s : State} {a b : RegNum} (d : RegNum) (ht : (s.reg a).tag = true) (h0 : (s.reg a).otype ≠ 0)
    (h15 : (s.reg a).otype ≠ 15) (hy : (s.reg b).Authority) : exec (.cunsl d a b) s
      = .next (s.checked (if (s.reg b).addr ≠ (s.reg a).otype then some ⟨.capSeal, b.val⟩ else none) fun s' =>
          capResult d ((s.reg a).withOtype 0) s') := by
  refine congrArg _ ((State.checked_none ?_ _).trans (State.checked_none ?_ _))
  · simp [ht, h0, h15]
  · exact (hy.seals b false).trans (if_neg (by simp))

/-- A capability under another object type, as R79 gives the result. -/
theorem givesCap_withOtype {i : Instr} {s : State} {d : RegNum} {c : CReg} {t ot : Nat} (h : s.Plain)
    (he : exec i s = .next (capResult d (c.withOtype t) s)) (hot : t % 16 = ot) :
    ∃ r : CReg, GivesCap i s d r ∧ r.tag = c.tag ∧ r.otype = ot ∧ r.val.extractLsb' 0 124 = c.val.extractLsb' 0 124 :=
  ⟨_, givesCap_of h he, rfl, (c.withOtype_otype t).trans hot, CReg.field_congr (c.withOtype_low t (Nat.le_refl 124)) (Nat.le_refl 124)⟩

/-! The capability jumps (R81). -/

/-- A tagged capability that a jump takes: unsealed or a sentry, and with permission to fetch. -/
structure CReg.Jumpable (c : CReg) : Prop where
  tag : c.tag = true
  opens : c.otype = 0 ∨ c.otype = 15
  perm : c.has permX = true

theorem CReg.Jumpable.passes {c : CReg} (h : c.Jumpable) (tv : Nat) : checkTag c tv true [permX] = none :=
  checkTag_passes tv h.tag (by simpa using h.opens) (by simp [h.perm])

theorem checkFetch_of_checkTag {c : CReg} {tv : Nat} {e : TrapVal} (h : checkTag c tv true [permX] = some e) : checkFetch c tv true = some e := by
  simp only [checkFetch, h]

theorem checkFetch_outside {c : CReg} (tv : Nat) (h : c.Jumpable) (ho : ¬(c.base ≤ c.addr ∧ c.addr + 4 ≤ c.top)) :
    checkFetch c tv true = some ⟨.capBnd, c.addr⟩ := by
  have hb : c.inBounds c.addr 4 = false := Bool.eq_false_iff.mpr (mt (CReg.inBounds_iff ..).mp ho)
  simp only [checkFetch, h.passes, hb, Bool.not_false, if_true]

theorem checkFetch_misaligned {c : CReg} (tv : Nat) (h : c.Jumpable) (hi : c.base ≤ c.addr ∧ c.addr + 4 ≤ c.top) (ha : c.addr % 4 ≠ 0) :
    checkFetch c tv true = some ⟨.align, c.addr⟩ := by
  have hb : c.inBounds c.addr 4 = true := (CReg.inBounds_iff ..).mpr hi
  simp only [checkFetch, h.passes, hb, Bool.not_true, Bool.false_eq_true, if_false, if_pos ha]

theorem checkFetch_passes {c : CReg} (tv : Nat) (h : c.Jumpable) (hi : c.base ≤ c.addr ∧ c.addr + 4 ≤ c.top) (ha : c.addr % 4 = 0) :
    checkFetch c tv true = none := by
  have hb : c.inBounds c.addr 4 = true := (CReg.inBounds_iff ..).mpr hi
  simp only [checkFetch, h.passes, hb, Bool.not_true, Bool.false_eq_true, if_false, if_neg (Decidable.not_not.mpr ha)]

/-- Both jumps make the same checks, and trap alike. -/
theorem capJumps_trap {s : State} {a : RegNum} {e : TrapVal} (d : RegNum) (htr : s.Traps) (h : checkFetch (s.reg a) a.val true = some e) :
    TakesTrap (.cjr a) s e ∧ TakesTrap (.cjlr d a) s e :=
  ⟨takesTrap_of htr (congrArg _ (State.checked_some h _)), takesTrap_of htr (congrArg _ (State.checked_some h _))⟩

/-- A register result with a new PCC, which replaces the thread twice. -/
theorem Wrote.writeCap_setCur (s : State) (d : RegNum) (v p : CReg) :
    Wrote s ((s.writeCap d v).setCur { (s.writeCap d v).cur with pcc := p }) d v p := by
  rw [State.writeCap, State.setCur_setCur, State.cur_setCur]
  exact Wrote.setCur s d v p

theorem execCtsub_eq (s : State) (d a b : RegNum) : exec (.ctsub d a b) s = .next (scalar d (if (s.reg a).tag = true ∧ (s.reg b).tag = true
    ∧ (s.reg a).otype = (s.reg b).otype ∧ (s.reg a).base ≤ (s.reg b).base ∧ (s.reg b).top ≤ (s.reg a).top
    ∧ (s.reg b).perms &&& ~~~(s.reg a).perms = 0 then 1 else 0) s) :=
  congrArg (fun v => Host.Outcome.next (scalar d v s)) (ofBool_of_iff (by simp only [Bool.and_eq_true, beq_iff_eq, decide_eq_true_iff, and_assoc]))

/-- Settles O9: every check of R79 to R81 is decided, by its lemma, under the conditions that the statement names. -/
theorem sealingAndCapabilityJumps : Obligations.SealingAndCapabilityJumps := by
  refine ⟨⟨?seals, fun s d a b h => ⟨?within, ?beyond⟩⟩, fun s d a h => ⟨?jump, fun htr => ?fails⟩⟩
  case seals =>
    intro s d a b h c y typed ht hyt hy0 hyp hyb hya
    have hy : y.Authority := ⟨hyt, hy0, hyp, hyb, hya⟩
    refine ⟨fun ho h1 h14 => ?_, fun h0 h15 heq => ?_, fun htr ho hout => ?_, fun htr h0 h15 hne => ?_⟩
    · have hpass : sealAuthority y b true = none := (hy.seals b true).trans (if_neg fun hc => hc.2 ⟨h1, h14⟩)
      exact givesCap_withOtype h ((execCseal_unsealed d b ht ho).trans (congrArg _ (State.checked_none hpass _)))
        ((Nat.mod_mod ..).trans (Nat.mod_eq_of_lt (Nat.lt_of_le_of_lt h14 (by decide))))
    · exact givesCap_withOtype h ((execCunsl_sealed d ht h0 h15 hy).trans (congrArg _ (State.checked_none (if_neg (Decidable.not_not.mpr heq)) _))) rfl
    · have hfail : sealAuthority y b true = some ⟨.capBnd, y.addr⟩ := (hy.seals b true).trans (if_pos ⟨rfl, hout⟩)
      exact takesTrap_of htr ((execCseal_unsealed d b ht ho).trans (congrArg _ (State.checked_some hfail _)))
    · exact takesTrap_of htr ((execCunsl_sealed d ht h0 h15 hy).trans (congrArg _ (State.checked_some (if_pos hne) _)))
  case within => exact fun hp => gives_scalar h (execCtsub_eq s d a b) (if_pos hp)
  case beyond => exact fun hp => gives_scalar h (execCtsub_eq s d a b) (if_neg hp)
  case jump =>
    intro ht ho hp hi ha
    have hcheck := checkFetch_passes a.val ⟨ht, ho, hp⟩ hi ha
    exact ⟨congrArg _ (State.checked_none hcheck _), _, congrArg Host.Outcome.next (State.checked_none hcheck _), Wrote.writeCap_setCur ..⟩
  case fails =>
    refine ⟨fun ht => ?_, fun ht ho => ?_, fun ht ho hp => ?_, fun ht ho hp hout => ?_, fun ht ho hp hi ha => ?_⟩
    · exact capJumps_trap d htr (checkFetch_of_checkTag (checkTag_untagged _ ht))
    · exact capJumps_trap d htr (checkFetch_of_checkTag (checkTag_sealed _ ht (by simpa using ho)))
    · exact capJumps_trap d htr (checkFetch_of_checkTag (checkTag_lacking _ ht (by simpa using ho) (by simp [hp])))
    · exact capJumps_trap d htr (checkFetch_outside _ ⟨ht, ho, hp⟩ hout)
    · exact capJumps_trap d htr (checkFetch_misaligned _ ⟨ht, ho, hp⟩ hi ha)

end Sys2Proof.Machine
end
